-- ==== Sys2Proof/Word.lean ====
section
/-!
DEFINITION. The data units of R8: the 9-bit byte, the 36-bit word, the 72-bit double, the host octet,
and the names of registers as the encoding chapter gives them (R120).
-/

namespace Sys2Proof

/-- A byte of nine bits (R8). -/
abbrev Byte := BitVec 9

/-- A word of 36 bits (R8). -/
abbrev Word := BitVec 36

/-- A double of 72 bits (R8, R53). -/
abbrev DWord := BitVec 72

/-- A host-side octet of 8 bits (R8, R9). -/
abbrev Octet := BitVec 8

/-- A general register number, G0 to G31 (R120). -/
abbrev GReg := BitVec 5

/-- A capability register number, K0 to K15 (R120). -/
abbrev KReg := BitVec 4

/-- A double from its low word and its high word (R53). -/
def mkDouble (lo hi : Word) : DWord := hi ++ lo

/-- Bits [35:0] of a double (R53). -/
def lowWord (d : DWord) : Word := d.setWidth 36

/-- Bits [71:36] of a double (R53). -/
def highWord (d : DWord) : Word := (d >>> 36).setWidth 36

/-- A counter that saturates at `m` (R690). -/
def satInc (m n : Nat) : Nat := if n < m then n + 1 else n

/-- The word that holds `n` reduced to 36 bits. -/
def word (n : Nat) : Word := BitVec.ofNat 36 n

/-- Bits [hi:lo] of a natural number, as the register tables write a field (R10). -/
def bits (n hi lo : Nat) : Nat := (n / 2 ^ lo) % 2 ^ (hi + 1 - lo)

/-- Bit `i` of a natural number (R10). -/
def bit (n i : Nat) : Bool := n.testBit i

/-- A Boolean as a bit. -/
def b2n (b : Bool) : Nat := if b then 1 else 0

end Sys2Proof
end

