-- ==== Sys2Proof/Syntax.lean ====
section
/-!
DEFINITION. The commands of the C36: one constructor of `Instr` for each row of spec/opcode_table.json.
A row that is an instruction of a context carries the context and the decoded operands of the
instruction as length decode took it (R200, R222); a row that is an event carries what the outside
world supplies with it.
-/

namespace Sys2Proof

/-- A condition code of R116. -/
abbrev Cond := BitVec 4

/-- An upset in one copy of a line (R63, R64, R363, R369, R370, R574): in the L1I or L1D of a core, in the L2 of a cluster (one bit, or
more), in the system cache or in the DRAM slot (a symbol, or uncorrectable), or on the link at the next read. -/
inductive Upset where
  | l1 (core : Nat) (instr : Bool)
  | l2 (cluster : Nat) (double : Bool)
  | sys (lost : Bool) (symbol : Nat)
  | dram (lost : Bool) (symbol : Nat)
  | link
deriving DecidableEq, Repr

/-- An error in the entry of an on-die table that the next access of the table reads (R661). -/
inductive TblErr where
  | none | corrected | lost
deriving DecidableEq, Repr

/-- A hardware error that strikes as an instruction runs: in a copy of a physical line, in an entry of a core's merging buffer (R364),
in a microword of a core's control store, of one bit or of two (R388), in the state or tag store of a set of a cluster's L2 (R662), or
in the entry that the next access of an on-die table reads, by the number of the table (R661). -/
inductive Strike where
  | line (l : Nat) (u : Upset)
  | entry (core idx : Nat)
  | micro (core addr : Nat) (double : Bool)
  | tags (cluster set : Nat)
  | table (t : Nat) (err : TblErr)
deriving DecidableEq, Repr

/-- What every instruction of a context carries: the context number (R188), the condition of its head
byte (R116), its length in bytes, prefixes included (R138), and the hardware errors that strike before it runs. -/
structure Hd where
  ctx  : Nat
  cond : Cond
  len  : Nat
  strikes : List Strike := []
deriving DecidableEq, Repr

/-- The operand width a WIDTH prefix selects (R132). -/
inductive Width where
  | word | byte | half | double
deriving DecidableEq, Repr

/-- The second source of an arithmetic, move or compare instruction (forms 3, 7, 9 and 2, 6, 8 of R119). -/
inductive Src where
  | reg  (c : GReg)
  | half (imm : BitVec 18)
  | word (imm : Word)
deriving DecidableEq, Repr

/-- Operands of classes 1, 2 and 3 (R124): width, the U bit of FH, A, B and the second source. -/
structure AluOp where
  wid : Width
  u   : Bool
  a   : GReg
  b   : GReg
  src : Src
deriving DecidableEq, Repr

/-- Operands of classes 5, 6 and 7 (R125). For POPC and CLZ the source is a register. -/
structure MoveOp where
  wid : Width
  a   : GReg
  src : Src
deriving DecidableEq, Repr

/-- Rounding directions of class 4 (R125). -/
inductive Rnd where
  | nearestEven | towardZero | towardMinus | towardPlus
deriving DecidableEq, Repr

/-- Operands of class 4 (R123, R125). -/
structure FpOp where
  rnd : Rnd
  a   : GReg
  b   : GReg
  c   : GReg
deriving DecidableEq, Repr

/-- Operands of class 9: destination, source, position and width of the field (R127). -/
structure FieldOp where
  a : GReg
  b : GReg
  p : BitVec 6
  w : BitVec 6
deriving DecidableEq, Repr

/-- The second source of an address: the displacement of class 10 or the index register of class 11 (R126). -/
inductive Index where
  | disp (d : BitVec 18)
  | reg  (c : GReg)
deriving DecidableEq, Repr

/-- Operands of a load or store (R126): data register, base register, index, and the K register that
authorises the access (K0, or the one a CAPSEL prefix names, R133). -/
structure MemOp where
  a     : GReg
  b     : GReg
  idx   : Index
  auth  : KReg
deriving DecidableEq, Repr

/-- Operands of an atomic access (R134): word or double, A, B, C, authorising register. -/
structure AtomOp where
  dbl   : Bool
  a     : GReg
  b     : GReg
  c     : GReg
  auth  : KReg
deriving DecidableEq, Repr

/-- A branch displacement: class 12 and 14 (18 bits) or class 13 and 15 (36 bits) (R123). -/
inductive Disp where
  | short (d : BitVec 18)
  | long  (d : Word)
deriving DecidableEq, Repr

/-- Operands of class 20 (R129): A, B, C and the authorising register. -/
structure BlkOp where
  a    : GReg
  b    : GReg
  c    : GReg
  auth : KReg
deriving DecidableEq, Repr

/-- A customer instruction (R135, R136): entry, form of the head byte, operand bytes, payloads of the
WIDTH, CAPSEL and ATOMIC prefixes it carries, and the number of micro-operations after which it rests at
its next micro-trap point (none: it runs on). -/
structure CustOp where
  entry  : Nat
  form   : Nat
  opb    : List Byte
  wpx    : Option Byte
  cpx    : Option Byte
  apx    : Option Byte
  rest   : Option Nat
deriving DecidableEq, Repr

/-- A requester of a register access, in the sense of R110 and R323. -/
inductive Requester where
  | context (n : Nat)
  | host (p : Nat)
  | service
deriving DecidableEq, Repr

/-- A register address: a word of the register space (BAR0 octet offset divided by 8, R32), a word of
the doorbell page of a tenant's function (R431), 4 octets of a function's configuration space (`dword` n
lies at offset 4n, R528 to R530), a quarter (4 octets) of an MSI-X table entry or 4 octets of its pending
bits (R534), or an octet offset of the carriage aperture (R434). The last two are a host's request before it is decoded: an address
of its memory, which the BARs decode (R531, R533), and a routing ID, counted from the link's first, with the 4 octets (R526). -/
inductive RegAddr where
  | bar0 (n : Nat)
  | page (tenant : Nat) (n : Nat)
  | config (tenant : Nat) (dword : Nat)
  | msix (tenant : Nat) (vector : Nat) (quarter : Nat)
  | pba (tenant : Nat) (dword : Nat)
  | aperture (tenant : Nat) (offset : Nat)
  | mem (addr : Nat)
  | routing (id : Nat) (dword : Nat)
deriving DecidableEq, Repr

/-- The part of a register word that an access covers (R35): in the configuration space `full` is 4 octets, `low` and `high` two of
them; at a memory address `full` is 8 octets, `low` and `high` are 4; `other` is any other size or alignment. -/
inductive Part where
  | full | low | high | other
deriving DecidableEq, Repr

/-- A block of 66 bits as a Grevex receiver or transmitter handles it, descrambled; bit 0 is the first on the line (R83, R510). -/
abbrev Block66 := BitVec 66

/-- The two consecutive blocks of a frame (R83). -/
structure Blocks where
  first  : Block66
  second : Block66
deriving DecidableEq, Repr

/-- What the TBU measures at the edge that a BEAT frame marks: the phase that its own time shows there (R89) and the reference
time of that edge in units of 2^-24 reference cycles (R692). -/
structure Mark where
  phase   : BitVec 8
  refTime : Nat
deriving DecidableEq, Repr

/-- A BEAT frame as it arrives: its blocks, and what the TBU measures at the edge it marks. -/
structure RxBeat where
  blocks : Blocks
  mark   : Mark
deriving DecidableEq, Repr

/-- Two blocks as they arrive on a link of the facility. -/
structure RxBlocks where
  link   : Nat
  blocks : Blocks
deriving DecidableEq, Repr

/-- The fields of a BEAT frame (R86) with the measures of its Mark. -/
structure BeatFrame where
  turn    : Nat
  beat    : Nat
  edge    : Nat
  m       : Nat
  bpt     : Nat
  phase   : Nat
  refTime : Nat
deriving DecidableEq, Repr

/-- The fields of a COMMAND frame (R86). -/
structure CmdFrame where
  turn : Nat
  beat : Nat
  code : Nat
  arg  : Nat
  seq  : Nat
deriving DecidableEq, Repr

/-- How a host read completes (R538). -/
inductive Cpl where
  | ok (octets : List Octet)
  | ur
  | ca
  | poisoned
deriving DecidableEq, Repr

/-- What the service core gets when it reads an image through a host port (R414). -/
inductive ImageRead where
  | octets (d : List Octet)
  | timeout
deriving DecidableEq, Repr

/-- What a scrub read finds in its slot (R573, R571, R64). -/
inductive ScrubFind where
  | clean
  | corrected (symbol : Nat)
  | uncorrectable
deriving DecidableEq, Repr

/-- The result of ROM self-test (step 1 of R630). -/
inductive SelfTest where
  | pass | rom | ram | keyEngine
deriving DecidableEq, Repr

/-- What the world outside the device supplies to one kindling (R627, R630, R632, R640, R644, R564): the straps, the
results of the self-test and of the checks on fuses and secure flash, the boot flash as it answers, what
training finds on each channel, which clusters and PHYs pass, and the random seed of R563. -/
structure Kindle where
  bootMode   : Nat
  recovery   : Bool
  selfTest   : SelfTest
  fusesOk    : Bool
  flashOk    : Bool
  badAreas   : List Nat
  bootFlash  : Option (List Octet × List Octet)
  channelBad : List Nat
  density    : Nat
  ranks      : Nat
  clusterBad : List Nat
  phyBad     : List Nat
  avsAck     : Bool
  seed       : Nat
deriving DecidableEq, Repr

/-- A source that can wake the device from PEAT or ASH (R611); a GPIO event gives the level that its pin goes to. -/
inductive WakeSrc where
  | perst
  | gpio (n : Nat) (high : Bool)
  | stamp
  | brownOut
deriving DecidableEq, Repr

/-- The commands: one constructor per row of spec/opcode_table.json. -/
inductive Instr where
  -- arithmetic and logic (R150, R151)
  | add (h : Hd) (o : AluOp)
  | sub (h : Hd) (o : AluOp)
  | and (h : Hd) (o : AluOp)
  | or (h : Hd) (o : AluOp)
  | xor (h : Hd) (o : AluOp)
  | shl (h : Hd) (o : AluOp)
  | shr (h : Hd) (o : AluOp)
  | sar (h : Hd) (o : AluOp)
  | rol (h : Hd) (o : AluOp)
  | ror (h : Hd) (o : AluOp)
  | mul (h : Hd) (o : AluOp)
  | mulh (h : Hd) (o : AluOp)
  | div (h : Hd) (o : AluOp)
  | rem (h : Hd) (o : AluOp)
  -- FP36 (R158, R161)
  | fadd (h : Hd) (o : FpOp)
  | fsub (h : Hd) (o : FpOp)
  | fmul (h : Hd) (o : FpOp)
  | fdiv (h : Hd) (o : FpOp)
  | fsqrt (h : Hd) (o : FpOp)
  | fcmp (h : Hd) (o : FpOp)
  -- move, compare, count, select and field (R153)
  | mov (h : Hd) (o : MoveOp)
  | cmp (h : Hd) (o : MoveOp)
  | tst (h : Hd) (o : MoveOp)
  | popc (h : Hd) (o : MoveOp)
  | clz (h : Hd) (o : MoveOp)
  | sel (h : Hd) (a b c : GReg)
  | fext (h : Hd) (o : FieldOp)
  | fextS (h : Hd) (o : FieldOp)
  | fins (h : Hd) (o : FieldOp)
  -- loads and stores (R163, R164)
  | ldb (h : Hd) (o : MemOp)
  | ldh (h : Hd) (o : MemOp)
  | ldw (h : Hd) (o : MemOp)
  | ldd (h : Hd) (o : MemOp)
  | ldc (h : Hd) (o : MemOp)
  | stb (h : Hd) (o : MemOp)
  | sth (h : Hd) (o : MemOp)
  | stw (h : Hd) (o : MemOp)
  | std (h : Hd) (o : MemOp)
  | stc (h : Hd) (o : MemOp)
  -- atomics (R166)
  | atomicSwap (h : Hd) (o : AtomOp)
  | atomicAdd (h : Hd) (o : AtomOp)
  | atomicAnd (h : Hd) (o : AtomOp)
  | atomicOr (h : Hd) (o : AtomOp)
  | atomicXor (h : Hd) (o : AtomOp)
  | atomicSmin (h : Hd) (o : AtomOp)
  | atomicSmax (h : Hd) (o : AtomOp)
  | cas (h : Hd) (o : AtomOp)
  -- branches (R171)
  | br (h : Hd) (d : Disp)
  | call (h : Hd) (d : Disp)
  | brR (h : Hd) (a : GReg)
  | callR (h : Hd) (a : GReg)
  | ret (h : Hd)
  -- capabilities (R168, R170)
  | cbound (h : Hd) (a b : KReg) (c : GReg)
  | crestrict (h : Hd) (a b : KReg) (c : GReg)
  | cseal (h : Hd) (a b c : KReg)
  | cunseal (h : Hd) (a b c : KReg)
  | cget (h : Hd) (a : GReg) (b : KReg) (selr : Nat)
  | csetc (h : Hd) (a b : KReg) (c : GReg)
  | cmove (h : Hd) (a b : KReg)
  | cgets (h : Hd) (a : KReg) (selr : Nat)
  | csets (h : Hd) (b : KReg) (selr : Nat)
  | cjump (h : Hd) (a b : KReg) (c : GReg)
  -- system registers (R154)
  | getsr (h : Hd) (a : GReg) (n : BitVec 18)
  | setsr (h : Hd) (a : GReg) (n : BitVec 18)
  -- block and pattern (R174 to R176)
  | blkmove (h : Hd) (o : BlkOp)
  | blkfill (h : Hd) (o : BlkOp)
  | matchWords (h : Hd) (o : BlkOp)
  -- maintenance, translation and barriers (R180)
  | cleanA (h : Hd) (a : GReg) (auth : KReg)
  | invA (h : Hd) (a : GReg) (auth : KReg)
  | cleanS (h : Hd) (a : GReg)
  | invpg (h : Hd) (a : GReg)
  | invwalk (h : Hd)
  | invblk (h : Hd) (n : BitVec 4)
  | fenceM (h : Hd)
  | fenceL (h : Hd)
  | fenceI (h : Hd)
  | fenceT (h : Hd)
  -- system (R172, R173, R181 to R186)
  | eret (h : Hd)
  | wait (h : Hd)
  | trap (h : Hd) (n : BitVec 5)
  | eoi (h : Hd) (a : GReg)
  | sgi (h : Hd) (a : GReg)
  | alarm (h : Hd) (a : GReg)
  | take (h : Hd) (a b : KReg)
  | decide (h : Hd) (a b : GReg) (c : KReg)
  | done (h : Hd) (a : KReg)
  | nop (h : Hd)
  | customerInstruction (h : Hd) (o : CustOp)
  | illegal (ctx : Nat) (bytes : List Byte)
  -- events of the cores
  | longOpComplete (ctx : Nat) (idx : Nat)
  | customerRoutineLimit (ctx : Nat)
  | mergeEntryIdle (core : Nat) (idx : Nat)
  | mergeEntryDrain (core : Nat) (parityOk : Bool)
  | asyncStoreError (ctx : Nat)
  | predFlush (r : Requester) (core : Nat)
  | predFlushDone (core : Nat)
  | restart (r : Requester) (ctx : Nat)
  -- registers
  | glbLockSet (r : Requester)
  | registerWrite (r : Requester) (a : RegAddr) (part : Part) (v : Word)
  | rcFieldRead (r : Requester) (a : RegAddr) (part : Part)
  | tbuNowLoRead (r : Requester) (part : Part)
  | pmuResLowRead (r : Requester) (n : Nat) (part : Part)
  -- time base
  | beatFrame (link : Nat) (f : RxBeat)
  | commandFrame (link : Nat) (b : Blocks)
  | idleFrame (f : RxBlocks)
  | blockLockLoss (link : Nat)
  | linkFail (link : Nat)
  | acquireTimeout (link : Nat)
  | quietStart
  | quietEnd
  | quietWindowExpiry
  | throttleOn
  | throttleOff
  | turnReset
  | resync
  | cal
  | alarmFire (ctx : Nat)
  | deadlineDue (ctx : Nat)
  -- interrupt controller
  | sourceArrival (src : Nat)
  | levelLineChange (src : Nat) (asserted : Bool)
  | interruptDelivery
  | interruptAccept (ctx : Nat) (progress : Nat)
  | icuClockStop
  | icuClockRestart (src : Nat)
  | icuEditAcquire (r : Requester) (src : Nat)
  | icuEditCommit (r : Requester)
  | icuEditAbort (r : Requester)
  | icuLeaseExpiry
  -- rings and carriages
  | sqTailWrite (tenant ring : Nat) (v : BitVec 32)
  | cqHeadWrite (tenant ring : Nat) (v : BitVec 32)
  | ringLeaseAcquire (tenant ring : Nat)
  | ringLeaseCommit (tenant : Nat)
  | ringLeaseAbort (tenant : Nat)
  | ringLeaseExpiry (tenant : Nat)
  | carriageFetch (port : Nat)
  | readCompletion (port tag : Nat) (c : Cpl)
  | completionTimeout (port tag : Nat)
  | apertureWrite (tenant offset : Nat) (octets : List Octet)
  | apertureTimeout (tenant queue : Nat)
  | keyEngineCheck
  | unknownOpcode (port : Nat)
  | fragment (bank : Nat)
  | mailbox (port : Nat)
  | task (bank : Nat)
  | profileSet
  | poolSet
  | quotaSet
  | profileReleaseComplete (profile : Nat)
  | poolDrainCommit (pool : Nat)
  | profileLeaseExpiry (profile : Nat)
  | poolLeaseExpiry (pool : Nat)
  | assemblyDeadline (bank : Nat)
  | spentEntryExpiry (bank : Nat)
  | victimKeyExpiry (bank : Nat)
  | closeQueueEntry (bank : Nat)
  -- dispatch and decision
  | dduAccept
  | takeGrant
  | eventShed (cls : Nat)
  | decisionRelease (lane phase : Nat)
  -- carriages of the service core
  | fragmentCarriageNop (port : Nat)
  | devidSet
  | power
  | powerQuietTimeout
  | powerEntryStart
  | patchLoad (image : ImageRead)
  | decodeLoad (image : ImageRead)
  | microcodeFlip (core : Nat)
  | keyRoll
  | tenantKill
  | tenantRevive
  | releaseCore
  | coreRelease (core : Nat)
  -- host ports
  | msixPendingSend (tenant vector : Nat)
  | linkUp (port speed width : Nat)
  | linkDown (port : Nat)
  | hotReset (port : Nat)
  | freeze (port cause : Nat)
  | poisonedWrite (tenant queue : Nat)
  | functionLevelReset (tenant : Nat)
  | vfEnableClear (port : Nat)
  | busMasterEnableClear (tenant : Nat)
  | busMasterEnableSet (tenant : Nat)
  | d3hotEntry (tenant : Nat)
  | d0Return (tenant : Nat)
  | aspmL1Entry (port : Nat)
  | quarantineEnd (port : Nat)
  | freezeLeaseExpiry (port : Nat)
  | hpcUnfreezeGo (port : Nat)
  | hpcUnfreezeDrop (port : Nat)
  | ptmDialog (port : Nat)
  | ptmPeriod (port : Nat)
  | ptmResponse (port masterTime phase : Nat)
  | ptmTimeout (port : Nat)
  -- DRAM controller
  | perBankRefresh (channel bank : Nat)
  | mr4Read (channel mult : Nat)
  | neighbourRefresh (channel bank : Nat)
  | writeAgeExpiry (channel : Nat)
  | retrainingPauseDue (channel : Nat)
  | retrainingPause (channel : Nat) (first second : Bool)
  | scrubRead (channel : Nat) (found : ScrubFind)
  | eccWriteback (channel : Nat)
  | dmcMaintAcquire (r : Requester)
  | dmcMaintCommit (r : Requester)
  | dmcMaintAbort (r : Requester)
  | dmcLeaseExpiry
  | frequencyChange (failNew failOld : List Nat)
  -- system cache, service core, power
  | scbankChangeDone (bank : Nat)
  | leaseBreakIcu (r : Requester)
  | leaseBreakRing (r : Requester) (tenant : Nat)
  | leaseBreakProfile (r : Requester) (profile : Nat)
  | leaseBreakPool (r : Requester) (pool : Nat)
  | leaseBreakDram (r : Requester)
  | leaseBreakFreeze (r : Requester) (port : Nat)
  | bsuWdogWrite
  | watchdogExpiry (withinSecond : Bool) (k : Kindle)
  | fabricTimeout (group : Nat)
  | crossingFlush (group : Nat)
  | thermalAlert (tj : Nat)
  | thermalTrip (tj : Nat)
  | thermalHoldEnd
  | deviceFatalError (reason : Nat) (k : Kindle)
  | pwrOkRise (k : Kindle)
  | pwrOkFall
  | recoveryImageLoad (image : ImageRead) (readBackOk : Bool)
  | wakeEvent (src : WakeSrc)
  | brownOut
  | beatEdge
  | discardedFrame (link : Nat) (b : Blocks)
  | blockLockAcquired (link : Nat)
  | pmeTurnOffHandshake (port : Nat)
  | pmeTurnOffTimeout (port : Nat)
  | hp0WakeNTimeout
  | hostPortPerstN (port : Nat) (asserted : Bool)
  | icuStatusRead (r : Requester) (part : Part)
deriving DecidableEq, Repr

end Sys2Proof
end

