-- ==== Sys2Proof/Machine/Grevex.lean ====
section
/-!
DEFINITION. The Grevex links, octets and blocks: little-endian fields (R13), the CRC-16 (R84), the 66-bit blocks of a frame
(R83, R510) and the frame that a receiver reads from two blocks (R84 to R87).
-/

namespace Sys2Proof.Machine

open Sys2Proof

/-! ### Octets -/

/-- `n` little-endian octets of a number (R13). -/
def octetsLe : Nat → Nat → List Octet
  | 0, _ => []
  | n + 1, x => BitVec.ofNat 8 x :: octetsLe n (x / 256)

/-- The number that little-endian octets spell (R13). -/
def leNat : List Octet → Nat
  | [] => 0
  | o :: t => o.toNat + 256 * leNat t

/-! ### CRC-16 (R84) -/

/-- One octet into the CRC, most significant bit first. -/
def crcBits : Nat → BitVec 16 → BitVec 16
  | 0, c => c
  | k + 1, c => crcBits k (if c.msb then (c <<< 1) ^^^ 0x1021 else c <<< 1)

/-- The CRC-16 of a list of octets (R84). -/
def crc16 (os : List Octet) : BitVec 16 :=
  os.foldl (fun (c : BitVec 16) (o : Octet) => crcBits 8 (c ^^^ ((o.setWidth 16 : BitVec 16) <<< 8))) 0xFFFF

/-- A frame of 16 octets from its first 14 (R84). -/
def withCrc (os : List Octet) : List Octet :=
  let c := crc16 os
  os ++ [c.setWidth 8, (c >>> 8).setWidth 8]

/-- A frame of 16 octets carries its CRC (R84). -/
def crcOk (os : List Octet) : Bool := decide (withCrc (os.take 14) = os)

/-! ### Blocks (R83, R510): bit 0 is sent first, the sync header is bits [1:0], octet k is bits [8k + 9:8k + 2] -/

/-- The sync header of a block. -/
def blockSync (b : Block66) : Nat := b.toNat % 4

/-- The octets of a block, lowest first. -/
def blockOctets (b : Block66) : List Octet := octetsLe 8 (b.toNat / 4)

/-- A block with a sync header and eight octets. -/
def blockOf (sync : Nat) (os : List Octet) : Block66 := BitVec.ofNat 66 (sync + 4 * leNat os)

/-- The two blocks that carry a frame of 16 octets. -/
def blocksOf (os : List Octet) : Blocks := ⟨blockOf 2 (os.take 8), blockOf 1 (os.drop 8)⟩

/-- The octets that two blocks carry. -/
def blocksOctets (b : Blocks) : List Octet := blockOctets b.first ++ blockOctets b.second

/-- The idle block of a Grevex-D lane (R510). -/
def idleBlock : Block66 := blockOf 1 (List.replicate 8 0)

/-- A sync header that no block may have (R85). -/
def blockBad (b : Block66) : Bool := decide (blockSync b = 0) || decide (blockSync b = 3)

/-! ### Frames (R84 to R87) -/

/-- What a receiver makes of two blocks: `bad n` counts `n` in BADFRAME, `crc` one in CRC. -/
inductive Rx where
  | bad (n : Nat)
  | crc
  | idle
  | beat (f : BeatFrame)
  | command (f : CmdFrame)
deriving DecidableEq, Repr

/-- Octets `i` to `j` of a frame as a number. -/
def frameField (os : List Octet) (i j : Nat) : Nat := leNat ((os.drop i).take (j + 1 - i))

/-- The BEAT frame in 16 octets, with what the TBU measures at its marked edge (R86, R87). -/
def beatOf (os : List Octet) (mk : Mark) : BeatFrame where
  turn := frameField os 1 6
  beat := frameField os 7 8
  edge := frameField os 9 9
  m := frameField os 10 10
  bpt := frameField os 11 12 + 1
  phase := mk.phase.toNat
  refTime := mk.refTime

/-- The fields of a BEAT frame pass the range checks (R86, R87). -/
def beatFrameOk (f : BeatFrame) : Bool := decide (f.beat < f.bpt) && decide (f.edge ≤ 131) && decide (f.m ≤ 15)

/-- The COMMAND frame in 16 octets (R86). -/
def commandOf (os : List Octet) : CmdFrame where
  turn := frameField os 1 6
  beat := frameField os 7 8
  code := frameField os 9 9
  arg := frameField os 10 12
  seq := frameField os 13 13

/-- The frame of 16 octets whose CRC is right, by its type (R84 to R87). -/
def frameOf (os : List Octet) (mk : Mark) : Rx :=
  match frameField os 0 0 with
  | 0 => if frameField os 1 13 = 0 then .idle else .bad 1
  | 1 => if beatFrameOk (beatOf os mk) ∧ frameField os 13 13 = 0 then .beat (beatOf os mk) else .bad 1
  | 2 => .command (commandOf os)
  | _ => .bad 1

/-- What a receiver makes of two blocks (R83 to R85): each block with an impossible sync header is discarded, then a pair whose
headers are not 0b10 and 0b01, then a frame that fails its CRC. -/
def rxBlocks (b : Blocks) (mk : Mark) : Rx :=
  let n := b2n (blockBad b.first) + b2n (blockBad b.second)
  if n ≠ 0 then .bad n
  else if blockSync b.first ≠ 2 ∨ blockSync b.second ≠ 1 then .bad 1
  else if crcOk (blocksOctets b) then frameOf (blocksOctets b) mk
  else .crc

/-! ### Frames as the facility sends them (R86) -/

/-- The two blocks of a frame from its type and its thirteen octets of content. -/
def blocksOfFrame (ty : Nat) (content : Nat) : Blocks := blocksOf (withCrc (octetsLe 1 ty ++ octetsLe 13 content))

/-- The blocks of a BEAT frame. -/
def beatBlocks (f : BeatFrame) : Blocks :=
  blocksOfFrame 1 (f.turn + f.beat * 2 ^ 48 + f.edge * 2 ^ 64 + f.m * 2 ^ 72 + (f.bpt - 1) * 2 ^ 80)

/-- The blocks of a COMMAND frame. -/
def commandBlocks (f : CmdFrame) : Blocks :=
  blocksOfFrame 2 (f.turn + f.beat * 2 ^ 48 + f.code * 2 ^ 64 + f.arg * 2 ^ 72 + f.seq * 2 ^ 96)

/-- The blocks of an IDLE frame. -/
def idleBlocks : Blocks := blocksOfFrame 0 0

end Sys2Proof.Machine
end

