-- ==== Sys2Proof/WellFormed.lean ====
section
/-!
DEFINITION. Which commands are well formed: the checks of R120 to R136 and R138 on decoded operands, and the ranges of the
operands of events. An instruction command that fails its check raises Illegal when it runs (R118).
-/

namespace Sys2Proof

/-- The length of an instruction (R138) and its condition are always in range. -/
def Hd.wf (h : Hd) : Bool := decide (1 ≤ h.len) && decide (h.len ≤ 15) && decide (h.ctx < 512)

/-- A register field is even. -/
def evenReg (r : GReg) : Bool := decide (r.toNat % 2 = 0)

/-- The register of a source is even, if it has one. -/
def evenSrc : Src → Bool
  | .reg r => evenReg r
  | _ => true

/-- Operands of ADD, SUB, AND, OR and XOR: U is zero, and width 3 needs even registers (R124, R132). -/
def AluOp.wfWide (o : AluOp) : Bool :=
  !o.u && (decide (o.wid ≠ .double) || (evenReg o.a && evenReg o.b && evenSrc o.src))

/-- Operands of the shifts, the rotations and MUL: U is zero and width 3 is not allowed (R124, R132). -/
def AluOp.wfNarrow (o : AluOp) : Bool := !o.u && decide (o.wid ≠ .double)

/-- Operands of MULH, DIV and REM: U is free, width 3 is not allowed (R124, R132). -/
def AluOp.wfSigned (o : AluOp) : Bool := decide (o.wid ≠ .double)

/-- Operands of MOV, CMP and TST (R125, R132). -/
def MoveOp.wf (o : MoveOp) : Bool := decide (o.wid ≠ .double) || (evenReg o.a && evenSrc o.src)

/-- Operands of POPC and CLZ: a register source, no width 3 (R123, R132). -/
def MoveOp.wfCount (o : MoveOp) : Bool :=
  decide (o.wid ≠ .double) && (match o.src with | .reg _ => true | _ => false)

/-- Operands of FSQRT: C is zero (R123). -/
def FpOp.wfSqrt (o : FpOp) : Bool := decide (o.c = 0)

/-- Operands of FCMP: A is zero (R123). -/
def FpOp.wfCmp (o : FpOp) : Bool := decide (o.a = 0)

/-- A field descriptor (R127). -/
def FieldOp.wf (o : FieldOp) : Bool := decide (0 < o.w.toNat) && decide (o.p.toNat + o.w.toNat ≤ 36)

/-- Operands of LDD and STD: A is even (R126). -/
def MemOp.wfPair (o : MemOp) : Bool := evenReg o.a

/-- Operands of LDC and STC: A names a K register (R120, R126). -/
def MemOp.wfCap (o : MemOp) : Bool := decide (o.a.toNat < 16)

/-- Operands of an atomic access: A and C are even for a double (R134). -/
def AtomOp.wf (o : AtomOp) : Bool := !o.dbl || (evenReg o.a && evenReg o.c)

/-- The number of operand bytes of a form (R119). -/
def formBytes : Nat → Nat
  | 0 => 0
  | 1 => 1
  | 2 => 2
  | 3 => 3
  | 4 => 2
  | 5 => 3
  | 6 => 3
  | 7 => 4
  | 8 => 5
  | 9 => 6
  | 10 => 2
  | 11 => 4
  | _ => 0

/-- A customer instruction: entry 0 to 63, form 0 to 11 with its operand bytes (R135), and prefix payloads within their ranges (R132 to
R134). -/
def CustOp.wf (o : CustOp) : Bool :=
  decide (o.entry < 64) && decide (o.form ≤ 11) && decide (o.opb.length = formBytes o.form)
    && (match o.wpx with | some p => decide (p.toNat < 4) | none => true)
    && (match o.cpx with | some p => decide (p.toNat < 16) | none => true)
    && (match o.apx with | some p => decide (p.toNat < 8) | none => true)

/-- A requester that exists: a context, a host port or the service core (R323). -/
def Requester.wf : Requester → Bool
  | .context n => decide (n < 512)
  | .host p => decide (p < 4)
  | .service => true

/-- A register address within its range: the register space (R32), the doorbell page of a tenant (R431), the
configuration space of a function (R526), its MSI-X table and pending bits (R534), its aperture (R532), a memory address of 64 bits,
or a routing ID of the eight bus numbers of a merged link (R526). -/
def RegAddr.wf : RegAddr → Bool
  | .bar0 n => decide (n < 2 ^ 18)
  | .page t n => decide (t < 4096) && decide (n < 512)
  | .config t n => decide (t < 4096) && decide (n < 1024)
  | .msix t v q => decide (t < 4096) && decide (v < 2048) && decide (q < 4)
  | .pba t n => decide (t < 4096) && decide (n < 64)
  | .aperture t o => decide (t < 4096) && decide (o < 2 ^ 36)
  | .mem a => decide (a < 2 ^ 64)
  | .routing i n => decide (i < 2048) && decide (n < 1024)

/-- Two blocks carry a BEAT frame (R86). -/
def Blocks.isBeat (b : Blocks) (mk : Mark) : Bool :=
  match Machine.rxBlocks b mk with
  | .beat _ => true
  | _ => false

/-- Two blocks carry a COMMAND frame (R86). -/
def Blocks.isCommand (b : Blocks) : Bool :=
  match Machine.rxBlocks b ⟨0, 0⟩ with
  | .command _ => true
  | _ => false

/-- Two blocks carry what a receiver discards (R84, R85). -/
def Blocks.isDiscarded (b : Blocks) : Bool :=
  match Machine.rxBlocks b ⟨0, 0⟩ with
  | .bad _ => true
  | .crc => true
  | _ => false

/-- A GPIO wake source is one of the pins that can wake (R611). -/
def WakeSrc.wf : WakeSrc → Bool
  | .gpio n _ => decide (n < 16)
  | _ => true

/-- The command is well formed. -/
def Instr.wf : Instr → Bool
  | .add h o => h.wf && o.wfWide
  | .sub h o => h.wf && o.wfWide
  | .and h o => h.wf && o.wfWide
  | .or h o => h.wf && o.wfWide
  | .xor h o => h.wf && o.wfWide
  | .shl h o => h.wf && o.wfNarrow
  | .shr h o => h.wf && o.wfNarrow
  | .sar h o => h.wf && o.wfNarrow
  | .rol h o => h.wf && o.wfNarrow
  | .ror h o => h.wf && o.wfNarrow
  | .mul h o => h.wf && o.wfNarrow
  | .mulh h o => h.wf && o.wfSigned
  | .div h o => h.wf && o.wfSigned
  | .rem h o => h.wf && o.wfSigned
  | .fadd h _ => h.wf
  | .fsub h _ => h.wf
  | .fmul h _ => h.wf
  | .fdiv h _ => h.wf
  | .fsqrt h o => h.wf && o.wfSqrt
  | .fcmp h o => h.wf && o.wfCmp
  | .mov h o => h.wf && o.wf
  | .cmp h o => h.wf && o.wf
  | .tst h o => h.wf && o.wf
  | .popc h o => h.wf && o.wfCount
  | .clz h o => h.wf && o.wfCount
  | .sel h _ _ _ => h.wf
  | .fext h o => h.wf && o.wf
  | .fextS h o => h.wf && o.wf
  | .fins h o => h.wf && o.wf
  | .ldb h _ => h.wf
  | .ldh h _ => h.wf
  | .ldw h _ => h.wf
  | .ldd h o => h.wf && o.wfPair
  | .ldc h o => h.wf && o.wfCap
  | .stb h _ => h.wf
  | .sth h _ => h.wf
  | .stw h _ => h.wf
  | .std h o => h.wf && o.wfPair
  | .stc h o => h.wf && o.wfCap
  | .atomicSwap h o => h.wf && o.wf
  | .atomicAdd h o => h.wf && o.wf
  | .atomicAnd h o => h.wf && o.wf
  | .atomicOr h o => h.wf && o.wf
  | .atomicXor h o => h.wf && o.wf
  | .atomicSmin h o => h.wf && o.wf
  | .atomicSmax h o => h.wf && o.wf
  | .cas h o => h.wf && o.wf
  | .br h _ => h.wf
  | .call h _ => h.wf
  | .brR h _ => h.wf
  | .callR h _ => h.wf
  | .ret h => h.wf
  | .cbound h _ _ _ => h.wf
  | .crestrict h _ _ _ => h.wf
  | .cseal h _ _ _ => h.wf
  | .cunseal h _ _ _ => h.wf
  | .cget h _ _ k => h.wf && Decidable.decide (k ≤ 4)
  | .csetc h _ _ _ => h.wf
  | .cmove h _ _ => h.wf
  | .cgets h _ k => h.wf && Decidable.decide (k ≤ 2)
  | .csets h _ k => h.wf && Decidable.decide (k ≤ 2)
  | .cjump h _ _ _ => h.wf
  | .getsr h _ _ => h.wf
  | .setsr h _ _ => h.wf
  | .blkmove h _ => h.wf
  | .blkfill h _ => h.wf
  | .matchWords h _ => h.wf
  | .cleanA h _ _ => h.wf
  | .invA h _ _ => h.wf
  | .cleanS h _ => h.wf
  | .invpg h _ => h.wf
  | .invwalk h => h.wf
  | .invblk h _ => h.wf
  | .fenceM h => h.wf
  | .fenceL h => h.wf
  | .fenceI h => h.wf
  | .fenceT h => h.wf
  | .eret h => h.wf
  | .wait h => h.wf
  | .trap h _ => h.wf
  | .eoi h _ => h.wf
  | .sgi h _ => h.wf
  | .alarm h _ => h.wf
  | .take h _ _ => h.wf
  | .decide h _ _ _ => h.wf
  | .done h _ => h.wf
  | .nop h => h.wf
  | .customerInstruction h o => h.wf && o.wf
  | .illegal ctx bytes => Decidable.decide (ctx < 512) && Decidable.decide (bytes.length ≤ 15)
  | .longOpComplete ctx idx => Decidable.decide (ctx < 512) && Decidable.decide (idx < 2)
  | .customerRoutineLimit ctx => Decidable.decide (ctx < 512)
  | .mergeEntryIdle core idx => Decidable.decide (core < 128) && Decidable.decide (idx < 8)
  | .mergeEntryDrain core _ => Decidable.decide (core < 128)
  | .asyncStoreError ctx => Decidable.decide (ctx < 512)
  | .predFlush r core => r.wf && Decidable.decide (core < 128)
  | .predFlushDone core => Decidable.decide (core < 128)
  | .restart r ctx => r.wf && Decidable.decide (ctx < 512)
  | .glbLockSet r => r.wf
  | .registerWrite r a _ _ => r.wf && a.wf
  | .rcFieldRead r a _ => r.wf && a.wf
  | .tbuNowLoRead r _ => r.wf
  | .pmuResLowRead r n _ => r.wf && Decidable.decide (n < 128)
  | .beatFrame link f => Decidable.decide (link < 2) && f.blocks.isBeat f.mark
  | .commandFrame link b => Decidable.decide (link < 2) && b.isCommand
  | .idleFrame f => Decidable.decide (f.link < 2) && Decidable.decide (Machine.rxBlocks f.blocks ⟨0, 0⟩ = .idle)
  | .blockLockLoss link => Decidable.decide (link < 2)
  | .linkFail link => Decidable.decide (link < 2)
  | .acquireTimeout link => Decidable.decide (link < 2)
  | .quietStart => true
  | .quietEnd => true
  | .quietWindowExpiry => true
  | .throttleOn => true
  | .throttleOff => true
  | .turnReset => true
  | .resync => true
  | .cal => true
  | .alarmFire ctx => Decidable.decide (ctx < 512)
  | .deadlineDue ctx => Decidable.decide (ctx < 512)
  | .sourceArrival src => Decidable.decide (src < 8192)
  | .levelLineChange src _ => Decidable.decide (src < 8192)
  | .interruptDelivery => true
  | .interruptAccept ctx _ => Decidable.decide (ctx < 512)
  | .icuClockStop => true
  | .icuClockRestart src => Decidable.decide (src < 8192)
  | .icuEditAcquire r src => r.wf && Decidable.decide (src < 8192)
  | .icuEditCommit r => r.wf
  | .icuEditAbort r => r.wf
  | .icuLeaseExpiry => true
  | .sqTailWrite tenant ring _ => Decidable.decide (tenant < 4096) && Decidable.decide (ring < 4)
  | .cqHeadWrite tenant ring _ => Decidable.decide (tenant < 4096) && Decidable.decide (ring < 4)
  | .ringLeaseAcquire tenant ring => Decidable.decide (tenant < 4096) && Decidable.decide (ring < 8)
  | .ringLeaseCommit tenant => Decidable.decide (tenant < 4096)
  | .ringLeaseAbort tenant => Decidable.decide (tenant < 4096)
  | .ringLeaseExpiry tenant => Decidable.decide (tenant < 4096)
  | .carriageFetch port => Decidable.decide (port < 4)
  | .readCompletion port tag _ => Decidable.decide (port < 4) && Decidable.decide (tag < 1024)
  | .completionTimeout port tag => Decidable.decide (port < 4) && Decidable.decide (tag < 1024)
  | .apertureWrite tenant _ _ => Decidable.decide (tenant < 4096)
  | .apertureTimeout tenant queue => Decidable.decide (tenant < 4096) && Decidable.decide (queue < 16777216)
  | .keyEngineCheck => true
  | .unknownOpcode port => Decidable.decide (port < 4)
  | .fragment bank => Decidable.decide (bank < 16)
  | .mailbox port => Decidable.decide (port < 4)
  | .task bank => Decidable.decide (bank < 16)
  | .profileSet => true
  | .poolSet => true
  | .quotaSet => true
  | .profileReleaseComplete profile => Decidable.decide (profile < 1024)
  | .poolDrainCommit pool => Decidable.decide (pool < 4096)
  | .profileLeaseExpiry profile => Decidable.decide (profile < 1024)
  | .poolLeaseExpiry pool => Decidable.decide (pool < 4096)
  | .assemblyDeadline bank => Decidable.decide (bank < 16)
  | .spentEntryExpiry bank => Decidable.decide (bank < 16)
  | .victimKeyExpiry bank => Decidable.decide (bank < 16)
  | .closeQueueEntry bank => Decidable.decide (bank < 16)
  | .dduAccept => true
  | .takeGrant => true
  | .eventShed cls => Decidable.decide (cls < 64)
  | .decisionRelease lane phase => Decidable.decide (lane < 4) && Decidable.decide (phase < 66)
  | .fragmentCarriageNop port => Decidable.decide (port < 4)
  | .devidSet => true
  | .power => true
  | .powerQuietTimeout => true
  | .powerEntryStart => true
  | .patchLoad _ => true
  | .decodeLoad _ => true
  | .microcodeFlip core => Decidable.decide (core < 128)
  | .keyRoll => true
  | .tenantKill => true
  | .tenantRevive => true
  | .releaseCore => true
  | .coreRelease core => Decidable.decide (core < 128)
  | .msixPendingSend tenant vector => Decidable.decide (tenant < 4096) && Decidable.decide (vector < 2048)
  | .linkUp port _ _ => Decidable.decide (port < 4)
  | .linkDown port => Decidable.decide (port < 4)
  | .hotReset port => Decidable.decide (port < 4)
  | .freeze port _ => Decidable.decide (port < 4)
  | .poisonedWrite tenant queue => Decidable.decide (tenant < 4096) && Decidable.decide (queue < 16777216)
  | .functionLevelReset tenant => Decidable.decide (tenant < 4096)
  | .vfEnableClear port => Decidable.decide (port < 4)
  | .busMasterEnableClear tenant => Decidable.decide (tenant < 4096)
  | .busMasterEnableSet tenant => Decidable.decide (tenant < 4096)
  | .d3hotEntry tenant => Decidable.decide (tenant < 4096)
  | .d0Return tenant => Decidable.decide (tenant < 4096)
  | .aspmL1Entry port => Decidable.decide (port < 4)
  | .quarantineEnd port => Decidable.decide (port < 4)
  | .freezeLeaseExpiry port => Decidable.decide (port < 4)
  | .hpcUnfreezeGo port => Decidable.decide (port < 4)
  | .hpcUnfreezeDrop port => Decidable.decide (port < 4)
  | .ptmDialog port => Decidable.decide (port < 4)
  | .ptmPeriod port => Decidable.decide (port < 4)
  | .ptmResponse port _ _ => Decidable.decide (port < 4)
  | .ptmTimeout port => Decidable.decide (port < 4)
  | .perBankRefresh channel bank => Decidable.decide (channel < 16) && Decidable.decide (bank < 32)
  | .mr4Read channel _ => Decidable.decide (channel < 16)
  | .neighbourRefresh channel bank => Decidable.decide (channel < 16) && Decidable.decide (bank < 32)
  | .writeAgeExpiry channel => Decidable.decide (channel < 16)
  | .retrainingPauseDue channel => Decidable.decide (channel < 16)
  | .retrainingPause channel _ _ => Decidable.decide (channel < 16)
  | .scrubRead channel _ => Decidable.decide (channel < 16)
  | .eccWriteback channel => Decidable.decide (channel < 16)
  | .dmcMaintAcquire r => r.wf
  | .dmcMaintCommit r => r.wf
  | .dmcMaintAbort r => r.wf
  | .dmcLeaseExpiry => true
  | .frequencyChange _ _ => true
  | .scbankChangeDone bank => Decidable.decide (bank < 32)
  | .leaseBreakIcu r => r.wf
  | .leaseBreakRing r tenant => r.wf && Decidable.decide (tenant < 4096)
  | .leaseBreakProfile r profile => r.wf && Decidable.decide (profile < 1024)
  | .leaseBreakPool r pool => r.wf && Decidable.decide (pool < 4096)
  | .leaseBreakDram r => r.wf
  | .leaseBreakFreeze r port => r.wf && Decidable.decide (port < 4)
  | .bsuWdogWrite => true
  | .watchdogExpiry _ _ => true
  | .fabricTimeout group => Decidable.decide (group < 45)
  | .crossingFlush group => Decidable.decide (group < 45)
  | .thermalAlert _ => true
  | .thermalTrip _ => true
  | .thermalHoldEnd => true
  | .deviceFatalError _ _ => true
  | .pwrOkRise _ => true
  | .pwrOkFall => true
  | .recoveryImageLoad _ _ => true
  | .wakeEvent src => src.wf
  | .brownOut => true
  | .beatEdge => true
  | .discardedFrame link b => Decidable.decide (link < 2) && b.isDiscarded
  | .blockLockAcquired link => Decidable.decide (link < 2)
  | .pmeTurnOffHandshake port => Decidable.decide (port < 4)
  | .pmeTurnOffTimeout port => Decidable.decide (port < 4)
  | .hp0WakeNTimeout => true
  | .hostPortPerstN port _ => Decidable.decide (port < 4)
  | .icuStatusRead r _ => r.wf

end Sys2Proof
end

