-- ==== Sys2Proof/Decode.lean ====
section
/-!
DEFINITION. Instruction bytes to decoded operands: length decoding (R137), the forms and classes (R119 to R130) and the
prefixes (R131 to R136). No row of spec/opcode_table.json gives bits, so no table word spells a command.
-/

namespace Sys2Proof

/-- The class of a head or prefix byte (R115). -/
def byteClass (b : Byte) : Nat := b.toNat % 32

/-- The condition of a head or prefix byte (R115). -/
def byteCond (b : Byte) : Nat := b.toNat / 32

/-- The form of a class (R123); none for class 0 and classes 24 to 27. -/
def formOf : Nat → Option Nat
  | 1 => some 3
  | 2 => some 7
  | 3 => some 9
  | 4 => some 3
  | 5 => some 2
  | 6 => some 6
  | 7 => some 8
  | 8 => some 3
  | 9 => some 7
  | 10 => some 7
  | 11 => some 3
  | 12 => some 10
  | 13 => some 11
  | 14 => some 10
  | 15 => some 11
  | 16 => some 1
  | 17 => some 3
  | 18 => some 3
  | 19 => some 6
  | 20 => some 3
  | 21 => some 1
  | 22 => some 1
  | 23 => some 0
  | _ => none

/-- The outcome of length decoding (R137): the prefixes as (class, payload) pairs, whether XTND is among them, the head byte
and the operand bytes; or illegal after so many bytes; or more bytes are needed. -/
inductive Len where
  | ok (n : Nat) (pre : List (Nat × Byte)) (head : Byte) (ops : List Byte)
  | illegal (n : Nat)
  | short
deriving DecidableEq, Repr

/-- The procedure of R137 from the byte at offset `n`, with the prefixes seen so far. -/
def lengthFrom : Nat → Nat → List (Nat × Byte) → List Byte → Len
  | 0, _, _, _ => .short
  | fuel + 1, n, pre, bs =>
    match bs with
    | [] => .short
    | b :: rest =>
      let xtnd := pre.any (fun p => decide (p.1 = 31))
      if 28 ≤ byteClass b then
        if xtnd then .illegal (n + 1)
        else if byteCond b ≠ 0 then .illegal (n + 1)
        else if 4 ≤ pre.length ∨ pre.any (fun p => decide (p.1 = byteClass b)) then .illegal (n + 1)
        else match rest with
          | [] => .short
          | p :: rest' => lengthFrom fuel (n + 2) (pre ++ [(byteClass b, p)]) rest'
      else
        match (if xtnd then some (byteClass b) else formOf (byteClass b)) with
        | none => .illegal (n + 1)
        | some f =>
          if 11 < f then .illegal (n + 1)
          else if rest.length < formBytes f then .short
          else .ok (n + 1 + formBytes f) pre b (rest.take (formBytes f))

/-- Length decoding of the bytes at an instruction's address (R137, R138). -/
def lengthDecode (bs : List Byte) : Len := lengthFrom 6 0 [] bs

/-- Operand byte `i`. -/
def opByte (ops : List Byte) (i : Nat) : Byte := ops.getD i 0

/-- The low five bits of operand byte `i`: a register field (R119). -/
def opReg (ops : List Byte) (i : Nat) : GReg := (opByte ops i).setWidth 5

/-- Bits [8:5] of operand byte `i`: FN or FH (R119). -/
def opHi (ops : List Byte) (i : Nat) : Nat := (opByte ops i).toNat / 32

/-- An immediate stored little-endian from operand byte `i` (R119). -/
def opImm (ops : List Byte) (i n : Nat) : Nat := ((ops.drop i).take n).foldr (fun b a => b.toNat + 512 * a) 0

/-- A register field as a K register; its bit 4 must be zero (R120). -/
def asK (r : GReg) : Option KReg := if r.toNat < 16 then some (r.setWidth 4) else none

/-- The WIDTH prefix: payload 0 to 3 (R132). -/
def widthOf : Option Byte → Option Width
  | none => some .word
  | some p => match p.toNat with
    | 0 => some .word
    | 1 => some .byte
    | 2 => some .half
    | 3 => some .double
    | _ => none

/-- The CAPSEL prefix: payload 0 to 15; K0 without it (R133). -/
def capselOf : Option Byte → Option KReg
  | none => some 0
  | some p => if p.toNat < 16 then some (p.setWidth 4) else none

/-- An arithmetic or logic instruction (R124). -/
def aluInstr (fn : Nat) (h : Hd) (o : AluOp) : Option Instr :=
  match fn with
  | 0 => some (.add h o)
  | 1 => some (.sub h o)
  | 2 => some (.and h o)
  | 3 => some (.or h o)
  | 4 => some (.xor h o)
  | 5 => some (.shl h o)
  | 6 => some (.shr h o)
  | 7 => some (.sar h o)
  | 8 => some (.rol h o)
  | 9 => some (.ror h o)
  | 10 => some (.mul h o)
  | 11 => some (.mulh h o)
  | 12 => some (.div h o)
  | 13 => some (.rem h o)
  | _ => none

/-- A load or store (R126). -/
def memInstr (fn : Nat) (h : Hd) (o : MemOp) : Option Instr :=
  match fn with
  | 0 => some (.ldb h o)
  | 1 => some (.ldh h o)
  | 2 => some (.ldw h o)
  | 3 => some (.ldd h o)
  | 4 => some (.ldc h o)
  | 8 => some (.stb h o)
  | 9 => some (.sth h o)
  | 10 => some (.stw h o)
  | 11 => some (.std h o)
  | 12 => some (.stc h o)
  | _ => none

/-- An atomic access (R134). -/
def atomInstr (op : Nat) (h : Hd) (o : AtomOp) : Option Instr :=
  match op with
  | 0 => some (.atomicSwap h o)
  | 1 => some (.atomicAdd h o)
  | 2 => some (.atomicAnd h o)
  | 3 => some (.atomicOr h o)
  | 4 => some (.atomicXor h o)
  | 5 => some (.atomicSmin h o)
  | 6 => some (.atomicSmax h o)
  | 7 => some (.cas h o)
  | _ => none

/-- A move, compare or count instruction (R123, R125). -/
def moveInstr (fn : Nat) (h : Hd) (o : MoveOp) : Option Instr :=
  match fn with
  | 0 => some (.mov h o)
  | 1 => some (.cmp h o)
  | 2 => some (.tst h o)
  | 3 => some (.popc h o)
  | 4 => some (.clz h o)
  | _ => none

/-- An FP36 instruction (R123, R125). -/
def fpInstr (fn : Nat) (h : Hd) (o : FpOp) : Option Instr :=
  match fn with
  | 0 => some (.fadd h o)
  | 1 => some (.fsub h o)
  | 2 => some (.fmul h o)
  | 3 => some (.fdiv h o)
  | 4 => some (.fsqrt h o)
  | 5 => some (.fcmp h o)
  | _ => none

/-- The rounding that FH selects (R125). -/
def rndOf : Nat → Option Rnd
  | 0 => some .nearestEven
  | 1 => some .towardZero
  | 2 => some .towardMinus
  | 3 => some .towardPlus
  | _ => none

/-- A capability instruction (R128). -/
def capInstr (fn : Nat) (h : Hd) (a b c : GReg) : Option Instr :=
  match fn with
  | 0 => do some (.cbound h (← asK a) (← asK b) c)
  | 1 => do some (.crestrict h (← asK a) (← asK b) c)
  | 2 => do some (.cseal h (← asK a) (← asK b) (← asK c))
  | 3 => do some (.cunseal h (← asK a) (← asK b) (← asK c))
  | 4 => do some (.cget h a (← asK b) c.toNat)
  | 5 => do some (.csetc h (← asK a) (← asK b) c)
  | 6 => if c = 0 then do some (.cmove h (← asK a) (← asK b)) else none
  | 7 => if b = 0 then do some (.cgets h (← asK a) c.toNat) else none
  | 8 => if a = 0 then do some (.csets h (← asK b) c.toNat) else none
  | _ => none

/-- A maintenance instruction (R130). -/
def maintInstr (fn : Nat) (h : Hd) (a : GReg) (auth : KReg) : Option Instr :=
  match fn with
  | 0 => some (.cleanA h a auth)
  | 1 => some (.invA h a auth)
  | 2 => some (.cleanS h a)
  | 3 => some (.invpg h a)
  | 4 => if a = 0 then some (.invwalk h) else none
  | 5 => do some (.invblk h (← asK a))
  | _ => none

/-- A system instruction (R130). -/
def sysInstr (fn : Nat) (h : Hd) (a : GReg) : Option Instr :=
  let z := fun (i : Instr) => if a = 0 then some i else none
  match fn with
  | 0 => z (.fenceM h)
  | 1 => z (.fenceL h)
  | 2 => z (.fenceI h)
  | 3 => z (.fenceT h)
  | 4 => z (.eret h)
  | 5 => z (.ret h)
  | 6 => z (.wait h)
  | 7 => some (.trap h a)
  | 8 => some (.eoi h a)
  | 9 => some (.sgi h a)
  | 10 => some (.alarm h a)
  | 11 => do some (.done h (← asK a))
  | _ => none

/-- An instruction of class `cl` from its operand bytes, with its WIDTH, CAPSEL and ATOMIC payloads (R119 to R134). Prefixes
that the class does not take make it illegal. -/
def classInstr (cl : Nat) (h : Hd) (ops : List Byte) (wp cp ap : Option Byte) : Option Instr :=
  let a := opReg ops 0
  let b := opReg ops 1
  let c := opReg ops 2
  let fn := opHi ops 0
  let fh := opHi ops 1
  let regC := decide (opHi ops 2 = 0)
  let half : BitVec 18 := BitVec.ofNat 18 (opImm ops (if cl = 2 ∨ cl = 9 ∨ cl = 10 then 2 else 1) 2)
  let bare := wp.isNone && cp.isNone && ap.isNone
  let wonly := cp.isNone && ap.isNone
  let conly := wp.isNone && ap.isNone
  match cl with
  | 1 => if wonly && regC && decide (fh < 2) then do aluInstr fn h ⟨← widthOf wp, decide (fh = 1), a, b, .reg c⟩ else none
  | 2 => if wonly && decide (fh < 2) then do aluInstr fn h ⟨← widthOf wp, decide (fh = 1), a, b, .half half⟩ else none
  | 3 => if wonly && decide (fh < 2) then
      do aluInstr fn h ⟨← widthOf wp, decide (fh = 1), a, b, .word (BitVec.ofNat 36 (opImm ops 2 4))⟩ else none
  | 4 => if bare && regC then do fpInstr fn h ⟨← rndOf fh, a, b, c⟩ else none
  | 5 => if wonly && decide (fh = 0) then do moveInstr fn h ⟨← widthOf wp, a, .reg b⟩ else none
  | 6 => if wonly && decide (fn ≤ 2) then do moveInstr fn h ⟨← widthOf wp, a, .half half⟩ else none
  | 7 => if wonly && decide (fn ≤ 2) then
      do moveInstr fn h ⟨← widthOf wp, a, .word (BitVec.ofNat 36 (opImm ops 1 4))⟩ else none
  | 8 => if bare && regC && decide (fn = 0) && decide (fh = 0) then some (.sel h a b c) else none
  | 9 =>
    if bare && decide (fh = 0) && decide (half.toNat < 4096) then
      let o : FieldOp := ⟨a, b, half.setWidth 6, (half >>> 6).setWidth 6⟩
      match fn with
      | 0 => some (.fext h o)
      | 1 => some (.fextS h o)
      | 2 => some (.fins h o)
      | _ => none
    else none
  | 10 => if conly && decide (fh = 0) then do memInstr fn h ⟨a, b, .disp half, ← capselOf cp⟩ else none
  | 11 =>
    if wp.isNone && decide (fh = 0) && regC then
      match ap with
      | none => do memInstr fn h ⟨a, b, .reg c, ← capselOf cp⟩
      | some p => if fn = 2 ∨ fn = 3 then do atomInstr p.toNat h ⟨decide (fn = 3), a, b, c, ← capselOf cp⟩ else none
    else none
  | 12 => if bare then some (.br h (.short (BitVec.ofNat 18 (opImm ops 0 2)))) else none
  | 13 => if bare then some (.br h (.long (BitVec.ofNat 36 (opImm ops 0 4)))) else none
  | 14 => if bare then some (.call h (.short (BitVec.ofNat 18 (opImm ops 0 2)))) else none
  | 15 => if bare then some (.call h (.long (BitVec.ofNat 36 (opImm ops 0 4)))) else none
  | 16 => if bare then (match fn with | 0 => some (.brR h a) | 1 => some (.callR h a) | _ => none) else none
  | 17 => if bare && decide (fh = 0) && regC then capInstr fn h a b c else none
  | 18 =>
    if bare && decide (fh = 0) && regC then
      match fn with
      | 0 => do some (.cjump h (← asK a) (← asK b) c)
      | 1 => if c = 0 then do some (.take h (← asK a) (← asK b)) else none
      | 2 => do some (.decide h a b (← asK c))
      | _ => none
    else none
  | 19 => if bare then (match fn with | 0 => some (.getsr h a half) | 1 => some (.setsr h a half) | _ => none) else none
  | 20 =>
    if conly && decide (fh = 0) && regC then
      do
        let k ← capselOf cp
        match fn with
        | 0 => some (.blkmove h ⟨a, b, c, k⟩)
        | 1 => some (.blkfill h ⟨a, b, c, k⟩)
        | 2 => some (.matchWords h ⟨a, b, c, k⟩)
        | _ => none
    else none
  | 21 =>
    if conly && (cp.isNone || decide (fn = 0) || decide (fn = 1) || decide (fn = 3)) then do maintInstr fn h a (← capselOf cp)
    else none
  | 22 => if bare then sysInstr fn h a else none
  | 23 => if bare then some (.nop h) else none
  | _ => none

/-- The payload of the prefix of a class. -/
def prefixOf (pre : List (Nat × Byte)) (cl : Nat) : Option Byte := (pre.find? (fun p => decide (p.1 = cl))).map (·.2)

/-- The instruction that the bytes at the cursor of context `ctx` decode to: legal under R120 to R136 (those of R136 that
depend on the loaded table apart). -/
def decodeInstr (ctx : Nat) (bs : List Byte) : Option Instr :=
  match lengthDecode bs with
  | .ok n pre head ops =>
    let h : Hd := ⟨ctx, BitVec.ofNat 4 (byteCond head), n, []⟩
    let wp := prefixOf pre 28
    let cp := prefixOf pre 29
    let ap := prefixOf pre 30
    let r := match prefixOf pre 31 with
      | some pg =>
        if pg.toNat / 64 = 7 then
          some (Instr.customerInstruction h ⟨pg.toNat % 64, byteClass head, ops, wp, cp, ap, none⟩)
        else none
      | none => classInstr (byteClass head) h ops wp cp ap
    match r with
    | some i => if i.wf then some i else none
    | none => none
  | _ => none

/-- The command a table word spells: no row of the table gives bits, so none. -/
def decodeTableWord (_nbits _w : Nat) : Option Instr := none

end Sys2Proof
end

