-- ==== Sys2Proof/Config.lean ====
section
/-!
DEFINITION. The free values of the model (what the spec leaves open and an implementation settles), and the
quantities of each variant (R1).
-/

namespace Sys2Proof.Config

/-- The free values: value number `i`, drawn in order by the counter `State.free`. It has no body, so no proof
can see a value; used for the pseudo-random choices of R345 and R563 (log entry 5). -/
opaque freeNat : Nat → Nat

/-- The micro-address in the ROM at which vendor routine `i` starts: 0 BLKMOVE, 1 BLKFILL, 2 MATCH, 3 TAKE, 4 DONE, 5 DECIDE, 6 CJUMP,
7 ERET, 8 TRAP. The spec does not publish vendor routines (log entry 8), so it is free. -/
opaque vendorStart : Nat → Nat

/-- The micro-address in the ROM at which vendor routine `i` records its micro-trap points (log entry 8). -/
opaque vendorPoint : Nat → Nat

/-- Whether a further micro-address of the ROM is a micro-trap point of routine `i` (R396; log entry 8). -/
opaque vendorMtp : Nat → Nat → Bool

/-- Whether vendor routine `i` reads the microword at a micro-address as it runs (R388; log entry 8). -/
opaque vendorFetch : Nat → Nat → Bool

/-- Whether the word at an offset of the patch image of a version belongs to what replaces vendor routine `i` (R396, R405; log entry 8). -/
opaque vendorIn : Nat → Nat → Nat → Bool

/-- The check bits of a slot over its data, tags and spare bits, which the check code gives (R63, R64). The spec does not publish the code
(log entry 73). -/
opaque slotCheck : Nat → BitVec 64

/-- The variants of R1. -/
inductive Variant where
  | c36x128 | c36x96 | c36x64
deriving DecidableEq, Repr

/-- Clusters of a variant (R1). -/
def clusters : Variant → Nat
  | .c36x128 => 16 | .c36x96 => 12 | .c36x64 => 8

/-- LPDDR5X channels of a variant (R1). -/
def channels : Variant → Nat
  | .c36x128 => 16 | .c36x96 => 12 | .c36x64 => 8

/-- Host ports of a variant (R1). -/
def ports : Variant → Nat
  | .c36x128 => 4 | .c36x96 => 4 | .c36x64 => 2

/-- Assembly banks of a variant (R457). -/
def banks : Variant → Nat
  | .c36x128 => 16 | .c36x96 => 16 | .c36x64 => 8

/-- Grevex-D lanes of a variant (R1). -/
def lanes : Variant → Nat
  | .c36x128 => 4 | .c36x96 => 4 | .c36x64 => 0

/-- Whether the customer decode table is present (R1). -/
def decode : Variant → Bool
  | .c36x128 => true | .c36x96 => true | .c36x64 => false

/-- Tenants of a variant (R1, R237). -/
def tenants : Variant → Nat
  | .c36x128 => 4096 | .c36x96 => 4096 | .c36x64 => 2048

/-- GLB_ID.PART (R39). -/
def part : Variant → Nat
  | .c36x128 => 0o0200 | .c36x96 => 0o0140 | .c36x64 => 0o0100

/-- Assembly-table entries, as the exponent GLB_FEATURE.ATAB (R40). -/
def atab : Variant → Nat
  | .c36x128 => 19 | .c36x96 => 19 | .c36x64 => 18

end Sys2Proof.Config
end

