-- ==== Sys2Proof/Machine/Tbl.lean ====
section
/-!
DEFINITION. Sparse tables: a list of (key, value) pairs with strictly rising keys that lists no entry
equal to the default of the table. Equal tables are therefore equal data. Every array of the machine
(registers, memory, sources, profiles, ...) is held in this one form.
-/

namespace Sys2Proof.Machine

/-- A sparse table of values. -/
abbrev Tbl (α : Type) := List (Nat × α)

/-- The entry at key `k`; an unlisted key reads as the default `d`. -/
def tget {α : Type} (d : α) : Tbl α → Nat → α
  | [], _ => d
  | (j, w) :: t, k => if k = j then w else tget d t k

/-- Put entry `k`, at its place in the rising order. -/
def tput {α : Type} : Tbl α → Nat → α → Tbl α
  | [], k, v => [(k, v)]
  | (j, w) :: t, k, v => if k < j then (k, v) :: (j, w) :: t else if k = j then (k, v) :: t else (j, w) :: tput t k v

/-- Write entry `k`; writing the default removes the entry, so the canonical form is kept. -/
def tset {α : Type} [DecidableEq α] (d : α) (t : Tbl α) (k : Nat) (v : α) : Tbl α :=
  if v = d then t.filter (fun e => decide (e.1 ≠ k)) else tput t k v

/-- Apply `f` to the entry at `k`. -/
def tmod {α : Type} [DecidableEq α] (d : α) (t : Tbl α) (k : Nat) (f : α → α) : Tbl α :=
  tset d t k (f (tget d t k))

/-- Remove every entry whose key fails `p` (those keys read as the default again). -/
def tkeep {α : Type} (p : Nat → Bool) (t : Tbl α) : Tbl α := t.filter (fun e => p e.1)

/-- Apply `f` to every listed entry, dropping the entries that become the default. -/
def tmap {α : Type} [DecidableEq α] (d : α) (f : Nat → α → α) (t : Tbl α) : Tbl α :=
  (t.map (fun e => (e.1, f e.1 e.2))).filter (fun e => decide (e.2 ≠ d))

/-- Replace the whole key range [lo, hi) of `t` by the rising list `u` of entries in that range. -/
def tsplice {α : Type} (lo hi : Nat) (u : List (Nat × α)) (t : Tbl α) : Tbl α :=
  t.filter (fun e => decide (e.1 < lo)) ++ u ++ t.filter (fun e => decide (hi ≤ e.1))

/-- The keys of a table. -/
def tkeys {α : Type} (t : Tbl α) : List Nat := t.map (·.1)

/-- Keys strictly rising and no listed default, from `lo` upward. -/
def twfFrom {α : Type} [DecidableEq α] (d : α) : Nat → Tbl α → Bool
  | _, [] => true
  | lo, (j, w) :: t => decide (lo ≤ j) && decide (w ≠ d) && twfFrom d (j + 1) t

/-- The canonical form of a sparse table. -/
def twf {α : Type} [DecidableEq α] (d : α) (t : Tbl α) : Bool := twfFrom d 0 t

end Sys2Proof.Machine
end

