-- ==== Sys2Proof/Machine/State.lean ====
section
/-!
DEFINITION. The state of the C36 as plain data: every register, table, queue, mode and pin the spec gives the
device, unit by unit, the queue of waiting commands, and State.reset (power-on reset, R626).
-/

namespace Sys2Proof.Machine

open Sys2Proof

/-- Why the machine would stop. No command of this model raises it (safe: nothing is claimed about it). -/
inductive Fault where
  /-- Raised by no command. -/
  | stuck
deriving DecidableEq, Repr

/-- Why the model gives a command no meaning. -/
inductive Refusal where
  /-- Raised by an arm of exec whose command has no meaning yet (safe: the run ends there). -/
  | notModelled (mnemonic : String)
deriving DecidableEq, Repr

/-! ### Time -/

/-- A stamp resolved to its full turn (R73, R76), without phase. The turn is an integer, because
TURN_RESET reduces the stamps of items already due below zero (R102). -/
structure Stamp where
  turn : Int
  beat : Nat
deriving DecidableEq, Repr

/-- A scheduled item: its stamp, and the beat edge after which it was scheduled (R79). -/
structure Due where
  at_  : Stamp
  edge : Nat
deriving DecidableEq, Repr

/-- When a lease ends (R591): at a stamp, or after a count of reference cycles. -/
inductive LeaseEnd where
  | beats (d : Due)
  | refCycles (n : Nat)
deriving DecidableEq, Repr

/-- TBU_STATUS.STATE (R90). -/
inductive TbuMode where
  | none | acquiring | locked | holdover
deriving DecidableEq, Repr

/-- What the TBU tracks for one Grevex-T link (R89, R90). -/
structure Link where
  lock      : Bool := false
  good      : Bool := false
  crcRun    : Nat := 0
  badRun    : Nat := 0
  goodRun   : Nat := 0
  lastEdge  : Nat := 0
  m         : Nat := 0
  heard     : Bool := false
  diff      : Int := 0
  diffRun   : Nat := 0
deriving DecidableEq, Repr

/-- An accepted Grevex-T command waiting for its execute stamp (R99). -/
structure PendCmd where
  code : Nat
  arg  : Nat
  due  : Due
deriving DecidableEq, Repr

/-- An open quiet window; `until_` is its announced end (R104). -/
structure Quiet where
  until_ : Option Due
deriving DecidableEq, Repr

/-- The time base unit (R107 to R114, R89 to R104). `held` says that the time stays at the value that step 1 of R692 took up, and
`noAct` that no beat edge has come since, so that no item acts yet. -/
structure Tbu where
  mode     : TbuMode := .none
  turn     : Int := 0
  beat     : Nat := 0
  phase    : Nat := 0
  edges    : Nat := 0
  slew     : Nat := 0
  mismatch : Bool := false
  throttle : Bool := false
  active   : Nat := 0
  period   : Nat := 0
  bptM1    : Nat := 0
  quiet    : Option Quiet := Option.none
  event    : Nat := 0
  irqen    : Nat := 0
  lateCmd  : Nat := 0
  cmdDrop  : Nat := 0
  badFrame : Nat := 0
  crc      : Nat := 0
  calId    : Nat := 0
  calOff   : Nat := 0
  calPend  : Option Nat := Option.none
  seqs     : List Nat := []
  cmds     : List PendCmd := []
  acqStep  : Nat := 0
  acqRun   : Nat := 0
  held     : Bool := false
  noAct    : Bool := false
  hist     : List (Nat × Int) := []
  revertRun : Nat := 0
  link0    : Link := {}
  link1    : Link := {}
  latch    : Tbl (Option Word) := []
deriving DecidableEq, Repr

/-! ### Contexts -/

/-- A capability register: its tag and its four words (R231, R232). -/
structure Cap where
  tag    : Bool := false
  cursor : Word := 0
  base   : Word := 0
  len    : Word := 0
  attr   : Word := 0
deriving DecidableEq, Repr

/-- A block register (R329). -/
structure Block where
  line   : Nat := 0
  lines  : Nat := 0
  target : Word := 0
  owner  : Nat := 0
  en     : Bool := false
  typ    : Nat := 0
  paged  : Bool := false
  phi    : Nat := 0
deriving DecidableEq, Repr

/-- An interrupt delivery held at a core (R307). -/
structure Delivery where
  src : Nat
  pri : Nat
  vec : Word
deriving DecidableEq, Repr

/-- How an event ended (R467). -/
inductive EndKind where
  | complete | partial_ | evicted
deriving DecidableEq, Repr

/-- An ended event on its way through the close queue, and its descriptor in the DDU (R468, R488, R489).
`lane` is the lane of its decision record, when it has one (R505, R506); `id` tells members apart (R507). -/
structure Event where
  id       : Nat
  profile  : Nat
  owner    : Nat
  cls      : Nat
  pool     : Nat
  slot     : Nat
  stamp    : Stamp
  ddl      : Stamp
  flags    : Nat
  arrived  : Nat
  expected : Nat
  lane     : Option Nat
deriving DecidableEq, Repr

/-- A queued descriptor: the event, and the beat edge after which its shedding was scheduled (R79, R490). -/
structure Desc where
  ev   : Event
  edge : Nat
deriving DecidableEq, Repr

/-- A coach dispatched to a context (R499): its event, its range and whether a decision was counted (R507). -/
structure Coach where
  ev      : Event
  base    : Nat
  len     : Nat
  decided : Bool
deriving DecidableEq, Repr

/-- The FP36 operations (R158, R161). -/
inductive FpKind where
  | fadd | fsub | fmul | fdiv | fsqrt | fcmp
deriving DecidableEq, Repr

/-- The block and pattern operations (R174 to R176). -/
inductive BlkKind where
  | move | fill | match_
deriving DecidableEq, Repr

/-- What a long operation computes (R145). -/
inductive LongKind where
  | mulh (o : AluOp)
  | div (o : AluOp)
  | rem (o : AluOp)
  | fp (k : FpKind) (o : FpOp)
  | blk (k : BlkKind) (o : BlkOp)
deriving DecidableEq, Repr

/-- A long operation in flight: its address, what it computes (R145, R203), and whether it runs alone after an ERET (R281 step 7). -/
structure LongOp where
  addr  : Word
  kind  : LongKind
  alone : Bool := false
deriving DecidableEq, Repr

/-- The micro-resume state of a frame: MPC with its load generation, and T0 to T7 (R274, R394). -/
structure Micro where
  mpc : Nat := 0
  gen : Nat := 0
  t   : List Word := []
deriving DecidableEq, Repr

/-- A customer routine in progress (R390, R394): the instruction, its half and entry word, the micro-PC, the
temporaries, the last recorded micro-trap point, the micro-operations executed since its start or last resumption. -/
structure Routine where
  op    : CustOp
  len   : Nat
  half  : Nat
  entry : Nat
  upc   : Nat
  t     : List Word
  point : Option Micro
  count : Nat
  limit : Bool
deriving DecidableEq, Repr

/-- The part of ERET step 7 that waits for the next instruction command (R281): the instruction at `fault` runs
alone, or continues from the micro-resume state, and control goes to `resume`. -/
structure PendRet where
  fault  : Word
  resume : Word
  imp    : Bool
  mt     : Bool
  opreg  : Nat
  micro  : Micro
deriving DecidableEq, Repr

/-- A checkpoint of the predictor (R206, R208): the history, the return-stack top pointer and the top entry. -/
structure Checkpoint where
  history : BitVec 14
  top     : Nat
  entry   : Option Word
deriving DecidableEq, Repr

/-- Instruction bytes that a context may have fetched before its last write of a block register: their addresses, from `lo` below `hi`,
and the block registers as they were (R200, R332). -/
structure Early where
  lo : Nat
  hi : Nat
  bd : Tbl Block
deriving DecidableEq, Repr

/-- What a context is doing: a blocked TAKE or WAIT keeps the length of its instruction. -/
inductive Run where
  | off | run | take (a b : KReg) (len : Nat) | wait (len : Nat) | wedged
deriving DecidableEq, Repr

/-- A TLB or walk-cache entry: context within the core, block, index, physical page number (R343). -/
structure TlbE where
  ctx   : Nat
  block : Nat
  idx   : Nat
  ppn   : Nat
deriving DecidableEq, Repr

/-- One hardware context (R189). `invalT` and `invalW` are the invalidated translations that an access may still use
before the next FENCE.T (R350). `pendAsync` are the asynchronous machine checks that wait, each with its store address and the SEQ of its
record (R280, R274). -/
structure Ctx where
  run      : Run := .off
  g        : Tbl Word := []
  k        : Tbl Cap := []
  pcc      : Cap := {}
  esc      : Cap := {}
  evc      : Cap := {}
  n        : Bool := false
  z        : Bool := false
  c        : Bool := false
  v        : Bool := false
  dl       : Bool := false
  fpstat   : BitVec 5 := 0
  bd       : Tbl Block := []
  bkaddr   : Word := 0
  bken     : Bool := false
  bkskip   : Bool := false
  floor    : Nat := 0
  stack    : List (Nat × Nat) := []
  held     : Option Delivery := none
  alarm    : Option Due := none
  alarmPending : Bool := false
  deadline : Option Due := none
  coaches  : List Coach := []
  retired  : Word := 0
  pclass   : Nat := 0
  longOps  : List LongOp := []
  routine  : Option Routine := none
  pendRet  : Option PendRet := none
  pendAsync : List (Word × Nat) := []
  restartPend : Bool := false
  wEret    : Bool := false
  wCause   : Nat := 0
  wReason  : Nat := 0
  wCount   : Nat := 0
  wAddr    : Word := 0
  history  : BitVec 14 := 0
  retStack : Tbl (Option Word) := []
  retTop   : Nat := 0
  checks   : List Checkpoint := []
  early    : Option Early := none
  invalT   : List TlbE := []
  invalW   : List TlbE := []
deriving DecidableEq, Repr

/-! ### Cores -/

/-- A merging-buffer entry (R360): one line, its owning context, the bytes stored so far in store order
(offset in the line, byte), the address of its first store, whether it is eligible to drain (R361), whether its parity is bad (R364),
and, where it holds a frame write, the cause and the address that the exception reports (R269). -/
structure MEntry where
  line   : Nat
  ctx    : Nat
  bytes  : Tbl (Option Byte)
  capW   : List Nat
  first  : Word
  stream : Bool
  elig   : Bool
  bad    : Bool := false
  frame  : Option (Nat × Word) := none
deriving DecidableEq, Repr

/-- The state of a half of the patch or customer store (R387). -/
inductive HalfState where
  | active | retired | closed
deriving DecidableEq, Repr

/-- A patch or customer half: state, load generation, version, microwords, table words (R386, R394, R399, R405). -/
structure Half where
  st    : HalfState := .closed
  gen   : Nat := 0
  ver   : Nat := 0
  words : List Nat := []
  table : List Nat := []
deriving DecidableEq, Repr

/-- What one core holds beside its contexts (R190). `stop` are the errors for which the core is still to be offlined: the owner of a
merging-buffer entry found with bad parity (R364), or none for a microword (R388); `badMicro` the micro-addresses of microwords in error, with the double-bit ones (R388). -/
structure Core where
  merge    : List MEntry := []
  tlb      : List TlbE := []
  walk     : List TlbE := []
  predOff  : Bool := false
  predBusy : Bool := false
  p0       : Half := { st := .active }
  p1       : Half := {}
  h0       : Half := { st := .active }
  h1       : Half := {}
  loadPend : Bool := false
  corr     : Nat := 0
  relArmed : Bool := false
  relDue   : Option Due := none
  released : Bool := false
  stop     : List (Option Nat) := []
  badMicro : List (Nat × Bool) := []
deriving DecidableEq, Repr

/-- The tables that the predictor of a core shares among its contexts (R206). -/
structure Pred where
  pattern : Tbl (BitVec 2) := []
  target  : Tbl (Option (Word × Nat)) := []
deriving DecidableEq, Repr

/-- Power state of a cluster (R600). -/
inductive CluPower where
  | run | ember | off
deriving DecidableEq, Repr

/-! ### Memory and caches -/

/-- A word of memory with its tag (R57). -/
structure MWord where
  data : Word := 0
  tag  : Bool := false
deriving DecidableEq, Repr

/-- The states of a line in a cluster L2 (R365); the system cache uses E for clean and M for dirty. -/
inductive Mesi where
  | s | e | m
deriving DecidableEq, Repr

/-- A way of a cache: the line it holds, its state and its age (R371). -/
structure Way where
  line : Nat
  st   : Mesi
  age  : Nat
deriving DecidableEq, Repr

/-- Scratch bank control (R382): the register fields; whether the bank is the home of a range now, and of which; and the content of
that range in the DRAM beneath, with its poisoned lines, as it stood when the bank took it over (R383). -/
structure ScBank where
  en     : Bool := false
  busy   : Bool := false
  reject : Bool := false
  base   : Nat := 0
  live   : Bool := false
  range  : Nat := 0
  snap   : Tbl MWord := []
  snapBad : Tbl Bool := []
deriving DecidableEq, Repr

/-- An older copy of a line: its words and whether it is poisoned. -/
structure Home where
  words : List MWord
  bad   : Bool
deriving DecidableEq, Repr

/-- What an operation on memory leaves to be counted and recorded (R64, R363, R369, R370, R563, R566, R571 to R574): DRAM reads and
writes of a line, and the errors met. `unit` numbers the detecting unit (R655). -/
inductive MemNote where
  | read (l : Nat)
  | write (l : Nat)
  | l1 (core l : Nat)
  | l2Corrected (cl l : Nat)
  | l2Lost (cl l : Nat)
  | sysCorrected (unit l : Nat)
  | sysLost (unit l : Nat)
  | dramCorrected (l symbol : Nat)
  | dramLost (l : Nat)
  | poisonRead (l : Nat)
  | gone (l : Nat)
  | link (l : Nat)
deriving DecidableEq, Repr

/-- Memory as every agent sees it (`mem`, by physical word number), the home values of the lines that are dirty in a
cache (`stale`), the values that dirty ways of the system cache hold beneath newer data of an L2 (`mid`), the poisoned lines, and the
caches (R356). `pop` is the number of populated lines (R29), `gone` the residues modulo the `nchan` active channels whose channel is
offlined (R553, R566), `upsets` the errors that wait in copies of lines until they are met, `notes` what is still to be counted and
recorded. -/
structure Mem where
  mem    : Tbl MWord := []
  stale  : Tbl (Option Home) := []
  mid    : Tbl (Option Home) := []
  poison : Tbl Bool := []
  l1i    : Tbl (Tbl (Option Way)) := []
  l1d    : Tbl (Tbl (Option Way)) := []
  l2     : Tbl (Tbl (Option Way)) := []
  sys    : Tbl (Tbl (Option Way)) := []
  filter : Tbl (Tbl (Option Way)) := []
  scAgentService : Nat := 0
  scAgentHost    : Nat := 0
  scAgentEau     : Nat := 0
  scWays : Tbl Nat := []
  scBank : Tbl ScBank := []
  pop    : Nat := 0
  nchan  : Nat := 0
  gone   : List Nat := []
  upsets : List (Nat × Upset) := []
  notes  : List MemNote := []
deriving DecidableEq, Repr

/-! ### Interrupt controller -/

/-- A source entry (R296) with its asynchronous latch (R315). `line` is the state of the raise line as a reader of the entry sees it
(R322); its home is `Icu.lines`. -/
structure Src_ where
  pri     : Nat := 0
  tset    : Nat := 0
  vec     : Word := 0
  level   : Bool := false
  wake    : Bool := false
  count   : Nat := 0
  ovf     : Bool := false
  inserv  : Bool := false
  inctx   : Nat := 0
  line    : Bool := false
  latch   : Bool := false
deriving DecidableEq, Repr

/-- The ICU edit lease (R316): holder by the encoding of R323, source, the shadow as loaded at acquire and as
edited, whether CLRCNT and an OVF clear were written, whether an arrival was lost since the acquire. -/
structure IcuLease where
  owner  : Nat
  src    : Nat
  shadow : Src_
  clrcnt : Bool
  clrovf : Bool
  lost   : Bool
  until_ : LeaseEnd
deriving DecidableEq, Repr

/-- The interrupt controller (R318 to R326). `lines` are the raise lines of the condition sources (R312): they belong to the units and
the pins, so that they do not depend on the controller's readiness or power. -/
structure Icu where
  srcs     : Tbl Src_ := []
  srcTok   : Nat := 8191
  ctxTok   : Nat := 511
  gated    : Bool := false
  source   : Nat := 0
  lease    : Option IcuLease := none
  broken   : Nat := 0
  lost     : Nat := 0
  returned : Nat := 0
  tset     : Tbl Nat := []
  lines    : Tbl Bool := []
deriving DecidableEq, Repr

/-! ### Ring engine -/

/-- The configuration of a ring (R431). -/
structure RingCfg where
  lo     : Nat := 0
  hi     : Nat := 0
  vector : Nat := 0
  weight : Nat := 0
  cq     : Nat := 0
  size   : Nat := 4
  en     : Bool := false
deriving DecidableEq, Repr

/-- Where a carriage came from (R418). -/
inductive Origin where
  | ring (n : Nat)
  | queue (k : Nat)
deriving DecidableEq, Repr

/-- A carriage: identity, tenant, port of arrival, origin, header octets and payload octets (R409, R411). -/
structure Carriage where
  id      : Nat
  tenant  : Nat
  origin  : Origin
  cq      : Option Nat
  header  : List Octet
  payload : List Octet
deriving DecidableEq, Repr

/-- A carriage taken from a ring whose record is not yet written (R422): the carriage and, once its status is fixed,
what is to be written (`some none`: no record, R421). -/
structure RecSlot where
  id  : Nat
  cq  : Nat
  rec_ : Option (Option (List Octet × Bool))
deriving DecidableEq, Repr

/-- A carriage being read from a ring: the octets of the header once read, the payload slots still wanted. -/
structure Fetching where
  id      : Nat
  cq      : Nat
  header  : Option (List Octet)
  payload : List Octet
deriving DecidableEq, Repr

/-- The ring lease of a function (R429). -/
structure RingLease where
  ring   : Nat
  shadow : RingCfg
  until_ : LeaseEnd
deriving DecidableEq, Repr

/-- The rings of one function (R425 to R431, R580). -/
structure Rings where
  tail     : Tbl Nat := []
  sqHead   : Tbl Nat := []
  cqHead   : Tbl Nat := []
  written  : Tbl Nat := []
  reserved : Tbl Nat := []
  sq       : Tbl RingCfg := []
  cqc      : Tbl RingCfg := []
  stopped  : Tbl Bool := []
  lease    : Option RingLease := none
  broken   : Bool := false
  sel      : Nat := 0
  order    : Tbl (List RecSlot) := []
  fetch    : Tbl (Option Fetching) := []
  pass     : Tbl Nat := []
  elig     : Nat := 0
  df       : Int := 0
deriving DecidableEq, Repr

/-- A partly received aperture carriage (R434, R435): header, payload so far, whether its slots are being discarded. -/
structure Push where
  header  : List Octet
  payload : List Octet
  drop    : Bool
deriving DecidableEq, Repr

/-- An outstanding host read of a ring slot (R537, R538). `live` is false when its completion is to be discarded,
and `late` says that the discarded completion counts in LATECPL. -/
structure HostRead where
  tag    : Nat
  tenant : Nat
  ring   : Nat
  live   : Bool
  late   : Bool
deriving DecidableEq, Repr

/-- A critical carriage in a critical queue, with its place in arrival order (R582). -/
structure Crit where
  order : Nat
  c     : Carriage
deriving DecidableEq, Repr

/-- The key and the counter of a tenant (R437, R439). -/
structure KeyRec where
  key     : Option (List Octet) := none
  last    : Nat := 0
  ceiling : Nat := 0
deriving DecidableEq, Repr

/-- The ring engine (R441, R580 to R583). -/
structure Rng where
  badidx : Nat := 0
  stop   : Nat := 0
  auth   : Nat := 0
  replay : Nat := 0
  drop   : Nat := 0
  crit   : Nat := 0
  split  : Nat := 0
  cdrop  : Nat := 0
  fns    : Tbl Rings := []
  ready  : Tbl (List Carriage) := []
  critQ  : Tbl (List Crit) := []
  staging : Tbl (List Carriage) := []
  bankTok : Tbl Nat := []
  round  : Tbl Nat := []
  svcQ   : List Carriage := []
  eauQ   : List Carriage := []
  busyT  : List Nat := []
  pushes : Tbl (Option Push) := []
  intake : Bool := false
deriving DecidableEq, Repr

/-! ### Event assembly -/

/-- A profile record (R442). -/
structure ProfRec where
  en      : Bool := false
  feed    : Nat := 0
  cls     : Nat := 0
  pool    : Nat := 0
  srcbase : Nat := 0
  nsrc    : Nat := 0
  asmdl   : Nat := 0
  dispdl  : Nat := 0
  feeders : List Nat := []
  strag   : Bool := false
  mask    : List Nat := []
deriving DecidableEq, Repr

/-- A profile: its record, owner, suspension by its tenant's death (R477) and by the loss of its record (R661), and the release in
progress (R448). -/
structure Profile where
  owned   : Bool := false
  owner   : Nat := 0
  rec_    : ProfRec := {}
  susp    : Bool := false
  bad     : Bool := false
  release : Option (Carriage × LeaseEnd) := none
deriving DecidableEq, Repr

/-- A pool record (R449). -/
structure PoolRec where
  en        : Bool := false
  base      : Nat := 0
  slotLines : Nat := 0
  nslots    : Nat := 0
  vbase     : Nat := 0
deriving DecidableEq, Repr

/-- A slot pool: owner, record, and its free list (R452): first the slots from `fresh` upward that are not in `skip`, then
`freed`, the returned slots in order; the number of slots in use and of slots out of circulation, whether the record is lost (R661),
and the drain in progress with its new record (R453). -/
structure Pool where
  owned : Bool := false
  owner : Nat := 0
  rec_  : PoolRec := {}
  fresh : Nat := 0
  skip  : List Nat := []
  freed : List Nat := []
  used  : Nat := 0
  lost  : Nat := 0
  bad   : Bool := false
  drain : Option (Carriage × PoolRec × LeaseEnd) := none
deriving DecidableEq, Repr

/-- A quota record (R455). -/
structure Quota where
  maxEnt    : Nat := 0
  maxSlots  : Nat := 0
  maxProf   : Nat := 0
  maxPool   : Nat := 0
  grantBase : Nat := 0
  grantLines : Nat := 0
deriving DecidableEq, Repr

/-- States of an assembly-table entry; FREE is the absent entry (R459). -/
inductive AsmState where
  | assembling | closing | spent
deriving DecidableEq, Repr

/-- The end of an event as its entry records it (R459): how, the short stamp of the end, its place in the order of ends. -/
structure EndRec where
  kind  : EndKind
  stamp : Word
  order : Nat
deriving DecidableEq, Repr

/-- An assembly-table entry (R459). -/
structure Entry where
  st       : AsmState
  profile  : Nat
  key      : Word
  id       : Nat
  owner    : Nat
  cls      : Nat
  pool     : Nat
  slot     : Nat
  h4       : Bool
  stamp    : Stamp
  adl      : Due
  ddl      : Stamp
  expected : Nat
  arrived  : Nat
  bitmap   : Nat
  used     : Nat
  oversize : Bool
  first    : Word
  lane     : Option Nat
  ended    : Option EndRec
deriving DecidableEq, Repr

/-- A victim-list key (R463). -/
structure Victim where
  profile  : Nat
  key      : Word
  complete : Bool
  adl      : Due
deriving DecidableEq, Repr

/-- The bitmap lines 1 to 3 of one event that a bank caches (R465): the event, and each line as a number of 432 bits. -/
structure BmLines where
  id    : Nat
  lines : List (Option Nat)
deriving DecidableEq, Repr

/-- The event assembly unit (R442 to R487). `table` is keyed by bank, set and way as
(bank * 4096 + set) * 8 + way; `bitmaps` are the bitmap lines that each bank caches (R465). -/
structure Eau where
  profs    : Tbl Profile := []
  pools    : Tbl Pool := []
  quotas   : Tbl (Option Quota) := []
  table    : Tbl (Option Entry) := []
  victims  : Tbl (List Victim) := []
  evict    : Tbl (Option (Event × Nat)) := []
  closeQ   : List Event := []
  charge   : Tbl (Nat × Nat) := []
  event    : Nat := 0
  irqen    : Nat := 0
  usesel   : Tbl Nat := []
  cnt      : Tbl Nat := []
  bitmaps  : Tbl (List BmLines) := []
deriving DecidableEq, Repr

/-! ### Dispatch and decision -/

/-- The deadline dispatch unit (R488 to R517). -/
structure Ddu where
  descs   : List Desc := []
  waiting : List Nat := []
  credit  : Tbl Nat := []
  cnt     : Tbl Nat := []
deriving DecidableEq, Repr

/-- A decision record (R505). `devid` is the device ID that a record keeps whose release beat had come when DEVID_SET completed (R49). -/
structure DRec where
  lane    : Nat
  stamp   : Stamp
  release : Due
  expect  : Nat
  decided : Nat
  taken   : Nat
  word    : Word
  flags   : Nat
  devid   : Option Nat := none
deriving DecidableEq, Repr

/-- The decision output lanes (R505 to R520). `lastEnd` holds for each lane the beat edge of the last frame's release
and the unit interval, counted from that edge, at which the frame ended (R512). -/
structure Dol where
  recs    : List DRec := []
  cnt     : Tbl Nat := []
  lastEnd : Tbl (Option (Nat × Nat)) := []
deriving DecidableEq, Repr

/-! ### Host ports -/

/-- An MSI-X table entry with its pending bit (R534). -/
structure Msix where
  addrLo : Nat := 0
  addrHi : Nat := 0
  data   : Nat := 0
  mask   : Bool := true
  pend   : Bool := false
deriving DecidableEq, Repr

/-- The configuration-space state of a function (R521, R525 to R535, R540, R542): `bars` holds the addresses of BAR pairs 0 to 2 and of
VF BAR pairs 3 to 5, `aerUnc` and `aerCor` the error status bits of Advanced Error Reporting with their masks and severities. -/
structure Fn where
  memEn   : Bool := false
  bme     : Bool := false
  d3      : Bool := false
  msixEn  : Bool := false
  fmask   : Bool := false
  msix    : Tbl Msix := []
  numVfs  : Nat := 0
  vfEn    : Bool := false
  barSize : Nat := 0
  vfBarSize : Nat := 0
  ptmEn   : Bool := false
  aspm    : Bool := false
  tag10   : Bool := false
  bars    : Tbl Nat := []
  mps     : Nat := 0
  mrrs    : Nat := 2
  aerUnc  : Nat := 0
  aerMask : Nat := 0
  aerSev  : Nat := 0x462030
  aerCor  : Nat := 0
  aerCorMask : Nat := 0x2000
deriving DecidableEq, Repr

/-- The link power states a port passes through (R524, R609). -/
inductive LinkPower where
  | l0 | l1 | l2
deriving DecidableEq, Repr

/-- A host port (R521 to R549). -/
structure Port where
  linkUp   : Bool := false
  perst    : Bool := true
  phyOk    : Bool := false
  enabled  : Bool := false
  merged   : Bool := false
  recovery : Bool := false
  lpower   : LinkPower := .l0
  speed    : Nat := 0
  width    : Nat := 0
  frozen   : Bool := false
  hold     : List (Nat × Nat × List Octet × Bool) := []
  frzLease : Option LeaseEnd := none
  lapsed   : Bool := false
  cause    : Nat := 0
  recdrop  : Nat := 0
  latecpl  : Nat := 0
  ur       : Nat := 0
  freezes  : Nat := 0
  ptmPeriod : Nat := 0
  ptmErr   : Bool := false
  ptmValid : Bool := false
  ptmBusy  : Bool := false
  ptmTime  : Nat := 0
  ptmStamp : DWord := 0
  reads    : List HostRead := []
  quar     : List Nat := []
deriving DecidableEq, Repr

/-! ### DRAM controller -/

/-- DMC_STATUS.STATE (R576). -/
inductive ChanState where
  | off | training | running | paused | selfref | offline
deriving DecidableEq, Repr

/-- A DRAM channel (R550 to R577). `wq` is its write queue, oldest first, of which the entries of one bank are that bank's queue (R554);
`token` the bank token (R556); `drain`, `drained` and `aged` say that it is in drain mode, how many writes this drain has performed, and
that the oldest write has waited WMAX cycles (R555). -/
structure Chan where
  active   : Bool := false
  nch      : Nat := 0
  lecc     : Bool := false
  ranks    : Nat := 0
  density  : Nat := 0
  st       : ChanState := .off
  tset     : Bool := false
  rate     : Nat := 0
  lastTimer : Bool := false
  lastFail : Bool := false
  pauseDue : Bool := false
  uncorr   : Nat := 0
  poisonrd : Nat := 0
  link     : Nat := 0
  corr     : Nat := 0
  rhref    : Nat := 0
  rhdrop   : Nat := 0
  forced   : Nat := 0
  tsa      : List Word := [word 0o012401100110, word 0o021003600250, word 0o006001200024, word 0o364013702760, word 0o001200500120]
  tsb      : List Word := [word 0o012401100110, word 0o021003600250, word 0o006001200024, word 0o364013702760, word 0o001200500120]
  mult     : Nat := 1
  postponed : Tbl Nat := []
  neigh    : Tbl (List Nat) := []
  openRow  : Tbl (Option Nat) := []
  scrubPos : Nat := 0
  wback    : List Nat := []
  seed     : Nat := 0
  wq       : List Nat := []
  token    : Nat := 31
  drain    : Bool := false
  drained  : Nat := 0
  aged     : Bool := false
deriving DecidableEq, Repr

/-- The DRAM maintenance lease (R567, R569): holder, what the sets, TARGET and QUIET were at ACQUIRE. -/
structure MaintLease where
  owner  : Nat
  saved  : List (Nat × List Word × List Word)
  target : Nat
  quiet  : Bool
  until_ : LeaseEnd
  committed : Bool
deriving DecidableEq, Repr

/-- The DRAM controllers (R575, R576). -/
structure Dmc where
  chans  : Tbl Chan := []
  lease  : Option MaintLease := none
  broken : Bool := false
  busy   : Bool := false
  fail   : Bool := false
  quiet  : Bool := false
  target : Nat := 0
deriving DecidableEq, Repr

/-! ### Power, service, errors, global -/

/-- Power state of the device (R600). -/
inductive DevPower where
  | reset | run | peat | ash | halted
deriving DecidableEq, Repr

/-- A POWER being carried out (R602, R603, R609): the carriage, whether it waits for a quiet window, and whether the
record is written and the host's handshake awaited. -/
structure PowerJob where
  c        : Carriage
  state    : Nat
  mask     : Nat
  waiting  : Bool
  l2       : List Nat
deriving DecidableEq, Repr

/-- The power management unit (R619, R624) and the pins it drives. -/
structure Pmu where
  dev      : DevPower := .reset
  clus     : Tbl (Option CluPower) := []
  retainA  : Nat := 0
  retainS  : Nat := 0
  wakeStampEn : Bool := false
  wakePerst : Bool := true
  wakeGpio : Nat := 0
  wakePol  : Nat := 0
  wakeLevel : Nat := 0
  wakeStamp : Word := 0
  wakeDue  : Option Due := none
  causeFrom : Nat := 0
  causeGpio : Nat := 0
  causeBrown : Bool := false
  causeStamp : Bool := false
  causePerst : Bool := false
  cloff    : Nat := 0
  regLp    : Bool := false
  job      : Option PowerJob := none
  wakeHeld : Option WakeSrc := none
  resDev   : List Nat := [0, 0, 0]
  resCl    : Tbl Nat := []
  latch    : Tbl (Option (Nat × Word)) := []
  wakeN    : Bool := false
  brown    : Bool := false
  hold     : Tbl (Option CluPower) := []
  tripHold : Bool := false
  alert    : Bool := false
deriving DecidableEq, Repr

/-- A load of a patch or customer image in progress (R404). `before` are the halves of each core as they were, for a load that does not
complete with OK (R402). -/
structure LoadJob where
  c       : Carriage
  patch   : Bool
  ver     : Nat
  words   : List Nat
  table   : List Nat
  left    : List Nat
  before  : List (Nat × Half × Half) := []
deriving DecidableEq, Repr

/-- The secure flash: minimum version, owner configuration, active images (R640). -/
structure Flash where
  minver  : Nat := 0
  owner   : Option (List Octet) := none
  patch   : Option (Nat × List Nat × List Nat) := none
  custom  : Option (Nat × List Nat × List Nat) := none
deriving DecidableEq, Repr

/-- The fuses (R636): key hashes (none: unprogrammed), revocation fuses, the key-encryption key of R641. -/
structure Fuses where
  vendor  : List (Option (List Octet)) := [none, none, none, none]
  owner   : List (Option (List Octet)) := [none, none, none, none]
  revoked : Nat := 0
  kek     : List Octet := []
deriving DecidableEq, Repr

/-- The boot and service unit (R252, R265, R594, R626 to R654, R664). `brk` is a requested lease break that waits for the critical
carriage in progress (R595). -/
structure Bsu where
  roottab  : Nat := 0
  dead     : Tbl Bool := []
  brkKind  : Nat := 0
  brkIndex : Nat := 0
  brk      : Option (Nat × Nat) := none
  keys     : Tbl KeyRec := []
  flash    : Flash := {}
  fuses    : Fuses := {}
  job      : Option LoadJob := none
  imgver   : Nat := 0
  fuseReg  : Nat := 0
  minverReg : Nat := 0
  bootCode : Nat := 0x81
  haltN    : Bool := true
  bootMode : Nat := 0
  recovery : Bool := false
  slot     : Bool := false
  tie      : Bool := false
  verda    : Nat := 0
  verdb    : Nat := 0
  vkey     : Nat := 0
  okey     : Nat := 0
  ownerSig : Bool := false
  warm     : Bool := false
  fwHash   : List Octet := []
  fwOk     : Bool := false
  devid    : Nat := 0
  bootSlots : Option (List Octet × List Octet) := none
deriving DecidableEq, Repr

/-- The waiting record of an error class (R659); `slot` is the value of RAS_PROD at which it was written. -/
structure ErrRec where
  cls    : Nat
  sev    : Nat
  unit   : Nat
  ctx    : Option Nat
  tenant : Option Nat
  addr   : Option Nat
  detail : Nat
  seq    : Nat
  count  : Nat
  stamp  : Word
  slot   : Option Nat
deriving DecidableEq, Repr

/-- The error unit (R655 to R665). `own` is the SEQ of the record that a machine check reports (R274, R656). -/
structure Ras where
  en      : Bool := false
  prod    : Nat := 0
  cons    : Nat := 0
  lost    : Nat := 0
  next    : Nat := 1
  fatalSeq : Nat := 0
  fatals  : Nat := 0
  last    : List Word := []
  coreOff : Tbl Bool := []
  cluOff  : Tbl Bool := []
  wait    : Tbl (Option ErrRec) := []
  lostRec : Bool := false
  own     : Nat := 0
  tbl     : Tbl TblErr := []
deriving DecidableEq, Repr

/-- Readiness, the lock, the fabric and the crossings (R42, R45, R623). -/
structure Glb where
  rHost  : Nat := 0
  rDram  : Nat := 0
  rClu   : Nat := 0
  rLanes : Nat := 0
  rDdu   : Bool := false
  rIcu   : Bool := false
  rTbu   : Bool := false
  rEau   : Bool := false
  locked : Bool := false
  cdcWedged  : Tbl Bool := []
  cdcOverrun : Tbl Bool := []
  cdcMode    : Tbl Bool := []
  cdcResets  : Tbl Nat := []
  cdcTimeouts : Tbl Nat := []
deriving DecidableEq, Repr

/-! ### The LK fields: one home for every field of access type LK (R21), which the LK save store keeps (R609, R612, R663) -/

/-- DDU_CTL and DDU_SERVE of a class (R516). -/
structure DduCtl where
  grace : Nat := 16777215
  lane  : Nat := 4
  share : Nat := 0
  serve : Option Nat := none
deriving DecidableEq, Repr

/-- The LK fields of a DRAM channel (R576). -/
structure DmcLk where
  wmax   : Nat := 400
  wmHi   : Nat := 48
  wmLo   : Nat := 16
  rhEn   : Bool := true
  rhK    : Nat := 10
  period : Nat := 256
  slack  : Nat := 16
  quiet  : Bool := true
  scrubEn : Bool := true
  scrubPeriod : Nat := 24
deriving DecidableEq, Repr

/-- The release registers of a core (R647). -/
structure Release where
  vec  : Word := 0
  cond : Nat := 3
  arg  : Word := 0
deriving DecidableEq, Repr

/-- Every LK field of the device. -/
structure Lk where
  acceptReset : Bool := true
  revert   : Bool := true
  primary  : Nat := 0
  enLink1  : Bool := true
  enLink0  : Bool := true
  delay    : Nat := 0
  gateEn   : Bool := true
  icuLease : Nat := 64
  rngLease : Nat := 1024
  mbEn     : Bool := false
  mbLine   : Nat := 0
  eauLease : Nat := 65536
  saveEn   : Bool := false
  saveLine : Nat := 0
  ddu      : Tbl DduCtl := []
  laneEn   : Nat := 0
  lat      : Nat := 4096
  dflt     : Tbl Word := []
  frzLease : Tbl Nat := []
  dmc      : Tbl DmcLk := []
  maintLen : Nat := 1024
  qwait    : Nat := 100
  fabLimit : Nat := 1048576
  rasSize  : Nat := 4
  talert   : Nat := 100
  rasLine  : Nat := 0
  release  : Tbl Release := []
deriving DecidableEq, Repr

/-- The part as manufactured: variant and speed grade (R1, R39). -/
structure Hw where
  variant : Config.Variant := .c36x128
  grade   : Nat := 0
deriving DecidableEq, Repr

/-- What the device sends to the outside world: completion records with the host address of their slot (R418, R425), MSI-X messages (R536), host reads (R537),
Grevex-D frames (R510, R511: the lane, the unit interval from the release edge at which the frame begins, its blocks), the input of the service core for sources 0 to 31 (R314), the answers of register reads and Unsupported Request completions (R35). -/
inductive Out where
  | record (tenant cq addr : Nat) (octets : List Octet)
  | msix (tenant vector addr data : Nat)
  | read (port tag tenant addr octets : Nat)
  | frame (lane start : Nat) (b : Blocks)
  | signal (source : Nat)
  | answer (r : Requester) (v : Word)
  | unsupported (r : Requester)
deriving DecidableEq, Repr

/-- The state of the C36, with the queue of waiting commands, first in first out. `free` counts the free values drawn
(log entry 5) and `outbox` lists what was sent outside, oldest first (log entry 6): both are the model's own fields. -/
structure State where
  pending : List Instr
  hw     : Hw
  lk     : Lk
  glb    : Glb
  tbu    : Tbu
  ctxs   : Tbl Ctx
  cores  : Tbl Core
  preds  : Tbl Pred
  mem    : Mem
  icu    : Icu
  rng    : Rng
  eau    : Eau
  ddu    : Ddu
  dol    : Dol
  fns    : Tbl Fn
  ports  : Tbl Port
  dmc    : Dmc
  pmu    : Pmu
  bsu    : Bsu
  ras    : Ras
  free   : Nat
  serial : Nat
  outbox : List Out
deriving DecidableEq, Repr

/-- The device in power-on reset, PWR_OK low (R626): every field at its reset value; the part is a C36-128 of
speed grade 0 (log entry 1), and nothing waits. -/
def State.reset : State where
  pending := []
  hw := {}
  lk := {}
  glb := {}
  tbu := {}
  ctxs := []
  cores := []
  preds := []
  mem := {}
  icu := {}
  rng := {}
  eau := {}
  ddu := {}
  dol := {}
  fns := []
  ports := []
  dmc := {}
  pmu := {}
  bsu := {}
  ras := {}
  free := 0
  serial := 0
  outbox := []

end Sys2Proof.Machine
end

