-- ==== Sys2Proof/Machine/Flags.lean ====
section
/-!
DEFINITION. Conditions and the arithmetic and logic results with their flags (R116, R142, R144, R150, R153).
-/

namespace Sys2Proof.Machine

open Sys2Proof

/-- The flags N, Z, C and V. -/
structure Nzcv where
  n : Bool
  z : Bool
  c : Bool
  v : Bool
deriving DecidableEq, Repr

/-- A context with the flags N, Z, C and V written. -/
def Ctx.withNzcv (x : Ctx) (f : Nzcv) : Ctx := { x with n := f.n, z := f.z, c := f.c, v := f.v }

/-- Whether condition `k` is true on the flags of a context (R116). -/
def condHolds (k : Cond) (x : Ctx) : Bool :=
  match k.toNat with
  | 0 => true
  | 1 => x.z
  | 2 => !x.z
  | 3 => x.n
  | 4 => !x.n
  | 5 => x.c
  | 6 => !x.c
  | 7 => x.v
  | 8 => !x.v
  | 9 => !x.c || x.z
  | 10 => x.c && !x.z
  | 11 => x.n != x.v
  | 12 => x.n == x.v
  | 13 => x.z || (x.n != x.v)
  | 14 => !x.z && (x.n == x.v)
  | _ => x.dl

/-- The operations of R150. -/
inductive AluK where
  | add | sub | and | or | xor | shl | shr | sar | rol | ror | mul | mulh | div | rem
deriving DecidableEq, Repr

/-- Whether an 18-bit immediate is zero-extended (R121); SUB, CMP and the rest sign-extend it. -/
def AluK.zeroExt : AluK → Bool
  | .and => true
  | .or => true
  | .xor => true
  | _ => false

/-- The result of an operation at width `w` (R150); `u` selects the unsigned variant. -/
def aluRes (k : AluK) (u : Bool) {w : Nat} (b c : BitVec w) : BitVec w :=
  let s := c.toNat % 64
  match k with
  | .add => b + c
  | .sub => b - c
  | .and => b &&& c
  | .or => b ||| c
  | .xor => b ^^^ c
  | .shl => b <<< s
  | .shr => b >>> s
  | .sar => b.sshiftRight s
  | .rol => b.rotateLeft (s % w)
  | .ror => b.rotateRight (s % w)
  | .mul => b * c
  | .mulh => if u then BitVec.ofNat w (b.toNat * c.toNat / 2 ^ w) else BitVec.ofInt w (b.toInt * c.toInt / 2 ^ w)
  | .div => if u then b / c else BitVec.ofInt w (b.toInt.tdiv c.toInt)
  | .rem => if u then b % c else BitVec.ofInt w (b.toInt.tmod c.toInt)

/-- The carry flag of an operation (R150). -/
def aluCarry (k : AluK) {w : Nat} (b c : BitVec w) : Bool :=
  let s := c.toNat % 64
  match k with
  | .add => decide (2 ^ w ≤ b.toNat + c.toNat)
  | .sub => decide (c.toNat ≤ b.toNat)
  | .shl => if s = 0 ∨ w < s then false else b.getLsbD (w - s)
  | .shr => if s = 0 ∨ w < s then false else b.getLsbD (s - 1)
  | .sar => if s = 0 then false else if w ≤ s then b.msb else b.getLsbD (s - 1)
  | .rol => if s % w = 0 then false else (b.rotateLeft (s % w)).getLsbD 0
  | .ror => if s % w = 0 then false else (b.rotateRight (s % w)).msb
  | _ => false

/-- The overflow flag of an operation (R150). -/
def aluOver (k : AluK) (u : Bool) {w : Nat} (b c : BitVec w) : Bool :=
  match k with
  | .add => decide ((b + c).toInt ≠ b.toInt + c.toInt)
  | .sub => decide ((b - c).toInt ≠ b.toInt - c.toInt)
  | .mul => decide ((b * c).toInt ≠ b.toInt * c.toInt)
  | .div => !u && decide ((BitVec.ofInt w (b.toInt.tdiv c.toInt)).toInt ≠ b.toInt.tdiv c.toInt)
  | _ => false

/-- All flags of an operation: N and Z describe the result at width `w` (R144). -/
def aluFlags (k : AluK) (u : Bool) {w : Nat} (b c : BitVec w) : Nzcv where
  n := (aluRes k u b c).msb
  z := decide (aluRes k u b c = 0)
  c := aluCarry k b c
  v := aluOver k u b c

/-- Number of one bits (R153 POPC). -/
def popCount {w : Nat} (b : BitVec w) : Nat := ((List.range w).filter (fun i => b.getLsbD i)).length

/-- Number of leading zero bits; `w` for zero (R153 CLZ). -/
def leadZeros {w : Nat} (b : BitVec w) : Nat :=
  if b.toNat = 0 then w else w - 1 - b.toNat.log2

/-- FEXT: bits [p+w-1:p] of a word, zero-extended (R153). -/
def fieldGet (b : Word) (p w : Nat) : Word := word (b.toNat / 2 ^ p % 2 ^ w)

/-- FEXT.S: the same bits, sign-extended from bit p+w-1 (R153). -/
def fieldGetS (b : Word) (p w : Nat) : Word :=
  BitVec.ofInt 36 ((BitVec.ofNat w (b.toNat / 2 ^ p)).toInt)

/-- FINS: bits [p+w-1:p] of `a` replaced by bits [w-1:0] of `b` (R153). -/
def fieldPut (a b : Word) (p w : Nat) : Word :=
  let m : Word := word ((2 ^ w - 1) * 2 ^ p)
  (a &&& ~~~m) ||| ((b <<< p) &&& m)

end Sys2Proof.Machine
end

