-- ==== Sys2Proof/Machine/Fp36.lean ====
section
/-!
DEFINITION. FP36 arithmetic (R157 to R161): the exact value, rounded once.
-/

namespace Sys2Proof.Machine

open Sys2Proof

/-- An unpacked FP36 value (R157): a finite value is (-1)^sign * mant * 2^exp. -/
inductive Fp where
  | nan
  | inf (sign : Bool)
  | fin (sign : Bool) (mant : Nat) (exp : Int)
deriving DecidableEq, Repr

/-- The value a word encodes (R157). -/
def fpUnpack (w : Word) : Fp :=
  let s := w.getLsbD 35
  let e : Nat := w.toNat / 2 ^ 26 % 512
  let f : Nat := w.toNat % 2 ^ 26
  if e = 511 then (if f = 0 then .inf s else .nan)
  else if e = 0 then .fin s f (-280)
  else .fin s (2 ^ 26 + f) ((e : Int) - 281)

/-- A word from sign, biased exponent and fraction (R157). -/
def fpPack (s : Bool) (e f : Nat) : Word := word (b2n s * 2 ^ 35 + e * 2 ^ 26 + f)

/-- The canonical NaN (R159). -/
def fpNan : Word := word 0o377600000000

/-- A signed infinity. -/
def fpInf (s : Bool) : Word := fpPack s 511 0

/-- A signed zero. -/
def fpZero (s : Bool) : Word := fpPack s 0 0

/-- The outcome of an operation: the result (none: invalid, not written) and the FPSTAT bits
INV, DZ, OF, UF, NX in bits 4 to 0 (R156, R160). -/
structure FpOut where
  res  : Option Word
  stat : BitVec 5
deriving DecidableEq, Repr

/-- Whether a quotient with remainder `r` of `d` is rounded away from zero. -/
def fpUp (m : Rnd) (s : Bool) (q r d : Nat) : Bool :=
  match m with
  | .nearestEven => decide (d < 2 * r) || (decide (d = 2 * r) && q % 2 == 1)
  | .towardZero => false
  | .towardMinus => s && decide (r ≠ 0)
  | .towardPlus => !s && decide (r ≠ 0)

/-- The result of an overflow: infinity or the largest finite value, by direction (R160). -/
def fpOver (m : Rnd) (s : Bool) : Word :=
  match m with
  | .nearestEven => fpInf s
  | .towardZero => fpPack s 510 (2 ^ 26 - 1)
  | .towardMinus => if s then fpInf s else fpPack s 510 (2 ^ 26 - 1)
  | .towardPlus => if s then fpPack s 510 (2 ^ 26 - 1) else fpInf s

/-- The exponent of the leading bit of the positive value num/den * 2^e. -/
def fpLead (num den : Nat) (e : Int) : Int :=
  let l : Int := (num.log2 : Int) - den.log2
  let ge : Bool := if 0 ≤ l then decide (den * 2 ^ l.toNat ≤ num) else decide (den ≤ num * 2 ^ (-l).toNat)
  e + (if ge then l else l - 1)

/-- The exact value (-1)^s * num/den * 2^e rounded once to FP36 in direction `m` (R158, R160). A non-zero exact value
below 2^-254 that is not exact sets UF and NX. -/
def fpRound (m : Rnd) (s : Bool) (num den : Nat) (e : Int) : FpOut :=
  if num = 0 then ⟨some (fpZero s), 0⟩ else
  let lead := fpLead num den e
  let u : Int := max (lead - 26) (-280)
  let n := if u ≤ e then num * 2 ^ (e - u).toNat else num
  let d := if u ≤ e then den else den * 2 ^ (u - e).toNat
  let q := n / d
  let r := n % d
  let q' := if fpUp m s q r d then q + 1 else q
  let qq := if q' = 2 ^ 27 then 2 ^ 26 else q'
  let uu := if q' = 2 ^ 27 then u + 1 else u
  let be := (uu + 281).toNat
  if qq < 2 ^ 26 then ⟨some (fpPack s 0 qq), if r = 0 then 0 else 0b00011⟩
  else if 511 ≤ be then ⟨some (fpOver m s), 0b00101⟩
  else ⟨some (fpPack s be (qq - 2 ^ 26)), if r = 0 then 0 else if lead < -254 then 0b00011 else 0b00001⟩

/-- The invalid outcome (R160). -/
def fpInvalid : FpOut := ⟨none, 0b10000⟩

/-- An exact result that needs no rounding. -/
def fpExact (w : Word) : FpOut := ⟨some w, 0⟩

/-- FADD of unpacked values (R158). An exact zero sum is +0, and -0 when rounding toward minus infinity (R160). -/
def fpAdd (m : Rnd) : Fp → Fp → FpOut
  | .nan, _ => fpExact fpNan
  | _, .nan => fpExact fpNan
  | .inf s, .inf t => if s = t then fpExact (fpInf s) else fpInvalid
  | .inf s, _ => fpExact (fpInf s)
  | _, .inf t => fpExact (fpInf t)
  | .fin s a ea, .fin t b eb =>
    let e := min ea eb
    let x : Int := (if s then -1 else 1) * (a * 2 ^ (ea - e).toNat : Nat)
    let y : Int := (if t then -1 else 1) * (b * 2 ^ (eb - e).toNat : Nat)
    let z := x + y
    if z = 0 then fpExact (fpZero (decide (m = .towardMinus)))
    else fpRound m (decide (z < 0)) z.natAbs 1 e

/-- A value with its sign reversed. -/
def fpNeg : Fp → Fp
  | .nan => .nan
  | .inf s => .inf (!s)
  | .fin s a e => .fin (!s) a e

/-- FMUL of unpacked values (R158, R160). -/
def fpMul (m : Rnd) : Fp → Fp → FpOut
  | .nan, _ => fpExact fpNan
  | _, .nan => fpExact fpNan
  | .inf s, .inf t => fpExact (fpInf (s != t))
  | .inf s, .fin t b _ => if b = 0 then fpInvalid else fpExact (fpInf (s != t))
  | .fin s a _, .inf t => if a = 0 then fpInvalid else fpExact (fpInf (s != t))
  | .fin s a ea, .fin t b eb => fpRound m (s != t) (a * b) 1 (ea + eb)

/-- FDIV of unpacked values (R158, R160). -/
def fpDiv (m : Rnd) : Fp → Fp → FpOut
  | .nan, _ => fpExact fpNan
  | _, .nan => fpExact fpNan
  | .inf _, .inf _ => fpInvalid
  | .inf s, .fin t _ _ => fpExact (fpInf (s != t))
  | .fin s _ _, .inf t => fpExact (fpZero (s != t))
  | .fin s a ea, .fin t b eb =>
    if b = 0 then (if a = 0 then fpInvalid else ⟨some (fpInf (s != t)), 0b01000⟩)
    else fpRound m (s != t) a b (ea - eb)

/-- The bits of an integer square root, found from the bit `2^k` downward. -/
def isqrtFrom : Nat → Nat → Nat → Nat
  | 0, _, r => r
  | k + 1, n, r => let r' := r + 2 ^ k; isqrtFrom k n (if r' * r' ≤ n then r' else r)

/-- The integer square root of a number below 2^96. -/
def isqrt (n : Nat) : Nat := isqrtFrom 48 n 0

/-- FSQRT of an unpacked value (R158, R160): the root is found to at least 31 bits with a sticky bit beneath. -/
def fpSqrt (m : Rnd) : Fp → FpOut
  | .nan => fpExact fpNan
  | .inf s => if s then fpInvalid else fpExact (fpInf false)
  | .fin s a e =>
    if a = 0 then fpExact (fpZero s)
    else if s then fpInvalid
    else
      let a' := if e % 2 = 0 then a else 2 * a
      let e' := if e % 2 = 0 then e else e - 1
      let n := a' * 2 ^ 64
      let r := isqrt n
      fpRound m false (2 * r + b2n (decide (r * r ≠ n))) 1 (e' / 2 - 33)

/-- FCMP of unpacked values (R161): the flags. -/
def fpCmp : Fp → Fp → Nzcv
  | .nan, _ => ⟨false, false, true, false⟩
  | _, .nan => ⟨false, false, true, false⟩
  | a, b =>
    let key : Fp → Int × Int := fun x => match x with
      | .nan => (0, 0)
      | .inf s => (if s then -1 else 1, 0)
      | .fin s k e => (0, (if s then -1 else 1) * (k * 2 ^ (e + 280).toNat : Nat))
    let p := key a
    let q := key b
    if p.1 < q.1 ∨ (p.1 = q.1 ∧ p.2 < q.2) then ⟨true, false, false, false⟩
    else if p = q then ⟨false, true, false, false⟩
    else ⟨false, false, false, false⟩

/-- The result of an FP36 operation other than FCMP on words B and C (R158). -/
def fpRes (k : FpKind) (m : Rnd) (b c : Word) : FpOut :=
  match k with
  | .fadd => fpAdd m (fpUnpack b) (fpUnpack c)
  | .fsub => fpAdd m (fpUnpack b) (fpNeg (fpUnpack c))
  | .fmul => fpMul m (fpUnpack b) (fpUnpack c)
  | .fdiv => fpDiv m (fpUnpack b) (fpUnpack c)
  | .fsqrt => fpSqrt m (fpUnpack b)
  | .fcmp => fpExact 0

end Sys2Proof.Machine
end

