-- ==== Sys2Proof/Machine/Ops.lean ====
section
/-!
DEFINITION. The named operations over the registers of contexts and cores, and the small shared operations of the
units: present and ready units, free values, answers to requesters.
-/

namespace Sys2Proof.Machine

open Sys2Proof

/-- The outcome type of every meaning. -/
abbrev Res := Host.Outcome State Fault Refusal

/-! ### Contexts and cores -/

/-- Context `n` (R188). -/
def State.ctx (s : State) (n : Nat) : Ctx := tget {} s.ctxs n

/-- Write context `n`. -/
def State.setCtx (s : State) (n : Nat) (c : Ctx) : State := { s with ctxs := tset {} s.ctxs n c }

/-- Change context `n`. -/
def State.modCtx (s : State) (n : Nat) (f : Ctx → Ctx) : State := s.setCtx n (f (s.ctx n))

/-- Core `k`, numbered 8 * cluster + core (R657 class 4). -/
def State.core (s : State) (k : Nat) : Core := tget {} s.cores k

/-- Write core `k`. -/
def State.setCore (s : State) (k : Nat) (c : Core) : State := { s with cores := tset {} s.cores k c }

/-- Change core `k`. -/
def State.modCore (s : State) (k : Nat) (f : Core → Core) : State := s.setCore k (f (s.core k))

/-- The core of context `n` (R188). -/
def coreOf (n : Nat) : Nat := n / 4

/-- The cluster of context `n` (R188). -/
def cluOf (n : Nat) : Nat := n / 32

/-- Register G`r` of a context. -/
def Ctx.gget (c : Ctx) (r : GReg) : Word := tget 0 c.g r.toNat

/-- Write register G`r`. -/
def Ctx.gset (c : Ctx) (r : GReg) (v : Word) : Ctx := { c with g := tset 0 c.g r.toNat v }

/-- Register K`r` of a context. -/
def Ctx.kget (c : Ctx) (r : KReg) : Cap := tget {} c.k r.toNat

/-- Write register K`r`. -/
def Ctx.kset (c : Ctx) (r : KReg) (v : Cap) : Ctx := { c with k := tset {} c.k r.toNat v }

/-- The link register of R171. -/
def linkReg : GReg := 31

/-- Permission bit `n` of a capability (R233, R235). -/
def Cap.perm (c : Cap) (n : Nat) : Bool := c.attr.getLsbD (12 + n)

/-- TENANT of a capability (R233). -/
def Cap.tenant (c : Cap) : Nat := c.attr.toNat / 2 ^ 24

/-- OTYPE of a capability (R233). -/
def Cap.otype (c : Cap) : Nat := c.attr.toNat % 2 ^ 12

/-- A capability with object type `t`. -/
def Cap.withOtype (c : Cap) (t : Nat) : Cap := { c with attr := word (c.attr.toNat / 2 ^ 12 * 2 ^ 12 + t % 2 ^ 12) }

/-- The root capability of R250 with cursor `v`. -/
def rootCap (v : Word) : Cap :=
  { tag := true, cursor := v, base := 0, len := word 0o777777777760, attr := word 0o000077770000 }

/-- An access of `n` bytes at `ea` lies within a capability (R234). -/
def Cap.covers (c : Cap) (ea n : Nat) : Bool :=
  decide (c.base.toNat ≤ ea) && decide (ea + n ≤ min (c.base.toNat + c.len.toNat) (2 ^ 36))

/-- One more instruction retired (R192). -/
def Ctx.count (c : Ctx) : Ctx := { c with retired := c.retired + 1 }

/-- The address where the context goes on after an instruction that retires to `next`: RESUME_ADDR after the instruction
that ERET with IMP executes alone (R281 step 7). -/
def Ctx.after (c : Ctx) (next : Word) : Word :=
  match c.pendRet with
  | some p => if p.imp then p.resume else next
  | none => next

/-- Retire to `next` (R192). -/
def State.retireTo (s : State) (n : Nat) (next : Word) : State :=
  s.modCtx n (fun c => { c.count with pcc := { c.pcc with cursor := c.after next }, pendRet := none, bkskip := false })

/-! ### Presence and readiness -/

/-- Bit `k` of the ready clusters (R42). -/
def State.cluReady (s : State) (k : Nat) : Bool := s.glb.rClu.testBit k

/-- Whether tenant `t` is dead (R259). -/
def State.dead (s : State) (t : Nat) : Bool := tget false s.bsu.dead t

/-- An exception waits at the boundary of context `n`: an asynchronous machine check (R280), or PCC of a dead tenant (R261). -/
def State.boundaryDue (s : State) (n : Nat) : Bool := !(s.ctx n).pendAsync.isEmpty || s.dead (s.ctx n).pcc.tenant

/-- The power state of cluster `k`; none when the cluster is absent or in reset (R600). -/
def State.cluPower (s : State) (k : Nat) : Option CluPower := tget none s.pmu.clus k

/-- Whether cluster `k` is present on the part and not offlined (R1, R662). -/
def State.cluPresent (s : State) (k : Nat) : Bool :=
  decide (k < Config.clusters s.hw.variant) && !(tget false s.ras.cluOff k)

/-- Whether tenant `t` exists (R237). -/
def State.tenantExists (s : State) (t : Nat) : Bool := decide (t < Config.tenants s.hw.variant)

/-- Lines of populated DRAM (R29, R65); none before DRAM is trained. -/
def State.popLines (s : State) : Nat := s.mem.pop

/-- Whether a context may issue: running, its core released, neither core nor cluster offlined, its cluster in RUN and
ready (R288, R600, R647, R662). -/
def State.mayIssue (s : State) (n : Nat) : Bool :=
  decide (n < 512) && (s.core (coreOf n)).released && !(tget false s.ras.coreOff (coreOf n))
    && !(tget false s.ras.cluOff (cluOf n)) && decide (s.cluPower (cluOf n) = some .run) && s.cluReady (cluOf n)

/-! ### Small shared operations -/

/-- Draw the next free value (log entry 5), reduced below `m`. -/
def State.draw (s : State) (m : Nat) : Nat × State := (Config.freeNat s.free % m, { s with free := s.free + 1 })

/-- A fresh number for a carriage or an event. -/
def State.fresh (s : State) : Nat × State := (s.serial, { s with serial := s.serial + 1 })

/-- Power entry to PEAT or ASH has begun (R609): the record is written, or about to be, and the lanes are idle. -/
def State.entering (s : State) : Bool :=
  match s.pmu.job with
  | some j => decide (2 ≤ j.state) && !j.waiting
  | none => false

/-- Send something outside. -/
def State.emit (s : State) (o : Out) : State := { s with outbox := s.outbox ++ [o] }

/-- The OWNER code of a requester: 0-511 context, 512-515 host port, 516 service core (R323). -/
def reqCode : Requester → Nat
  | .context n => n
  | .host p => 512 + p
  | .service => 516

/-- Store flag bits `m` into a natural number used as a bit set. -/
def setBits (x m : Nat) : Nat := x ||| m

/-- Clear the bits `m` of `x`. -/
def clearBits (x m : Nat) : Nat := x - (x &&& m)

/-- Write bit `i` of `x`. -/
def putBit (x i : Nat) (b : Bool) : Nat := if b then x ||| 2 ^ i else clearBits x (2 ^ i)

/-- Fold an operation over a list of numbers. -/
def State.each (s : State) (l : List Nat) (f : State → Nat → State) : State := l.foldl f s

end Sys2Proof.Machine
end

