-- ==== Sys2Proof/Machine/Micro.lean ====
section
/-!
DEFINITION. Microwords and decode words (R389, R399), and the checks of a customer image (R403).
-/

namespace Sys2Proof.Machine

open Sys2Proof

/-- Fields of a microword (R389). -/
def muUop (w : Nat) : Nat := bits w 119 115
def muFn (w : Nat) : Nat := bits w 114 111
def muDst (w : Nat) : Nat := bits w 110 105
def muSrc1 (w : Nat) : Nat := bits w 104 99
def muSrc2 (w : Nat) : Nat := bits w 98 93
def muCond (w : Nat) : Nat := bits w 92 89
def muMtp (w : Nat) : Bool := bit w 88
def muEnd (w : Nat) : Bool := bit w 87
def muNext (w : Nat) : Nat := bits w 86 72
def muLit (w : Nat) : Nat := bits w 71 36
def muFlagw (w : Nat) : Nat := bits w 31 27

/-- Fields of a decode word (R399). -/
def deValid (w : Nat) : Bool := bit w 35
def deForm (w : Nat) : Nat := bits w 34 31
def deStart (w : Nat) : Nat := bits w 27 19
def deLen (w : Nat) : Nat := bits w 18 9

/-- SPACING of a decode word (R399). -/
def deSpacing (w : Nat) : Nat := bits w 8 2

/-- Whether form `f` has operand field `i` (0 A, 1 B, 2 C) as a register (R119, R392). -/
def formHas (f i : Nat) : Bool :=
  match i with
  | 0 => decide (1 ≤ f) && decide (f ≤ 9)
  | 1 => decide (f = 2) || decide (f = 3) || decide (f = 5) || decide (f = 7) || decide (f = 9)
  | _ => decide (f = 3)

/-! ### The checks of R403 -/

/-- Rules 1 to 3 of R403 on one microword. -/
def muWordOk (w : Nat) : Bool :=
  let fnOk := match muUop w with
    | 0 => decide (muFn w ≤ 13)
    | 1 | 2 => decide (muFn w ≤ 2)
    | 3 => decide (muFn w ≤ 3)
    | 4 => decide (muCond w ≤ 1)
    | 5 => true
    | _ => false
  fnOk && decide (muDst w ≤ 15) && decide (muSrc1 w ≤ 15) && decide (muSrc2 w ≤ 15) && !([11, 12, 13, 15].contains (muDst w))
    && decide (bits w 35 32 = 0) && decide (bits w 26 0 = 0) && !(bit (muFlagw w) 4)

/-- Rule 2 of R403 on the operand selectors of a microword of a routine of form `f`. -/
def muFormOk (f w : Nat) : Bool :=
  [muDst w, muSrc1 w, muSrc2 w].all (fun s => !(decide (8 ≤ s ∧ s ≤ 10)) || formHas f (s - 8))

/-- The offsets that may follow the microword at offset `o` (R390, R391). -/
def muSucc (w o : Nat) : List Nat :=
  if muEnd w then []
  else if muUop w = 3 then (if muFn w = 0 then [muNext w] else [muNext w, o + 1])
  else [o + 1]

/-- The words of a routine: its successor function over the words of an image. -/
def succOf (ws : List Nat) (o : Nat) : List Nat := muSucc (ws.getD o 0) o

/-- Offsets reached from `l` in at most `n` rounds; the successors of an offset that satisfies `stop` are not followed. -/
def reach (ws : List Nat) (stop : Nat → Bool) : Nat → List Nat → List Nat
  | 0, l => l
  | n + 1, l =>
    let more := (l.filter (fun o => !(stop o))).flatMap (succOf ws)
    let l' := more.foldl (fun (a : List Nat) o => if a.contains o then a else a ++ [o]) l
    if l'.length = l.length then l else reach ws stop n l'

/-- The offsets of `all` from which an END is reached, in `n` rounds. -/
def coreach (ws all : List Nat) : Nat → List Nat → List Nat
  | 0, l => l
  | n + 1, l =>
    let l' := all.filter (fun o => l.contains o || (succOf ws o).any (fun x => l.contains x))
    if l'.length = l.length then l else coreach ws all n l'

/-- For each offset of `all`, the micro-operations executed from it up to the next micro-trap point or END, counted up to `n`
(R399 SPACING). -/
def spaceTab (ws all : List Nat) : Nat → List (Nat × Nat)
  | 0 => all.map (fun o => (o, 0))
  | n + 1 =>
    let t := spaceTab ws all n
    all.map (fun o => (o, 1 + (succOf ws o).foldl (fun (m : Nat) x =>
      if muMtp (ws.getD x 0) then m else max m (((t.find? (fun e => decide (e.1 = x))).map (·.2)).getD 0)) 0))

/-- Rule 6 of R403 on the microword at offset `o`. -/
def muDstOk (ws : List Nat) (o : Nat) : Bool :=
  let w := ws.getD o 0
  !(decide (8 ≤ muDst w ∧ muDst w ≤ 10)) || muEnd w || (succOf ws o).all (fun x => muMtp (ws.getD x 0))

/-- Rules 2, 4, 5 and 7 of R403 on one decode entry. -/
def deEntryOk (ws : List Nat) (e : Nat) : Bool :=
  let lo := deStart e
  let hi := lo + deLen e
  let range := (List.range (deLen e)).map (fun i => lo + i)
  let all := reach ws (fun _ => false) 512 [lo]
  let points := lo :: all.filter (fun o => muMtp (ws.getD o 0))
  let early := (reach ws (fun o => muMtp (ws.getD o 0)) 512 [lo]).filter (fun o => !(muMtp (ws.getD o 0)))
  let sp := spaceTab ws all 65
  decide (1 ≤ deLen e) && decide (hi ≤ 512) && decide (deForm e ≤ 11) && decide (1 ≤ deSpacing e ∧ deSpacing e ≤ 64)
    && range.all (fun o => muFormOk (deForm e) (ws.getD o 0))
    && all.all (fun o => decide (lo ≤ o ∧ o < hi) && decide (o < ws.length))
    && decide ((coreach ws all 512 (all.filter (fun o => muEnd (ws.getD o 0)))).length = all.length)
    && points.all (fun o => sp.all (fun x => !(decide (x.1 = o)) || decide (x.2 ≤ deSpacing e)))
    && early.all (fun o => [0, 3, 4].contains (muUop (ws.getD o 0)))

/-- The checks of R403 on a customer image. -/
def custImageOk (ws table : List Nat) : Bool :=
  ws.all muWordOk && (List.range ws.length).all (muDstOk ws) && table.all (fun e => !(deValid e) || deEntryOk ws e)

end Sys2Proof.Machine
end

