-- ==== Sys2Proof/Machine/Caches.lean ====
section
/-!
DEFINITION. Memory and the caches (R356 to R385): the coherent memory image, which lines are dirty and what their homes
hold, the ways of every cache with their ages, the merging buffers, the scratch banks and the maintenance operations.
-/

namespace Sys2Proof.Machine

open Sys2Proof

/-- The ways of one set of a cache. -/
abbrev CacheSet := Tbl (Option Way)

/-- The physical line of a physical byte address (R54). -/
def lineOf (pa : Nat) : Nat := pa / 48

/-- The system-cache slice of a line (R357). -/
def sliceOf (l : Nat) : Nat := (l % 16) ^^^ (l / 65536 % 16) ^^^ (l / 2 ^ 32 % 16)

/-- The table key of the L1 set of a line in a core (R357). -/
def l1Key (core l : Nat) : Nat := core * 128 + l % 128

/-- The table key of the L2 set of a line in a cluster (R357). -/
def l2Key (cl l : Nat) : Nat := cl * 4096 + l % 4096

/-- The table key of the system-cache set of a line (R357). -/
def sysKey (l : Nat) : Nat := sliceOf l * 4096 + l / 16 % 4096

/-- The table key of the snoop-filter set of a line (R366). -/
def filKey (l : Nat) : Nat := sliceOf l * 8192 + l / 16 % 8192

/-- The way that holds line `l` in a set. -/
def findWay : CacheSet → Nat → Option (Nat × Way)
  | [], _ => none
  | (i, some w) :: t, l => if w.line = l then some (i, w) else findWay t l
  | (_, none) :: t, l => findWay t l

/-- Whether a set holds line `l`. -/
def holds (t : CacheSet) (l : Nat) : Bool := (findWay t l).isSome

/-- The set without line `l`. -/
def dropWay (t : CacheSet) (l : Nat) : CacheSet :=
  match findWay t l with
  | some (i, _) => tset none t i none
  | none => t

/-- A hit through a block: age 0, or unchanged through a STREAM block (R371). -/
def touchWay (t : CacheSet) (l : Nat) (stream : Bool) : CacheSet :=
  match findWay t l with
  | some (i, w) => if stream then t else tset none t i (some { w with age := 0 })
  | none => t

/-- The largest age among the allowed ways. -/
def maxAge (t : CacheSet) (allowed : List Nat) : Nat :=
  allowed.foldl (fun (m : Nat) i => match tget none t i with | some w => max m w.age | none => m) 0

/-- The way for a new line, the way's former content and the set after ageing (R371); none when no way is allowed. -/
def chooseWay (t : CacheSet) (allowed : List Nat) : Option (Nat × Option Way × CacheSet) :=
  match allowed.find? (fun i => (tget none t i).isNone) with
  | some i => some (i, none, t)
  | none =>
    let up := 3 - maxAge t allowed
    let t' := allowed.foldl (fun u i => match tget none u i with
      | some w => tset none u i (some { w with age := w.age + up })
      | none => u) t
    match allowed.find? (fun i => match tget none t' i with | some w => decide (w.age = 3) | none => false) with
    | some i => some (i, tget none t' i, t')
    | none => none

/-! ### The memory image -/

/-- Word number `w` of physical memory with its tag; memory that nothing has written reads as zero, untagged (R688). -/
def Mem.word (m : Mem) (w : Nat) : MWord := tget {} m.mem w

/-- The twelve words of line `l`. -/
def Mem.line (m : Mem) (l : Nat) : List MWord := (List.range 12).map (fun i => m.word (12 * l + i))

/-- Write word number `w`. -/
def Mem.put (m : Mem) (w : Nat) (v : MWord) : Mem := { m with mem := tset {} m.mem w v }

/-- Write the words of line `l` from `ws`. -/
def Mem.putLine (m : Mem) (l : Nat) (ws : List MWord) : Mem :=
  (ws.zipIdx).foldl (fun (m : Mem) e => m.put (12 * l + e.2) e.1) m

/-- Line `l` as the coherent image has it. -/
def Mem.now (m : Mem) (l : Nat) : Home := ⟨m.line l, tget false m.poison l⟩

/-- A line delivered poisoned: its tags are clear (R64, R369). -/
def Home.poison (h : Home) : Home := ⟨h.words.map (fun w => { w with tag := false }), true⟩

/-- Line `l` of the image becomes `h`. -/
def Mem.setNow (m : Mem) (l : Nat) (h : Home) : Mem := { m.putLine l h.words with poison := tset false m.poison l h.bad }

/-- Line `l` is poisoned in the image. -/
def Mem.poisonLine (m : Mem) (l : Nat) : Mem := m.setNow l (m.now l).poison

/-- Whether line `l` is poisoned. -/
def Mem.poisoned (m : Mem) (l : Nat) : Bool := tget false m.poison l

/-- A copy of line `l` differs from its home, which keeps what it holds now. -/
def Mem.markDirty (m : Mem) (l : Nat) : Mem :=
  match tget none m.stale l with
  | some _ => m
  | none => { m with stale := tset none m.stale l (some (m.now l)) }

/-- Leave something to be counted or recorded. -/
def Mem.note (m : Mem) (n : MemNote) : Mem := { m with notes := m.notes ++ [n] }

/-! ### Upsets -/

/-- Whether upset `u` waits in a copy of line `l`. -/
def Mem.hasUp (m : Mem) (l : Nat) (u : Upset) : Bool := m.upsets.contains (l, u)

/-- The upsets of line `l` that satisfy `p` are gone: their copy is rewritten, corrected or dropped. -/
def Mem.dropUps (m : Mem) (l : Nat) (p : Upset → Bool) : Mem := { m with upsets := m.upsets.filter (fun e => !(decide (e.1 = l) && p e.2)) }

/-- An upset of the system-cache copy. -/
def Upset.isSys : Upset → Bool
  | .sys _ _ => true
  | _ => false

/-- An upset of the DRAM slot. -/
def Upset.isDram : Upset → Bool
  | .dram _ _ => true
  | _ => false

/-- An upset of the copy in the L2 of cluster `cl`. -/
def Upset.isL2 (cl : Nat) : Upset → Bool
  | .l2 c _ => decide (c = cl)
  | _ => false

/-- An upset of a copy in an L1 of core `k`: the L1I when `instr` says so, the L1D when `data` does. -/
def Upset.isL1 (k : Nat) (instr data : Bool) : Upset → Bool
  | .l1 c i => decide (c = k) && (if i then instr else data)
  | _ => false

/-- The upset of the system-cache copy of line `l`: whether it is uncorrectable (R64). -/
def Mem.sysUp (m : Mem) (l : Nat) : Option Bool :=
  m.upsets.findSome? (fun e => if e.1 = l then (match e.2 with | .sys b _ => some b | _ => none) else none)

/-- The upset of the DRAM slot of line `l`: whether it is uncorrectable, and the symbol in error (R64). -/
def Mem.dramUp (m : Mem) (l : Nat) : Option (Bool × Nat) :=
  m.upsets.findSome? (fun e => if e.1 = l then (match e.2 with | .dram b y => some (b, y) | _ => none) else none)

/-- An agent that asks for lines: the class of its fills and writes (R379), and its number as a detecting unit (R655). -/
structure Asker where
  cls  : Nat
  unit : Nat
deriving DecidableEq, Repr

/-- The system-cache copy of line `l` is checked as it is read (R370): whether it is uncorrectable. A correction is written back. -/
def Mem.sysCheck (m : Mem) (a : Asker) (l : Nat) : Bool × Mem :=
  match m.sysUp l with
  | none => (false, m)
  | some true => (true, (m.dropUps l Upset.isSys).note (.sysLost a.unit l))
  | some false => (false, (m.dropUps l Upset.isSys).note (.sysCorrected a.unit l))

/-! ### Homes (R367) -/

/-- Whether line `l` lies in the range of a scratch bank that is its home (R383). -/
def Mem.inScratch (m : Mem) (l : Nat) : Bool := m.scBank.any (fun e => e.2.live && decide (e.2.range = l / 32768))

/-- Whether line `l` lies on an offlined channel (R553, R566). -/
def Mem.isGone (m : Mem) (l : Nat) : Bool := m.gone.contains (l % m.nchan) && !(m.inScratch l)

/-- The clusters whose L2 holds line `l`, as the snoop filter records them (R366). -/
def Mem.l2Holders (m : Mem) (l : Nat) : List Nat := (List.range 16).filter (fun cl => holds (tget [] m.l2 (l2Key cl l)) l)

/-- Whether an L2 or the system cache holds line `l`. -/
def Mem.held (m : Mem) (l : Nat) : Bool := !(m.l2Holders l).isEmpty || holds (tget [] m.sys (sysKey l)) l

/-- What the home of line `l` holds; a line that no cache holds is as its home has it. -/
def Mem.home (m : Mem) (l : Nat) : Home := if m.held l then (tget none m.stale l).getD (m.now l) else m.now l

/-- The home of line `l` becomes `h`, while the copies in the caches stay as they are. -/
def Mem.setHome (m : Mem) (l : Nat) (h : Home) : Mem :=
  if m.held l then { m with stale := tset none m.stale l (some h) } else { m.setNow l h with stale := tset none m.stale l none }

/-- The home of line `l` is read: whether the line is delivered poisoned (R64, R370, R566, R571, R572, R574). -/
def Mem.readHome (m : Mem) (a : Asker) (l : Nat) : Bool × Mem :=
  let poison := fun (m : Mem) => m.setHome l (m.home l).poison
  if m.inScratch l then
    let r := m.sysCheck a l
    if r.1 then (true, poison r.2) else ((m.home l).bad, r.2)
  else if m.isGone l then (true, (poison m).note (.gone l))
  else
    let m0 := if m.hasUp l .link then (m.dropUps l (fun u => decide (u = .link))).note (.link l) else m
    let m1 := m0.note (.read l)
    match m1.dramUp l with
    | some (true, _) => (true, (poison m1).note (.dramLost l))
    | some (false, y) => if (m1.home l).bad then (true, m1.note (.poisonRead l)) else (false, m1.note (.dramCorrected l y))
    | none => if (m1.home l).bad then (true, m1.note (.poisonRead l)) else (false, m1)

/-- The home of line `l` is written with `h` (R373); an offlined channel discards the write (R566). -/
def Mem.writeHome (m : Mem) (l : Nat) (h : Home) : Mem :=
  if m.inScratch l then (m.dropUps l Upset.isSys).setHome l h
  else if m.isGone l then m.note (.gone l)
  else ((m.dropUps l Upset.isDram).setHome l h).note (.write l)

/-- The dirty copy of line `l` is written home, and every copy that remains equals the home (R373). -/
def Mem.writeBack (m : Mem) (l : Nat) : Mem :=
  let m1 := m.writeHome l (m.now l)
  { m1 with stale := tset none m1.stale l none, mid := tset none m1.mid l none }

/-- The line reads as its home (R373 INV.A). -/
def Mem.discard (m : Mem) (l : Nat) : Mem :=
  match tget none m.stale l with
  | some h => { m.setNow l h with stale := tset none m.stale l none, mid := tset none m.mid l none }
  | none => m

/-- The last copy of line `l` was dropped, and nothing dirty with it: a copy that was poisoned alone, with the data of its home, gives
way to the home with its tags. -/
def Mem.tidy (m : Mem) (l : Nat) : Mem :=
  match (if m.held l || !(m.poisoned l) then none else tget none m.stale l) with
  | none => m
  | some h => { m.setNow l ⟨(m.line l).zipIdx.map (fun e => { e.1 with tag := (h.words.getD e.2 {}).tag }), h.bad⟩ with
      stale := tset none m.stale l none, mid := tset none m.mid l none }

/-- The dirty system-cache way of line `l` is written home: its own value, which newer data of an L2 may overlie. -/
def Mem.wayHome (m : Mem) (a : Asker) (l : Nat) : Mem :=
  let r := m.sysCheck a l
  match (if (m.l2Holders l).isEmpty then none else tget none m.mid l) with
  | some h =>
    let m1 := r.2.writeHome l (if r.1 then h.poison else h)
    { m1 with mid := tset none m1.mid l none }
  | none =>
    if r.1 then (if (m.l2Holders l).isEmpty then (r.2.poisonLine l).writeBack l else r.2.writeHome l (m.now l).poison)
    else r.2.writeBack l

/-! ### System cache -/

/-- Whether system-cache bank `b` is lent as scratch (R382). -/
def Mem.lent (m : Mem) (b : Nat) : Bool := (tget {} m.scBank b).live || (tget {} m.scBank b).busy

/-- The ways allowed to class `i` in a slice (R380). -/
def Mem.allowed (m : Mem) (i slice : Nat) : List Nat :=
  (List.range 16).filter (fun j => (tget 0o177777 m.scWays i).testBit j && !(m.lent (2 * slice + j / 8)))

/-- The system-cache way of line `w` has left its set: a dirty one goes home, and a clean one is dropped. -/
def Mem.sysEvict (m : Mem) (a : Asker) (w : Way) : Mem :=
  if w.st = Mesi.m then (m.wayHome a w.line).tidy w.line else (m.dropUps w.line Upset.isSys).tidy w.line

/-- Write way `j` of the system-cache set `k`. -/
def Mem.setSysWay (m : Mem) (k j : Nat) (w : Option Way) : Mem := { m with sys := tset [] m.sys k (tset none (tget [] m.sys k) j w) }

/-- Place line `l` in the system cache for class `a.cls` with the insertion age of R358, dirty or clean. A way's old content
that is dirty goes home. When the class may not allocate, dirty data goes home (R380). -/
def Mem.sysFill (m : Mem) (a : Asker) (l : Nat) (dirty stream : Bool) : Mem :=
  let k := sysKey l
  let t := tget [] m.sys k
  match findWay t l with
  | some (j, w) =>
    let m1 := m.setSysWay k j (some { w with st := if dirty then .m else w.st, age := if stream then w.age else 0 })
    if dirty then { m1.dropUps l Upset.isSys with mid := tset none m1.mid l none } else m1
  | none =>
    match (if m.inScratch l then none else chooseWay t (m.allowed a.cls (sliceOf l))) with
    | none => if dirty then m.writeBack l else m
    | some (j, old, t') =>
      let m1 := { m with sys := tset [] m.sys k (tset none t' j none) }
      let m2 := match old with
        | some w => m1.sysEvict a w
        | none => m1
      m2.setSysWay k j (some ⟨l, if dirty then .m else .e, if stream then 3 else 0⟩)

/-- Line `l` comes from the system cache, else from its home with a fill of class `a.cls` (R367 sources 2 and 3). -/
def Mem.fromSlice (m : Mem) (a : Asker) (l : Nat) (stream : Bool) : Mem :=
  if holds (tget [] m.sys (sysKey l)) l then
    let r := m.sysCheck a l
    (if r.1 then (r.2.markDirty l).poisonLine l else r.2).sysFill a l false stream
  else
    let r := m.readHome a l
    (if r.1 then r.2.poisonLine l else r.2).sysFill a l false stream

/-! ### Scratch banks (R382, R383) -/

/-- The word range of the range of a bank: 32,768 lines from 32,768 * base. -/
def scratchLo (base : Nat) : Nat := 12 * 32768 * base

/-- The entries of a table with keys in [lo, hi). -/
def tableIn {α : Type} (t : Tbl α) (lo hi : Nat) : Tbl α := t.filter (fun e => decide (lo ≤ e.1) && decide (e.1 < hi))

/-- The lines of the range of a bank. -/
def rangeLines (base : Nat) : List Nat := (List.range 32768).map (fun i => 32768 * base + i)

/-- The words that the homes of the lines of a range hold. -/
def Mem.homeWords (m : Mem) (base : Nat) : Tbl MWord :=
  (tableIn m.stale (32768 * base) (32768 * (base + 1))).foldl (fun (t : Tbl MWord) e => match e.2 with
    | some h => (List.range 12).foldl (fun (t : Tbl MWord) i => tset {} t (12 * e.1 + i) (h.words.getD i {})) t
    | none => t) (tableIn m.mem (scratchLo base) (scratchLo (base + 1)))

/-- The poisoned homes of the lines of a range. -/
def Mem.homeBads (m : Mem) (base : Nat) : Tbl Bool :=
  (tableIn m.stale (32768 * base) (32768 * (base + 1))).foldl (fun (t : Tbl Bool) e => match e.2 with
    | some h => tset false t e.1 h.bad
    | none => t) (tableIn m.poison (32768 * base) (32768 * (base + 1)))

/-- Step 1 of R383: each line in the bank's 8 ways is written home if dirty and removed. -/
def Mem.bankEmpty (m : Mem) (a : Asker) (b : Nat) : Mem :=
  let ways : List (Nat × Nat × Way) := (m.sys.filter (fun e => decide (e.1 / 4096 = b / 2))).flatMap (fun e =>
    e.2.filterMap (fun w => if w.1 / 8 = b % 2 then w.2.map (fun x => (e.1, w.1, x)) else none))
  ways.foldl (fun (m : Mem) e => (m.setSysWay e.1 e.2.1 none).sysEvict a e.2.2) m

/-- The range of bank `b` is written back to DRAM, and the bank is no longer its home (R383). -/
def Mem.bankRelease (m : Mem) (a : Asker) (b : Nat) : Mem :=
  let k := tget {} m.scBank b
  let m1 := (rangeLines k.range).foldl (fun (m : Mem) l => (m.readHome a l).2) m
  let m2 := { m1 with scBank := tset {} m1.scBank b { k with live := false, range := 0, snap := [], snapBad := [] } }
  (rangeLines k.range).foldl (fun (m : Mem) l => m.writeHome l (m.home l)) m2

/-- Bank `b` takes over its range from DRAM: emptied, then filled with a copy (R383 steps 1 and 2). -/
def Mem.bankTake (m : Mem) (a : Asker) (b : Nat) : Mem :=
  let k := tget {} m.scBank b
  let m1 := (rangeLines k.base).foldl (fun (m : Mem) l => (m.readHome a l).2) (m.bankEmpty a b)
  { m1 with scBank := tset {} m1.scBank b { k with live := true, range := k.base, snap := m1.homeWords k.base, snapBad := m1.homeBads k.base } }

/-- The change of bank `b` is complete (R383): the range that it had is back in DRAM, and it is the home of the one it is to have. -/
def Mem.bankDone (m : Mem) (a : Asker) (b : Nat) : Mem :=
  if !(tget {} m.scBank b).busy then m
  else
    let m1 := if (tget {} m.scBank b).live then m.bankRelease a b else m
    let m2 := if (tget {} m1.scBank b).en then m1.bankTake a b else m1
    { m2 with scBank := tmod {} m2.scBank b (fun k => { k with busy := false }) }

/-- A write to SCBANK b (R382): refused or taken; a change of EN, or of the range of an enabled bank, sets BUSY (R383). -/
def Mem.bankWrite (m : Mem) (pop b : Nat) (en : Bool) (base : Nat) : Mem :=
  let k := tget {} m.scBank b
  let refuse := en && (decide (pop < 32768 * base + 32768) || m.scBank.any (fun e => decide (e.1 ≠ b) && e.2.en && decide (e.2.base = base)))
  let change := decide (k.live ≠ en) || (en && decide (k.range ≠ base))
  if k.busy then m
  else if refuse then { m with scBank := tset {} m.scBank b { k with reject := true } }
  else { m with scBank := tset {} m.scBank b { k with reject := false, en := en, base := base, busy := change } }

/-- A retained bank is lost in a brown-out (R385): EN is 0 and its range reads what the DRAM beneath holds. -/
def Mem.bankLost (m : Mem) (b : Nat) : Mem :=
  let k := tget {} m.scBank b
  if !k.live then m
  else { m with mem := tsplice (scratchLo k.range) (scratchLo (k.range + 1)) k.snap m.mem
                poison := tsplice (32768 * k.range) (32768 * (k.range + 1)) k.snapBad m.poison
                scBank := tset {} m.scBank b { base := k.base } }

/-- A change of a scratch bank that concerns line `l` completes before the line is accessed (R383). -/
def Mem.settle (m : Mem) (a : Asker) (l : Nat) : Mem :=
  m.scBank.foldl (fun (m : Mem) e =>
    if e.2.busy && ((e.2.live && decide (e.2.range = l / 32768)) || (e.2.en && decide (e.2.base = l / 32768))) then m.bankDone a e.1
    else m) m

/-! ### L1, L2 and the snoop filter -/

/-- The eight cores of a cluster. -/
def coresOf (cl : Nat) : List Nat := (List.range 8).map (fun i => cl * 8 + i)

/-- Remove line `l` from the L1 caches of core `k`. -/
def Mem.l1Drop (m : Mem) (k l : Nat) (instr data : Bool) : Mem :=
  { m.dropUps l (Upset.isL1 k instr data) with
    l1i := if instr then tset [] m.l1i (l1Key k l) (dropWay (tget [] m.l1i (l1Key k l)) l) else m.l1i
    l1d := if data then tset [] m.l1d (l1Key k l) (dropWay (tget [] m.l1d (l1Key k l)) l) else m.l1d }

/-- The state in which the L2 of cluster `cl` holds line `l`. -/
def Mem.l2State (m : Mem) (cl l : Nat) : Option Mesi := (findWay (tget [] m.l2 (l2Key cl l)) l).map (fun e => e.2.st)

/-- Write the state of line `l` in the L2 of cluster `cl`. -/
def Mem.l2SetState (m : Mem) (cl l : Nat) (st : Mesi) : Mem :=
  let k := l2Key cl l
  let t := tget [] m.l2 k
  match findWay t l with
  | some (j, w) => { m with l2 := tset [] m.l2 k (tset none t j (some { w with st := st })) }
  | none => m

/-- A hit in the L2 of cluster `cl` (R371). -/
def Mem.l2Touch (m : Mem) (cl l : Nat) (stream : Bool) : Mem :=
  { m with l2 := tset [] m.l2 (l2Key cl l) (touchWay (tget [] m.l2 (l2Key cl l)) l stream) }

/-- Forget the filter entry of a line that no L2 holds (R366). -/
def Mem.filterTidy (m : Mem) (l : Nat) : Mem :=
  if (m.l2Holders l).isEmpty then { m with filter := tset [] m.filter (filKey l) (dropWay (tget [] m.filter (filKey l)) l) }
  else m

/-- The L2 of cluster `cl` no longer holds line `l`, and every L1 copy in the cluster goes with it (R365). -/
def Mem.l2Drop (m : Mem) (cl l : Nat) : Mem :=
  let m1 := (coresOf cl).foldl (fun (m : Mem) k => m.l1Drop k l true true) m
  let m2 := { m1.dropUps l (Upset.isL2 cl) with l2 := tset [] m1.l2 (l2Key cl l) (dropWay (tget [] m1.l2 (l2Key cl l)) l) }
  m2.filterTidy l

/-- The L2 of cluster `cl` checks its copy of line `l` as it is read (R369). -/
def Mem.l2Check (m : Mem) (cl l : Nat) : Mem :=
  let m1 := m.dropUps l (Upset.isL2 cl)
  match m.l2State cl l with
  | none => m
  | some st =>
    if m.hasUp l (.l2 cl true) then
      (if st = Mesi.m then (m1.poisonLine l).note (.l2Lost cl l) else ((m1.l2Drop cl l).tidy l).note (.l2Corrected cl l))
    else if m.hasUp l (.l2 cl false) then m1.note (.l2Corrected cl l)
    else m

/-- The L2 of cluster `cl` loses line `l` (R365): an M copy is first written to the system cache for class `a.cls` (R366, R368, R379). -/
def Mem.l2Lose (m : Mem) (a : Asker) (cl l : Nat) : Mem :=
  if m.l2State cl l = some .m then ((m.l2Check cl l).l2Drop cl l).sysFill a l true false else (m.l2Drop cl l).tidy l

/-- An L2 asks for line `l`: its filter entry is used, and made when absent; a filter victim leaves every L2 (R366). -/
def Mem.filterUse (m : Mem) (a : Asker) (l : Nat) : Mem :=
  let k := filKey l
  let t := tget [] m.filter k
  if holds t l then { m with filter := tset [] m.filter k (touchWay t l false) }
  else match chooseWay t (List.range 16) with
    | none => m
    | some (j, old, t') =>
      let m1 := { m with filter := tset [] m.filter k t' }
      let m2 := match old with
        | some w => (m1.l2Holders w.line).foldl (fun (m : Mem) cl => m.l2Lose a cl w.line) m1
        | none => m1
      { m2 with filter := tset [] m2.filter k (tset none (tget [] m2.filter k) j (some ⟨l, .e, 0⟩)) }

/-- Place line `l` in the L2 of cluster `cl`; the way's old line leaves the L2 (R365, R371, R379). -/
def Mem.l2Place (m : Mem) (a : Asker) (cl l : Nat) (st : Mesi) (stream : Bool) : Mem :=
  let k := l2Key cl l
  match chooseWay (tget [] m.l2 k) (List.range 16) with
  | none => m
  | some (j, old, t') =>
    let m1 := { m with l2 := tset [] m.l2 k t' }
    let m2 := match old with
      | some w => m1.l2Lose a cl w.line
      | none => m1
    { m2 with l2 := tset [] m2.l2 k (tset none (tget [] m2.l2 k) j (some ⟨l, st, if stream then 3 else 0⟩)) }

/-- Every L2 copy of line `l` is checked as its holder answers. -/
def Mem.l2CheckAll (m : Mem) (l : Nat) : Mem := (m.l2Holders l).foldl (fun (m : Mem) o => m.l2Check o l) m

/-- Whether an L2 holds line `l` in M or E. -/
def Mem.l2Owned (m : Mem) (l : Nat) : Bool := (m.l2Holders l).any (fun o => decide (m.l2State o l ≠ some .s))

/-- The L2 copies of line `l` are downgraded to S; M data goes to the system cache (R367, R368). -/
def Mem.l2Share (m : Mem) (a : Asker) (l : Nat) (stream : Bool) : Mem :=
  (m.l2Holders l).foldl (fun (m : Mem) o => match m.l2State o l with
    | some .m => (m.sysFill a l true stream).l2SetState o l .s
    | some .e => m.l2SetState o l .s
    | _ => m) m

/-- The L2 of cluster `cl` obtains line `l` for reading (R367): from an L2 that holds it in M or E, which keeps it in S
(its M data goes to the system cache), else from the system cache or the home, with a system-cache fill of class `a.cls`. -/
def Mem.l2Read (m : Mem) (a : Asker) (cl l : Nat) (stream : Bool) : Mem :=
  let m := (m.settle a l).l2Check cl l
  match m.l2State cl l with
  | some _ => m.l2Touch cl l stream
  | none =>
    let m0 := m.l2CheckAll l
    let m1 := if m0.l2Owned l then m0.l2Share a l stream else m0.fromSlice a l stream
    (m1.filterUse a l).l2Place a cl l (if (m0.l2Holders l).isEmpty then .e else .s) stream

/-- The L2 of cluster `cl` obtains line `l` with ownership (R367): every other L2 copy is invalidated, and dirty data moves over. -/
def Mem.l2Own (m : Mem) (a : Asker) (cl l : Nat) (stream : Bool) : Mem :=
  let m := (m.settle a l).l2CheckAll l
  let others := (m.l2Holders l).filter (fun o => decide (o ≠ cl))
  let dirty := others.any (fun o => decide (m.l2State o l = some .m))
  let m1 := others.foldl (fun (m : Mem) o => m.l2Drop o l) m
  match m.l2State cl l with
  | some st =>
    let m2 := if st = Mesi.s then (m1.filterUse a l).l2SetState cl l .e else m1
    m2.l2Touch cl l stream
  | none =>
    let m2 := if m.l2Owned l then m1 else m1.fromSlice a l stream
    (m2.filterUse a l).l2Place a cl l (if dirty then .m else .e) stream

/-- The L2 of cluster `cl` writes line `l`, which it owns: the line is in M. A dirty system-cache way beneath keeps its older value. -/
def Mem.l2Dirty (m : Mem) (cl l : Nat) : Mem :=
  if m.l2State cl l = some .m then m.markDirty l
  else
    let under := match findWay (tget [] m.sys (sysKey l)) l with | some (_, w) => decide (w.st = Mesi.m) | none => false
    let m1 := if under then { m with mid := tset none m.mid l (some (m.now l)) } else m
    (m1.markDirty l).l2SetState cl l .m

/-- Line `l` is looked up in the L1I or L1D of core `k`: a line with a parity error is dropped (R363). -/
def Mem.l1Check (m : Mem) (k l : Nat) (instr : Bool) : Mem :=
  if m.hasUp l (.l1 k instr) then (m.l1Drop k l instr (!instr)).note (.l1 k l) else m

/-- Write the set of the L1I or L1D of core `k` that line `l` belongs to. -/
def Mem.setL1 (m : Mem) (k l : Nat) (instr : Bool) (u : CacheSet) : Mem :=
  if instr then { m with l1i := tset [] m.l1i (l1Key k l) u } else { m with l1d := tset [] m.l1d (l1Key k l) u }

/-- The set of the L1I or L1D of core `k` that line `l` belongs to. -/
def Mem.getL1 (m : Mem) (k l : Nat) (instr : Bool) : CacheSet := if instr then tget [] m.l1i (l1Key k l) else tget [] m.l1d (l1Key k l)

/-- A load or fetch of core `k` brings line `l` into its L1D or L1I and its L2 (R359). -/
def Mem.l1Read (m : Mem) (a : Asker) (k l : Nat) (instr stream : Bool) : Mem :=
  let m := (m.settle a l).l1Check k l instr
  if holds (m.getL1 k l instr) l then m.setL1 k l instr (touchWay (m.getL1 k l instr) l stream)
  else
    let m1 := m.l2Read a (k / 8) l stream
    match chooseWay (m1.getL1 k l instr) (List.range 4) with
    | none => m1
    | some (j, old, t') =>
      let m2 := match old with
        | some w => m1.dropUps w.line (Upset.isL1 k instr (!instr))
        | none => m1
      m2.setL1 k l instr (tset none t' j (some ⟨l, .s, if stream then 3 else 0⟩))

/-- The L2 accepts a store or an atomic write of core `k` to a line that it owns (R214, R365): the line leaves the L1s of the other
cores of the cluster and the L1I of core `k`. -/
def Mem.l2Accept (m : Mem) (k l : Nat) : Mem :=
  let m1 := ((coresOf (k / 8)).filter (· ≠ k)).foldl (fun (m : Mem) j => m.l1Drop j l true true) m
  (m1.l1Drop k l true false).l2Dirty (k / 8) l

/-! ### Writes and reads of the agents that are not cores -/

/-- Line `l` leaves every L2 before a write at the slice; an M copy is merged into the system cache (R368). -/
def Mem.slicePull (m : Mem) (a : Asker) (l : Nat) : Mem := (m.l2Holders l).foldl (fun (m : Mem) cl => m.l2Lose a cl l) m

/-- Words of line `l` at the given offsets; all twelve clear the poison (R689). -/
def Mem.putWordsAt (m : Mem) (l : Nat) (ws : List (Nat × MWord)) : Mem :=
  let m1 := ws.foldl (fun (m : Mem) e => m.put (12 * l + e.1) e.2) m
  if 12 ≤ ws.length then { m1 with poison := tset false m1.poison l false } else m1

/-- A write at the slice by an agent of class `a.cls` (R368, R380, R689): words of line `l` at the given offsets, tags clear
unless the value carries one. A part of a line is merged into the line as the system cache or the home holds it. -/
def Mem.sliceWrite (m : Mem) (a : Asker) (l : Nat) (ws : List (Nat × MWord)) : Mem :=
  let m0 := (m.settle a l).slicePull a l
  let whole := decide (12 ≤ ws.length)
  let inSys := holds (tget [] m0.sys (sysKey l)) l
  let alloc := inSys || (!(m0.allowed a.cls (sliceOf l)).isEmpty && !(m0.inScratch l))
  let r := if whole then (false, m0) else if inSys then m0.sysCheck a l else m0.readHome a l
  let m1 := if r.1 then (r.2.markDirty l).poisonLine l else r.2
  if alloc then ((m1.markDirty l).sysFill a l true false).putWordsAt l ws
  else m1.writeHome l ((m1.putWordsAt l ws).now l)

/-- A write of untagged data at the slice. -/
def Mem.sliceWriteData (m : Mem) (a : Asker) (l : Nat) (ws : List (Nat × Word)) : Mem :=
  m.sliceWrite a l (ws.map (fun e => (e.1, ⟨e.2, false⟩)))

/-- Write whole lines from line `l` upward, twelve words each, padded with zero words. -/
def Mem.sliceLines (m : Mem) (a : Asker) : Nat → Nat → List Word → Mem
  | 0, _, _ => m
  | n + 1, l, ws =>
    let part := (List.range 12).map (fun j => (j, ws.getD j 0))
    (m.sliceWriteData a l part).sliceLines a n (l + 1) (ws.drop 12)

/-- A read by an agent that is not a core leaves an M copy of an L2 in S (R368); it places no line. -/
def Mem.sliceRead (m : Mem) (a : Asker) (l : Nat) : Mem :=
  let m := (m.settle a l).l2CheckAll l
  if m.l2Owned l then m.l2Share a l false
  else if holds (tget [] m.sys (sysKey l)) l then
    let r := m.sysCheck a l
    if r.1 then (r.2.markDirty l).poisonLine l else r.2
  else
    let r := m.readHome a l
    if r.1 then r.2.poisonLine l else r.2

/-! ### Maintenance (R373) -/

/-- The dirty system-cache way of line `l`, if it has one. -/
def Mem.sysDirty (m : Mem) (l : Nat) : Option (Nat × Way) :=
  (findWay (tget [] m.sys (sysKey l)) l).filter (fun e => decide (e.2.st = Mesi.m))

/-- The dirty system-cache way of line `l` becomes clean. -/
def Mem.sysClean (m : Mem) (l : Nat) : Mem :=
  match m.sysDirty l with
  | some (j, w) => m.setSysWay (sysKey l) j (some { w with st := .e })
  | none => m

/-- CLEAN.A: the line is written home where it is dirty; every copy stays valid and clean. -/
def Mem.cleanLine (m : Mem) (a : Asker) (l : Nat) : Mem :=
  let m := (m.settle a l).l2CheckAll l
  let ms := (m.l2Holders l).filter (fun o => decide (m.l2State o l = some .m))
  if ms.isEmpty then (match m.sysDirty l with | some _ => (m.sysClean l).wayHome a l | none => m)
  else (((ms.foldl (fun (m : Mem) o => m.l2SetState o l .e) m).sysClean l).dropUps l Upset.isSys).writeBack l

/-- INV.A: the line leaves every cache without write-back. -/
def Mem.invLine (m : Mem) (a : Asker) (l : Nat) : Mem :=
  let m0 := m.settle a l
  let m1 := (m0.l2Holders l).foldl (fun (m : Mem) o => m.l2Drop o l) m0
  let m2 := { m1.dropUps l Upset.isSys with sys := tset [] m1.sys (sysKey l) (dropWay (tget [] m1.sys (sysKey l)) l) }
  m2.discard l

/-- CLEAN.S of an L2 way (R374): a dirty line goes home. -/
def Mem.cleanL2Way (m : Mem) (a : Asker) (cl set way : Nat) : Mem :=
  match tget none (tget [] m.l2 (cl * 4096 + set)) way with
  | some w => if w.st = Mesi.m then m.cleanLine a w.line else m
  | none => m

/-- CLEAN.S of a system-cache way (R374): a dirty way goes home and is clean; a lent way has no line. -/
def Mem.cleanSysWay (m : Mem) (a : Asker) (slice set way : Nat) : Mem :=
  match tget none (tget [] m.sys (slice * 4096 + set)) way with
  | some w => if w.st = Mesi.m then (m.setSysWay (slice * 4096 + set) way (some { w with st := .e })).wayHome a w.line else m
  | none => m

/-! ### Bytes -/

/-- The byte at physical byte address `pa` of the memory image (R50). -/
def Mem.byte (m : Mem) (pa : Nat) : Byte := ((m.word (pa / 4)).data >>> (9 * (pa % 4))).setWidth 9

/-- Write one byte; the tag of its word is cleared (R59). -/
def Mem.putByte (m : Mem) (pa : Nat) (b : Byte) : Mem :=
  let w := (m.word (pa / 4)).data
  let sh := 9 * (pa % 4)
  let mask : Word := (511 : Word) <<< sh
  m.put (pa / 4) ⟨(w &&& ~~~mask) ||| ((b.setWidth 36) <<< sh), false⟩

/-- The word that four bytes spell, least significant first (R50). -/
def bytesWord : List Byte → Word
  | [] => 0
  | b :: t => b.setWidth 36 ||| (bytesWord t <<< 9)

/-- The `n` low bytes of a word, least significant first (R50). -/
def wordBytes : Nat → Word → List Byte
  | 0, _ => []
  | n + 1, w => w.setWidth 9 :: wordBytes n (w >>> 9)

/-! ### The merging buffer (R360, R361) -/

/-- Apply a drained entry to memory: the bytes, then the tags of its capability words (R58, R59, R689). -/
def Mem.applyEntry (m : Mem) (e : MEntry) : Mem :=
  let m1 := e.bytes.foldl (fun (m : Mem) b => match b.2 with | some v => m.putByte (48 * e.line + b.1) v | none => m) m
  let m2 := e.capW.foldl (fun (m : Mem) w => m.put (12 * e.line + w) ⟨(m.word (12 * e.line + w)).data, true⟩) m1
  if 48 ≤ e.bytes.length then { m2 with poison := tset false m2.poison e.line false } else m2

/-- The L2 accepts entry `e` of core `k` (R214): the line is owned and dirty, and the bytes are visible to all. -/
def Mem.drainEntry (m : Mem) (a : Asker) (k : Nat) (e : MEntry) : Mem :=
  ((m.l2Own a (k / 8) e.line e.stream).l2Accept k e.line).applyEntry e

end Sys2Proof.Machine
end

