-- ==== Sys2Proof/Machine/Time.lean ====
section
/-!
DEFINITION. Stamps and the time of the TBU (R72 to R82), and the ends of leases (R591).
-/

namespace Sys2Proof.Machine

open Sys2Proof

/-- Beats per turn, as TBU_TURNLEN holds it (R111). -/
def State.bpt (s : State) : Nat := s.tbu.bptM1 + 1

/-- The TURN and BEAT of the current time (R73). -/
def State.now (s : State) : Stamp := ⟨s.tbu.turn, s.tbu.beat⟩

/-- `a` does not lie after `b`. -/
def Stamp.le (a b : Stamp) : Bool := decide (a.turn < b.turn) || (decide (a.turn = b.turn) && decide (a.beat ≤ b.beat))

/-- The number of beats from `a` to `b` with `B` beats per turn (R77). -/
def Stamp.to (B : Nat) (a b : Stamp) : Int := (b.turn - a.turn) * B + ((b.beat : Int) - a.beat)

/-- A stamp plus `n` beats (R77). -/
def Stamp.add (B : Nat) (a : Stamp) (n : Int) : Stamp :=
  let t := (a.beat : Int) + n
  ⟨a.turn + t / B, (t % B).toNat⟩

/-- Whether a BEAT field is valid now (R75). -/
def State.beatOk (s : State) (b : Nat) : Bool := s.glb.rTbu && decide (b < s.bpt)

/-- Whether a short stamp is valid now (R75). -/
def State.stampOk (s : State) (w : Word) : Bool := s.beatOk (w.toNat % 65536)

/-- The stamp that a short stamp names (R74, R76). -/
def State.resolve (s : State) (w : Word) : Stamp :=
  let f : Int := (w.toNat / 65536 : Nat)
  let base : Int := if s.tbu.turn < 2 ^ 19 then 0 else s.tbu.turn - 2 ^ 19
  ⟨base + (f - base) % 2 ^ 20, w.toNat % 65536⟩

/-- The short stamp of a stamp (R74). -/
def Stamp.short (a : Stamp) : Word := word ((a.turn % 2 ^ 20).toNat * 65536 + a.beat % 65536)

/-- The current full stamp (R73); the turn is shown modulo 2^48 (log entry 68). -/
def State.nowFull (s : State) : DWord :=
  BitVec.ofNat 72 ((s.tbu.turn % 2 ^ 48).toNat * 2 ^ 24 + s.tbu.beat % 65536 * 256 + s.tbu.phase % 256)

/-- Whether the TBU generates beats: at a measured period, and not while R692 holds the time at the value taken up. -/
def State.ticking (s : State) : Bool := s.glb.rTbu && decide (0 < s.tbu.period) && !s.tbu.held && decide (s.tbu.mode ≠ .none)

/-- The time is looked at: the fraction of the beat that has elapsed since its last sample is a free value (R73, R110). -/
def State.elapsePhase (s : State) : State :=
  if !s.ticking then s
  else
    let d := s.draw (256 - s.tbu.phase % 256)
    { d.2 with tbu := { s.tbu with phase := s.tbu.phase % 256 + d.1 } }

/-- The short stamp of the current time; 0 while GLB_READY.TBU is clear (R655). -/
def State.nowShort (s : State) : Word := if s.glb.rTbu then s.now.short else 0

/-- The stamp `n` beats after `a` at which an item is scheduled (R77). An offset of 2^19 turns or more lands in the past, at the stamp
with the same short stamp (R78). -/
def State.after (s : State) (a : Stamp) (n : Nat) : Stamp :=
  let x := Stamp.add s.bpt a n
  if n < 2 ^ 19 * s.bpt then x
  else if x.turn < s.tbu.turn then x
  else ⟨x.turn - 2 ^ 20 * ((x.turn - s.tbu.turn) / 2 ^ 20 + 1), x.beat⟩

/-- Schedule an item at a stamp: it is due at a later edge (R79). -/
def State.due (s : State) (a : Stamp) : Due := ⟨a, s.tbu.edges⟩

/-- An item is due: the time has reached its stamp at an edge after it was scheduled (R79). After step 1 of R692 no item acts before
the next edge. -/
def State.isDue (s : State) (d : Due) : Bool := Stamp.le d.at_ s.now && decide (d.edge < s.tbu.edges) && !s.tbu.noAct

/-- The end of a lease of `n` beats granted now; in reference cycles while GLB_READY.TBU is clear (R316, R591). -/
def State.leaseFor (s : State) (n : Nat) : LeaseEnd :=
  if s.glb.rTbu then .beats (s.due (s.after s.now n)) else .refCycles (max 1 n * 256)

/-- Whether a lease may expire now: its stamp is due; a lease counted in reference cycles has run out when the command
that ends it arrives (log entry 3). -/
def State.leaseOver (s : State) : LeaseEnd → Bool
  | .beats d => s.isDue d
  | .refCycles _ => true

end Sys2Proof.Machine
end

