-- ==== Sys2Proof/Machine/Icu.lean ====
section
/-!
DEFINITION. The interrupt controller: sources, arrivals, routing, the priority stacks and the entry editor (R293 to R327).
-/

namespace Sys2Proof.Machine

open Sys2Proof

/-- Whether source `n` exists on this part (R293, R295). -/
def State.srcExists (s : State) (n : Nat) : Bool :=
  let v := s.hw.variant
  if 8192 ≤ n then false
  else if 5120 ≤ n then true
  else if 1024 ≤ n then decide (n - 1024 < Config.tenants v)
  else if 192 ≤ n ∧ n < 256 then decide (0 < Config.lanes v)
  else if 320 ≤ n ∧ n < 336 then decide ((n - 320) / 4 < Config.ports v)
  else if 336 ≤ n ∧ n < 400 then decide ((n - 336) / 4 < Config.channels v)
  else true

/-- Whether a chapter assigns source `n`: every other internal source is never raised (R294; R112, R288, R426, R484, R490, R518, R548,
R566, R567, R577, R624, R658). -/
def assigned (n : Nat) : Bool :=
  decide (n ≤ 16) || decide (n = 32) || decide (n = 64) || decide (n = 128) || decide (n = 129) || decide (n = 192) || decide (n = 256)
    || (decide (320 ≤ n) && decide (n < 336)) || (decide (336 ≤ n) && decide (n < 400) && (decide (n % 4 ≠ 3) || decide (n = 339)))
    || decide (n = 400) || decide (n = 401) || (decide (416 ≤ n) && decide (n < 432)) || decide (1024 ≤ n)

/-- Source entry `n`, with its raise line. -/
def State.src (s : State) (n : Nat) : Src_ := { tget {} s.icu.srcs n with line := tget false s.icu.lines n }

/-- Write source entry `n`; writes to entries that do not exist are ignored (R295). -/
def State.setSrc (s : State) (n : Nat) (e : Src_) : State :=
  if s.srcExists n then { s with icu := { s.icu with srcs := tset {} s.icu.srcs n { e with line := false } } } else s

/-- Add one arrival to an entry: the entry and whether it was lost (R297). -/
def Src_.arrive (e : Src_) : Src_ × Bool :=
  if 15 ≤ e.count then ({ e with ovf := true }, true) else ({ e with count := e.count + 1 }, false)

/-- An arrival on source `n` while the ICU clock runs (R297); a lost one counts in ICU_CNT.LOST and marks the edit lease
that holds the source (R317). -/
def State.countArrival (s : State) (n : Nat) : State :=
  let r := (s.src n).arrive
  let s1 := s.setSrc n r.1
  if r.2 then
    { s1 with icu := { s1.icu with
        lost := satInc 262143 s1.icu.lost
        lease := s1.icu.lease.map (fun l => if l.src = n then { l with lost := true } else l) } }
  else s1

/-- Whether a source is handled as an edge source whatever TRIGGER holds: raised by events (R312). -/
def edgeAlways (n : Nat) : Bool := !(decide (n = 32) || decide (n = 64) || (decide (416 ≤ n) && decide (n < 432)))

/-- Entry `e` of source `n` follows its line as a level source (R298, R312). -/
def Src_.isLevel (e : Src_) (n : Nat) : Bool := e.level && !(edgeAlways n)

/-- An edge on the raise line of source `n`: one arrival of an edge source (R297); while the ICU clock is stopped the latch of the line
takes the edge (R315). While GLB_READY.ICU is clear nothing is held. -/
def State.lineEdge (s : State) (n : Nat) : State :=
  if !(s.srcExists n) || !s.glb.rIcu then s
  else if s.icu.gated then s.setSrc n { s.src n with latch := true }
  else if (s.src n).isLevel n then s
  else s.countArrival n

/-- Source `n` is signalled to the service core too, whatever its entry and the ICU's readiness (R314). -/
def State.signal (s : State) (n : Nat) : State := if n < 32 then s.emit (.signal n) else s

/-- One event arrival on source `n` (R297, R312, R314). -/
def State.raise (s : State) (n : Nat) : State := (s.signal n).lineEdge n

/-- COUNT of a level source follows its line (R298). -/
def State.levelCount (s : State) (n : Nat) : State :=
  let e := s.src n
  if s.glb.rIcu && e.isLevel n then s.setSrc n { e with count := b2n e.line } else s

/-- The raise line of a condition source follows its condition (R298, R312): a rising edge is one arrival of an edge
source, and COUNT of a level source follows the line. -/
def State.setLine (s : State) (n : Nat) (b : Bool) : State :=
  let rise := b && !(s.src n).line
  let s1 := ({ s with icu := { s.icu with lines := tset false s.icu.lines n b } }).levelCount n
  if rise then s1.lineEdge n else s1

/-- A source is pending (R299). -/
def Src_.pending (e : Src_) : Bool := decide (0 < e.count) && decide (0 < e.pri) && !e.inserv

/-- The running priority of a context (R300). -/
def Ctx.runPri (c : Ctx) : Nat :=
  match c.stack with
  | [] => c.floor
  | t :: _ => max c.floor t.2

/-- Whether context `n` belongs to target set `t` (R326). -/
def State.inTset (s : State) (t n : Nat) : Bool := (tget 0 s.icu.tset (16 * t + n / 32)).testBit (n % 32)

/-- Whether context `n` counts as wedged for the ICU: wedged, or its core offlined (R289, R662). -/
def State.wedgedFor (s : State) (n : Nat) : Bool :=
  decide ((s.ctx n).run = .wedged) || tget false s.ras.coreOff (coreOf n)

/-- Whether context `n` is eligible for entry `e` (R303). -/
def State.eligible (s : State) (e : Src_) (n : Nat) : Bool :=
  let c := s.ctx n
  let cl := cluOf n
  let held := (tget none s.pmu.hold cl).isSome
  s.inTset e.tset n
    && (match s.cluPower cl with
        | some .run => s.cluReady cl
        | some .ember => !held && e.wake
        | _ => false)
    && !(tget false s.ras.cluOff cl)
    && !(s.wedgedFor n)
    && (s.core (coreOf n)).released
    && c.held.isNone
    && decide (c.stack.length < 8)
    && decide (c.runPri < e.pri)

/-- The first element of `l` after `tok` in cyclic order, among those that satisfy `p`; `l` rises. -/
def firstAfter (l : List Nat) (tok : Nat) (p : Nat → Bool) : Option Nat :=
  match (l.filter (fun x => decide (tok < x))).find? p with
  | some x => some x
  | none => l.find? p

/-- The contexts of the device (R188). -/
def State.contexts (s : State) : List Nat := List.range (32 * Config.clusters s.hw.variant)

/-- The source that the next decision takes (R304). -/
def State.icuChoose (s : State) : Option Nat :=
  let cand := s.icu.srcs.filter (fun e => e.2.pending && s.contexts.any (fun n => s.eligible e.2 n))
  let top := cand.foldl (fun m e => max m e.2.pri) 0
  firstAfter (tkeys cand) s.icu.srcTok (fun n => decide ((s.src n).pri = top))

/-- The context that a chosen source goes to (R305). -/
def State.icuTarget (s : State) (e : Src_) : Option Nat :=
  let cand := s.contexts.filter (fun n => s.eligible e n)
  match cand with
  | [] => none
  | a :: _ =>
    let low := cand.foldl (fun m n => min m ((s.ctx n).runPri)) ((s.ctx a).runPri)
    firstAfter cand s.icu.ctxTok (fun n => decide ((s.ctx n).runPri = low))

/-- One routing decision (R304, R305, R307): the source is held at the core for the context, and both tokens advance. -/
def State.icuDeliver (s : State) : State :=
  if s.icu.gated || !s.glb.rIcu then s
  else match s.icuChoose with
    | none => s
    | some n =>
      match s.icuTarget (s.src n) with
      | none => s
      | some x =>
        let e := s.src n
        let s1 := s.setSrc n { e with inserv := true, inctx := x }
        let s2 := { s1 with icu := { s1.icu with srcTok := n, ctxTok := x } }
        s2.modCtx x (fun c => { c with held := some ⟨n, e.pri, e.vec⟩ })

/-- The delivery held for context `n` is returned to the ICU (R307, R309). -/
def State.returnHeld (s : State) (n : Nat) : State :=
  match (s.ctx n).held with
  | none => s
  | some d =>
    let s1 := s.setSrc d.src { s.src d.src with inserv := false }
    let s2 := { s1 with icu := { s1.icu with returned := satInc 262143 s1.icu.returned } }
    s2.modCtx n (fun c => { c with held := none })

/-- A source leaves service, as EOI ends it (R310): a level source counts its line again (R298). -/
def State.endService (s : State) (n : Nat) : State := s.setSrc n { s.src n with inserv := false }

/-- Every source on the stack of context `n` leaves service and the stack is emptied (R309). -/
def State.clearStack (s : State) (n : Nat) : State :=
  let c := s.ctx n
  (c.stack.foldl (fun s e => s.endService e.1) s).modCtx n (fun c => { c with stack := [] })

/-- The ICU stops its clock when every present cluster is in EMBER or OFF, nothing is pending and nothing is held (R315). -/
def State.icuStop (s : State) : State :=
  let quiet := (List.range (Config.clusters s.hw.variant)).all (fun k =>
      !(s.cluPresent k) || decide (s.cluPower k ≠ some .run))
    && s.icu.srcs.all (fun e => !e.2.pending)
    && s.ctxs.all (fun e => e.2.held.isNone)
  if s.lk.gateEn && quiet && s.glb.rIcu then { s with icu := { s.icu with gated := true } } else s

/-- The clock restarts: each set latch of an edge source adds one arrival, and a level source is seen through its line (R315). -/
def State.icuRestart (s : State) : State :=
  if !s.icu.gated then s
  else
    let s1 := { s with icu := { s.icu with gated := false } }
    (tkeys s.icu.srcs).foldl (fun s n =>
      let e := s.src n
      let s2 := (s.setSrc n { e with latch := false }).levelCount n
      if e.latch && !(e.isLevel n) then s2.countArrival n else s2) s1

/-! ### The entry editor (R316, R317, R321 to R323) -/

/-- The requester that holds the edit lease (R323). -/
def State.icuHolds (s : State) (r : Requester) : Bool :=
  match s.icu.lease with
  | some l => decide (l.owner = reqCode r)
  | none => false

/-- ACQUIRE for source `n` (R316 step 1). -/
def State.icuAcquire (s : State) (r : Requester) (n : Nat) : State :=
  match s.icu.lease with
  | some _ => s
  | none => { s with icu := { s.icu with source := n, lease := some { owner := reqCode r, src := n, shadow := s.src n, clrcnt := false, clrovf := false, lost := false, until_ := s.leaseFor s.lk.icuLease } } }

/-- COMMIT by the holder (R316 step 4, R317). -/
def State.icuCommit (s : State) (r : Requester) : State :=
  match s.icu.lease with
  | none => s
  | some l =>
    if l.owner ≠ reqCode r then s
    else
      let e := s.src l.src
      let lvl := l.shadow.level && !(edgeAlways l.src)
      let e1 := { e with
        pri := l.shadow.pri
        tset := l.shadow.tset
        vec := l.shadow.vec
        level := l.shadow.level
        wake := l.shadow.wake
        ovf := if l.clrovf && !l.lost then false else e.ovf
        count := if lvl then b2n e.line else if l.clrcnt then 0 else e.count }
      let s1 := s.setSrc l.src e1
      { s1 with icu := { s1.icu with lease := none } }

/-- ABORT by the holder (R316). -/
def State.icuAbort (s : State) (r : Requester) : State :=
  if s.icuHolds r then { s with icu := { s.icu with lease := none } } else s

/-- Expiry or break of the edit lease: the shadow is discarded and BROKEN counts it (R316, R590). -/
def State.icuBreak (s : State) : State :=
  match s.icu.lease with
  | none => s
  | some _ => { s with icu := { s.icu with lease := none, broken := satInc 255 s.icu.broken } }

/-- The entry that ICU_SRC_VEC and ICU_SRC_CTL present (R322). -/
def State.icuShown (s : State) : Src_ :=
  match s.icu.lease with
  | some l => l.shadow
  | none => s.src s.icu.source

end Sys2Proof.Machine
end

