-- ==== Sys2Proof/Machine/Ras.lean ====
section
/-!
DEFINITION. The error unit: records, the error ring and merging (R655 to R660).
-/

namespace Sys2Proof.Machine

open Sys2Proof

/-- The crossing-group number of each unit (R623, R655). -/
def unitTbu : Nat := 36
def unitEau : Nat := 37
def unitDdu : Nat := 38
def unitDol : Nat := 39
def unitRng : Nat := 40
def unitIcu : Nat := 41
def unitPmu : Nat := 42
def unitBsu : Nat := 43
def unitRas : Nat := 44
def unitHpc (p : Nat) : Nat := 16 + p
def unitDmc (c : Nat) : Nat := 20 + c

/-- The error that the next access of on-die table `t` meets (R661), and the state in which it has been met. -/
def State.tblErr (s : State) (t : Nat) : TblErr := tget .none s.ras.tbl t
def State.tblMet (s : State) (t : Nat) : State := { s with ras := { s.ras with tbl := tset .none s.ras.tbl t .none } }

/-- The twelve words of a record (R655). -/
def ErrRec.words (r : ErrRec) : List Word :=
  let opt : Option Nat → Nat → Nat → Nat := fun o vb lo => match o with | some n => 2 ^ vb + n * 2 ^ lo | none => 0
  [word r.seq,
   word (r.cls + r.sev * 16 + r.unit * 64 + opt r.ctx 12 13 + opt r.tenant 22 23),
   r.stamp,
   word (r.addr.getD 0),
   word ((match r.addr with | some a => a / 2 ^ 36 % 512 + 512 | none => 0)),
   word r.detail,
   word r.count, 0, 0, 0, 0, 0]

/-- The words of a record with their places in the line. -/
def ErrRec.numbered (r : ErrRec) : List (Nat × Word) := r.words.zipIdx.map (fun e => (e.2, e.1))

/-- RAS as it writes its records: with the class of the service core (R378, R658). -/
def State.svcAsker (s : State) : Asker := ⟨s.mem.scAgentService, unitRas⟩

/-- Whether the ring has room (R658). -/
def State.rasRoom (s : State) : Bool :=
  decide ((s.ras.prod + 2 ^ 36 - s.ras.cons) % 2 ^ 36 < 2 ^ s.lk.rasSize)

/-- The line of the ring slot for record number `p` (R658). -/
def State.rasSlot (s : State) (p : Nat) : Nat := s.lk.rasLine + p % 2 ^ s.lk.rasSize

/-- RAS_LAST and the waiting record take a record. -/
def State.rasKeep (s : State) (r : ErrRec) : State :=
  { s with ras := { s.ras with last := r.words.take 7, wait := tset none s.ras.wait r.cls (some r) } }

/-- A record that is not written counts in RAS_LOST (R658). -/
def State.rasLose (s : State) : State := { s with ras := { s.ras with lost := satInc 262143 s.ras.lost } }

/-- Offer a record that has taken its SEQ to the ring (R658): written and PROD advanced, or lost. -/
def State.rasPut (s : State) (r : ErrRec) : State :=
  let l := s.rasSlot s.ras.prod
  if !s.ras.en || !s.rasRoom then (s.rasKeep { r with slot := none }).rasLose
  else if s.popLines ≤ l ∨ s.mem.poisoned l then
    let s1 := (s.rasKeep { r with slot := none }).rasLose
    { s1 with ras := { s1.ras with en := false } }
  else
    let s1 := s.rasKeep { r with slot := some s.ras.prod }
    { s1 with
      mem := s1.mem.sliceWriteData s1.svcAsker l r.numbered
      ras := { s1.ras with prod := (s1.ras.prod + 1) % 2 ^ 36, lostRec := false } }

/-- A new record: it takes the next SEQ and raises source `cls` (R655 to R657). -/
def State.rasNew (s : State) (cls sev unit : Nat) (ctx tenant addr : Option Nat) (detail : Nat) : State :=
  let r : ErrRec := { cls := cls, sev := sev, unit := unit, ctx := ctx, tenant := tenant, addr := addr, detail := detail, seq := s.ras.next, count := 1, stamp := s.nowShort, slot := none }
  let s1 := { s with ras := { s.ras with next := (s.ras.next + 1) % 2 ^ 36, own := if cls = 15 then s.ras.own else s.ras.next } }
  (s1.rasPut r).raise cls

/-- Whether the waiting record of a class still waits: not yet consumed from the ring (log entry 7). -/
def State.rasWaits (s : State) (r : ErrRec) : Bool :=
  match r.slot with
  | none => true
  | some p => decide ((p + 2 ^ 36 - s.ras.cons) % 2 ^ 36 < 2 ^ s.lk.rasSize)

/-- Record an error (R655 to R659): merged into the waiting record of its class when both have SEV 0 and agree in unit and
address, else a new record, followed by a class 15 record when it is the first lost since the ring last had room. -/
def State.record (s : State) (cls sev unit : Nat) (ctx tenant addr : Option Nat) (detail : Nat) : State :=
  match tget none s.ras.wait cls with
  | some r =>
    if sev = 0 ∧ r.sev = 0 ∧ r.unit = unit ∧ r.addr = addr ∧ s.rasWaits r then
      let r1 := { r with count := r.count + 1 }
      let s1 := { s with ras := { s.ras with
        wait := tset none s.ras.wait r1.cls (some r1)
        last := if s.ras.last.head? = some (word r.seq) then r1.words.take 7 else s.ras.last } }
      let s2 := match r.slot with
        | some p => { s1 with mem := s1.mem.sliceWriteData s1.svcAsker (s.rasSlot p) r1.numbered }
        | none => s1
      s2.raise cls
    else fresh s
  | none => fresh s
where
  /-- A new record, and a LOST record when the ring has just become full. -/
  fresh (s : State) : State :=
    let full := s.ras.en && !s.rasRoom
    let s1 := s.rasNew cls sev unit ctx tenant addr detail
    if full && !s.ras.lostRec then
      let s2 := s1.rasNew 15 0 unitRas none none none 0
      { s2 with ras := { s2.ras with lostRec := true } }
    else s1

/-- The SEQ of the record made last, a record of lost ones apart (R656). -/
def State.lastSeq (s : State) : Nat := s.ras.own

end Sys2Proof.Machine
end

