-- ==== Sys2Proof/Machine/Dol.lean ====
section
/-!
DEFINITION. The decision output lanes: records, decisions, release and frames (R505 to R514, R518 to R520).
-/

namespace Sys2Proof.Machine

open Sys2Proof

/-! ### Counters that saturate and interrupt -/

/-- Count one in entry `k` of a counter table with maximum `m`; the second part says whether it saturates now. -/
def cntBump (m : Nat) (t : Tbl Nat) (k : Nat) : Tbl Nat × Bool :=
  let v := tget 0 t k
  (tset 0 t k (satInc m v), decide (v + 1 = m))

/-- The DOL counters of R520: 0 RELEASED, 1 LATEREC, 2 LATEDEC, 3 NOREC, 4 SLIP, 5 LOST. -/
def State.dolCount (s : State) (k : Nat) : State :=
  let r := cntBump (2 ^ 36 - 1) s.dol.cnt k
  let s1 := { s with dol := { s.dol with cnt := r.1 } }
  if r.2 then s1.raise 192 else s1

/-! ### Records -/

/-- DDU_CTL of a class (R516). -/
def State.dduCtl (s : State) (cls : Nat) : DduCtl := tget {} s.lk.ddu cls

/-- Whether a lane is present and enabled (R506, R519). -/
def State.laneOn (s : State) (l : Nat) : Bool := decide (l < Config.lanes s.hw.variant) && s.lk.laneEn.testBit l

/-- Whether two records name the same lane and stamp (R505). -/
def DRec.isFor (r : DRec) (lane : Nat) (st : Stamp) : Bool := decide (r.lane = lane) && decide (r.stamp = st)

/-- The record of a lane and a stamp. -/
def State.dolFind (s : State) (lane : Nat) (st : Stamp) : Option DRec := s.dol.recs.find? (fun r => r.isFor lane st)

/-- Change the record of a lane and a stamp. -/
def State.dolMod (s : State) (lane : Nat) (st : Stamp) (f : DRec → DRec) : State :=
  { s with dol := { s.dol with recs := s.dol.recs.map (fun r => if r.isFor lane st then f r else r) } }

/-- An event of a class is created with a stamp (R505, R506): the lane whose record it joins, if any. -/
def State.dolCreate (s : State) (cls : Nat) (st : Stamp) : Option Nat × State :=
  let lane := (s.dduCtl cls).lane
  if Config.lanes s.hw.variant = 0 then (none, s)
  else if !(s.laneOn lane) then (none, s.dolCount 3)
  else match s.dolFind lane st with
    | some r =>
      if Stamp.le r.release.at_ s.now then (none, s.dolCount 3)
      else (some lane, s.dolMod lane st (fun r => { r with expect := r.expect + 1 }))
    | none =>
      let rel := s.after st s.lk.lat
      if 131072 ≤ s.dol.recs.length ∨ Stamp.le rel s.now then (none, s.dolCount 3)
      else
        let r : DRec := { lane := lane, stamp := st, release := s.due rel, expect := 1, decided := 0, taken := 0, word := 0, flags := 0 }
        (some lane, { s with dol := { s.dol with recs := s.dol.recs ++ [r] } })

/-- The end flags that a record ORs (R505): PARTIAL, EVICTED and OVERSIZE, in the places of R508. -/
def recFlags (partial_ evicted oversize : Bool) : Nat := b2n partial_ * 2 + b2n evicted * 4 + b2n oversize * 16

/-- The DDU has accepted an event of a record (R505). -/
def State.dolAccept (s : State) (lane : Option Nat) (st : Stamp) (fl : Nat) : State :=
  match lane with
  | some l => s.dolMod l st (fun r => { r with flags := r.flags ||| fl })
  | none => s

/-- A TAKE has selected an event of a record (R505). -/
def State.dolTaken (s : State) (lane : Option Nat) (st : Stamp) : State :=
  match lane with
  | some l => s.dolMod l st (fun r => { r with taken := r.taken + 1 })
  | none => s

/-- A decision for an event of a lane (R507): in time before the edge that begins beat S + L - 1; the first for a coach
counts. -/
def State.dolDecide (s : State) (lane : Nat) (st : Stamp) (w : Word) (first : Bool) : State × Bool :=
  match s.dolFind lane st with
  | some r =>
    if Stamp.le (Stamp.add s.bpt r.release.at_ (-1)) s.now then (s.dolCount 2, false)
    else (s.dolMod lane st (fun r => { r with word := r.word ||| w, decided := if first then r.decided + 1 else r.decided }), true)
  | none => (s.dolCount 2, false)

/-! ### Release -/

/-- Whether record `a` is released before `b`: earlier release beat, then earlier stamp (R509). -/
def DRec.before (a b : DRec) : Bool :=
  if a.release.at_ = b.release.at_ then Stamp.le a.stamp b.stamp else Stamp.le a.release.at_ b.release.at_

/-- The due record of a lane that is released next (R508, R509). -/
def State.dolNext (s : State) (lane : Nat) : Option DRec :=
  (s.dol.recs.filter (fun r => decide (r.lane = lane) && s.isDue r.release)).foldl (fun m r => match m with
    | some a => if r.before a then some r else some a
    | none => some r) none

/-- The word and the flags of a released record (R508). -/
def State.dolWord (s : State) (r : DRec) : Word × Nat :=
  let dflt := tget 0 s.lk.dflt r.lane
  let w := if r.decided = 0 then dflt else if r.decided = r.expect then r.word else r.word ||| dflt
  (w, b2n (decide (r.decided < r.expect)) + r.flags + b2n (decide (r.decided = 0)) * 8 + b2n (decide (r.taken < r.expect)) * 32)

/-- The unit interval, counted from the release edge, at which the frame begins (R512): the first block boundary (`phase`
unit intervals after the edge, then every 66) that is not before the end of the lane's previous frame. A unit interval lasts
10 / 1024 reference cycles of 10 ns, and the end of that frame, which is a boundary too, is rounded as the boundary is. -/
def State.dolStart (s : State) (lane phase : Nat) : Nat :=
  match tget none s.dol.lastEnd lane with
  | none => phase
  | some (e, ui) =>
    let unit := 10 * 2 ^ 24
    let busy := (2 * (ui * unit - (s.tbu.edges - e) * s.tbu.period * 1024) + unit) / (2 * unit)
    if busy ≤ phase then phase else phase + 66 * ((busy - phase + 65) / 66)

/-- What lane `n` sends outside its frames: the idle block while it is ready (R44, R510). -/
def State.laneIdle (s : State) (n : Nat) : Option Block66 := if s.glb.rLanes.testBit n then some idleBlock else none

/-- DEVID_SET completes: the records whose release beat has come keep the device ID that holds until now (R49). -/
def State.keepDevid (s : State) : State :=
  { s with dol := { s.dol with recs := s.dol.recs.map (fun r =>
      if r.devid.isNone && Stamp.le r.release.at_ s.now then { r with devid := some s.bsu.devid } else r) } }

/-- The octets of a decision frame (R511). -/
def decisionFrame (stamp w : Word) (devid flags edge : Nat) : List Octet :=
  let f := stamp.toNat + w.toNat * 2 ^ 36 + devid % 2 ^ 14 * 2 ^ 72 + flags * 2 ^ 86 + edge * 2 ^ 92
  withCrc (1 :: octetsLe 13 f)

/-- Release the next due record of a lane, whose next block boundary lies `phase` unit intervals after the edge
(R508 to R512); a record of a lane that is not ready is discarded. -/
def State.dolRelease (s : State) (lane phase : Nat) : State :=
  match s.dolNext lane with
  | none => s
  | some r =>
    let s1 := { s with dol := { s.dol with recs := s.dol.recs.filter (fun x => !(x.isFor lane r.stamp)) } }
    if !(s.glb.rLanes.testBit lane) then s1.dolCount 5
    else
      let wf := s.dolWord r
      let start := s.dolStart lane phase
      let s2 := { s1 with dol := { s1.dol with lastEnd := tset none s1.dol.lastEnd lane (some (s.tbu.edges, start + 132)) } }
      let s3 := s2.emit (.frame lane start (blocksOf (decisionFrame r.stamp.short wf.1 (r.devid.getD s.bsu.devid) wf.2 (min start 127))))
      let s4 := s3.dolCount 0
      let s5 := if r.decided < r.expect then s4.dolCount 1 else s4
      if 127 < start then s5.dolCount 4 else s5

/-- The record that a lane releases next may meet an error (R661): corrected, or the record is discarded. -/
def State.dolReleases (s : State) (lane phase : Nat) : State :=
  match s.tblErr 5, s.dolNext lane with
  | .none, _ => s.dolRelease lane phase
  | _, none => s
  | .corrected, some _ => ((s.tblMet 5).record 13 0 unitDol none none none 5).dolRelease lane phase
  | .lost, some r =>
    let s1 := { s.tblMet 5 with dol := { s.dol with recs := s.dol.recs.filter (fun x => !(x.isFor lane r.stamp)) } }
    (s1.dolCount 5).record 13 1 unitDol none none none 5

def execDecisionRelease (lane phase : Nat) (s : State) : Res :=
  .next (if lane < 4 ∧ phase < 66 then s.dolReleases lane phase else s)

end Sys2Proof.Machine
end

