-- ==== Sys2Proof/Machine/Crypto.lean ====
section
/-!
DEFINITION. The cryptographic functions the spec names: AES-256-CMAC (R437, NIST SP 800-38B), AES Key Wrap (R440, R641, NIST SP
800-38F), SHA-384 (R407, R633, R636) and ECDSA on P-384 (R635). Their algorithms are those of the standards named.
-/

namespace Sys2Proof.Machine

open Sys2Proof

/-! ### AES-256 (FIPS 197) -/

/-- Multiply by x in the field of AES. -/
def aesX (a : Octet) : Octet := if a.msb then (a <<< 1) ^^^ 0x1b else a <<< 1

/-- Multiply in the field of AES, over `k` bits of the second factor. -/
def aesMul : Nat → Octet → Octet → Octet
  | 0, _, _ => 0
  | k + 1, a, b => (if b.getLsbD 0 then a else 0) ^^^ aesMul k (aesX a) (b >>> 1)

/-- Raise to the power `e`, over `k` bits of the exponent. -/
def aesPow : Nat → Octet → Nat → Octet
  | 0, _, _ => 1
  | k + 1, a, e => aesMul 8 (if e % 2 = 1 then a else 1) (aesPow k (aesMul 8 a a) (e / 2))

/-- The S-box: inverse in the field, then the affine map. -/
def aesSub (a : Octet) : Octet :=
  let b := aesPow 8 a 254
  b ^^^ b.rotateLeft 1 ^^^ b.rotateLeft 2 ^^^ b.rotateLeft 3 ^^^ b.rotateLeft 4 ^^^ 0x63

/-- The inverse S-box. -/
def aesSubInv (a : Octet) : Octet := aesPow 8 (a.rotateLeft 1 ^^^ a.rotateLeft 3 ^^^ a.rotateLeft 6 ^^^ 0x05) 254

/-- Octet-wise exclusive or. -/
def xorOctets (a b : List Octet) : List Octet := List.zipWith (· ^^^ ·) a b

/-- The key schedule: `n` more words after the eight most recent ones `w` (oldest first), word number `i` next. -/
def aesExpand : Nat → Nat → Octet → List (List Octet) → List (List Octet)
  | 0, _, _, _ => []
  | n + 1, i, rc, w =>
    let last := w.getD 7 []
    let t := if i % 8 = 0 then
        let r := ((last.drop 1) ++ (last.take 1)).map aesSub
        xorOctets r [rc, 0, 0, 0]
      else if i % 8 = 4 then last.map aesSub
      else last
    let x := xorOctets (w.getD 0 []) t
    x :: aesExpand n (i + 1) (if i % 8 = 0 then aesX rc else rc) (w.drop 1 ++ [x])

/-- Cut a list into pieces of `k`, at most `n` of them. -/
def pieces {α : Type} (k : Nat) : Nat → List α → List (List α)
  | 0, _ => []
  | n + 1, l => l.take k :: pieces k n (l.drop k)

/-- The fifteen round keys of a 256-bit key. -/
def aesKeys (key : List Octet) : List (List Octet) :=
  let w := pieces 4 8 key
  (pieces 4 15 (w ++ aesExpand 52 8 1 w)).map List.flatten

/-- Rotate row `i mod 4` of the state by `f` places. -/
def aesShift (dir : Nat) (s : List Octet) : List Octet :=
  (List.range 16).map (fun i => s.getD ((i + 4 * dir * (i % 4)) % 16) 0)

/-- Mix one column with the coefficients `c`. -/
def aesMixCol (c : List Octet) (v : List Octet) : List Octet :=
  (List.range 4).map (fun i => (List.range 4).foldl (fun (a : Octet) j => a ^^^ aesMul 8 (v.getD j 0) (c.getD ((j + 4 - i) % 4) 0)) 0)

/-- Mix every column. -/
def aesMix (c : List Octet) (s : List Octet) : List Octet := ((pieces 4 4 s).map (aesMixCol c)).flatten

/-- The cipher on one block. -/
def aesEnc (key b : List Octet) : List Octet :=
  let ks := aesKeys key
  let s0 := xorOctets b (ks.getD 0 [])
  let s1 := (List.range 13).foldl (fun (s : List Octet) r => xorOctets (aesMix [2, 3, 1, 1] (aesShift 1 (s.map aesSub))) (ks.getD (r + 1) [])) s0
  xorOctets (aesShift 1 (s1.map aesSub)) (ks.getD 14 [])

/-- The inverse cipher on one block. -/
def aesDec (key b : List Octet) : List Octet :=
  let ks := aesKeys key
  let s0 := (aesShift 3 (xorOctets b (ks.getD 14 []))).map aesSubInv
  let s1 := (List.range 13).foldl (fun (s : List Octet) r => (aesShift 3 (aesMix [14, 11, 13, 9] (xorOctets s (ks.getD (13 - r) [])))).map aesSubInv) s0
  xorOctets s1 (ks.getD 0 [])

/-- A block doubled in the field of CMAC. -/
def cmacDouble (b : List Octet) : List Octet :=
  let n := b.foldl (fun (a : Nat) o => 256 * a + o.toNat) 0
  let d : Nat := if 2 ^ 127 ≤ n then (2 * n % 2 ^ 128) ^^^ 0x87 else 2 * n
  (octetsLe 16 d).reverse

/-- AES-256-CMAC (R437). -/
def aesCmac (key msg : List Octet) : List Octet :=
  let k1 := cmacDouble (aesEnc key (List.replicate 16 0))
  let k2 := cmacDouble k1
  let n := max 1 ((msg.length + 15) / 16)
  let bs := pieces 16 n msg
  let last := bs.getD (n - 1) []
  let tail := if last.length = 16 then xorOctets last k1
    else xorOctets ((last ++ [0x80] ++ List.replicate 15 0).take 16) k2
  let c := (bs.take (n - 1)).foldl (fun (c : List Octet) b => aesEnc key (xorOctets c b)) (List.replicate 16 0)
  aesEnc key (xorOctets c tail)

/-- The unwrapping rounds of KW from step `t` down to 1, over a register `a` and the `n` semiblocks `r`. -/
def kwRounds (key : List Octet) (n : Nat) : Nat → List Octet → List (List Octet) → List Octet × List (List Octet)
  | 0, a, r => (a, r)
  | t + 1, a, r =>
    let i := t % n
    let b := aesDec key (xorOctets a ((octetsLe 8 (t + 1)).reverse) ++ r.getD i [])
    kwRounds key n t (b.take 8) (r.set i (b.drop 8))

/-- AES KW unwrap of 40 octets: the 32 key octets, or nothing when the integrity check fails (R440, R641). -/
def kwUnwrap (key wrapped : List Octet) : Option (List Octet) :=
  if wrapped.length ≠ 40 then none
  else
    let x := kwRounds key 4 24 (wrapped.take 8) (pieces 8 4 (wrapped.drop 8))
    if x.1 = List.replicate 8 0xA6 then some x.2.flatten else none

/-! ### SHA-384 (FIPS 180-4) -/

/-- A word of SHA-384. -/
abbrev ShaWord := BitVec 64

/-- The round constants. -/
def shaK : List ShaWord :=
  [0x428a2f98d728ae22, 0x7137449123ef65cd, 0xb5c0fbcfec4d3b2f, 0xe9b5dba58189dbbc] ++
  [0x3956c25bf348b538, 0x59f111f1b605d019, 0x923f82a4af194f9b, 0xab1c5ed5da6d8118] ++
  [0xd807aa98a3030242, 0x12835b0145706fbe, 0x243185be4ee4b28c, 0x550c7dc3d5ffb4e2] ++
  [0x72be5d74f27b896f, 0x80deb1fe3b1696b1, 0x9bdc06a725c71235, 0xc19bf174cf692694] ++
  [0xe49b69c19ef14ad2, 0xefbe4786384f25e3, 0x0fc19dc68b8cd5b5, 0x240ca1cc77ac9c65] ++
  [0x2de92c6f592b0275, 0x4a7484aa6ea6e483, 0x5cb0a9dcbd41fbd4, 0x76f988da831153b5] ++
  [0x983e5152ee66dfab, 0xa831c66d2db43210, 0xb00327c898fb213f, 0xbf597fc7beef0ee4] ++
  [0xc6e00bf33da88fc2, 0xd5a79147930aa725, 0x06ca6351e003826f, 0x142929670a0e6e70] ++
  [0x27b70a8546d22ffc, 0x2e1b21385c26c926, 0x4d2c6dfc5ac42aed, 0x53380d139d95b3df] ++
  [0x650a73548baf63de, 0x766a0abb3c77b2a8, 0x81c2c92e47edaee6, 0x92722c851482353b] ++
  [0xa2bfe8a14cf10364, 0xa81a664bbc423001, 0xc24b8b70d0f89791, 0xc76c51a30654be30] ++
  [0xd192e819d6ef5218, 0xd69906245565a910, 0xf40e35855771202a, 0x106aa07032bbd1b8] ++
  [0x19a4c116b8d2d0c8, 0x1e376c085141ab53, 0x2748774cdf8eeb99, 0x34b0bcb5e19b48a8] ++
  [0x391c0cb3c5c95a63, 0x4ed8aa4ae3418acb, 0x5b9cca4f7763e373, 0x682e6ff3d6b2b8a3] ++
  [0x748f82ee5defb2fc, 0x78a5636f43172f60, 0x84c87814a1f0ab72, 0x8cc702081a6439ec] ++
  [0x90befffa23631e28, 0xa4506cebde82bde9, 0xbef9a3f7b2c67915, 0xc67178f2e372532b] ++
  [0xca273eceea26619c, 0xd186b8c721c0c207, 0xeada7dd6cde0eb1e, 0xf57d4f7fee6ed178] ++
  [0x06f067aa72176fba, 0x0a637dc5a2c898a6, 0x113f9804bef90dae, 0x1b710b35131c471b] ++
  [0x28db77f523047d84, 0x32caab7b40c72493, 0x3c9ebe0a15c9bebc, 0x431d67c49c100d4c] ++
  [0x4cc5d4becb3e42b6, 0x597f299cfc657e2a, 0x5fcb6fab3ad6faec, 0x6c44198c4a475817]

/-- The initial hash value. -/
def shaH : List ShaWord :=
  [0xcbbb9d5dc1059ed8, 0x629a292a367cd507, 0x9159015a3070dd17, 0x152fecd8f70e5939] ++
  [0x67332667ffc00b31, 0x8eb44a8768581511, 0xdb0c2e0d64f98fa7, 0x47b5481dbefa4fa4]

/-- Sixteen message words, and `n` more of the schedule after them, `w` being the last sixteen. -/
def shaSched : Nat → List ShaWord → List ShaWord
  | 0, _ => []
  | n + 1, w =>
    let a := w.getD 1 0
    let b := w.getD 14 0
    let s0 := a.rotateRight 1 ^^^ a.rotateRight 8 ^^^ (a >>> 7)
    let s1 := b.rotateRight 19 ^^^ b.rotateRight 61 ^^^ (b >>> 6)
    let x := w.getD 0 0 + s0 + w.getD 9 0 + s1
    x :: shaSched n (w.drop 1 ++ [x])

/-- One round on the eight working variables. -/
def shaRound (v : List ShaWord) (kw : ShaWord) : List ShaWord :=
  let a := v.getD 0 0
  let e := v.getD 4 0
  let s1 := e.rotateRight 14 ^^^ e.rotateRight 18 ^^^ e.rotateRight 41
  let ch := (e &&& v.getD 5 0) ^^^ (~~~e &&& v.getD 6 0)
  let t1 := v.getD 7 0 + s1 + ch + kw
  let s0 := a.rotateRight 28 ^^^ a.rotateRight 34 ^^^ a.rotateRight 39
  let mj := (a &&& v.getD 1 0) ^^^ (a &&& v.getD 2 0) ^^^ (v.getD 1 0 &&& v.getD 2 0)
  [t1 + s0 + mj, a, v.getD 1 0, v.getD 2 0, v.getD 3 0 + t1, e, v.getD 5 0, v.getD 6 0]

/-- One block of 128 octets. -/
def shaBlock (h : List ShaWord) (b : List Octet) : List ShaWord :=
  let m := (pieces 8 16 b).map (fun o => BitVec.ofNat 64 (o.foldl (fun (a : Nat) x => 256 * a + x.toNat) 0))
  let w := m ++ shaSched 64 m
  let v := (List.zipWith (· + ·) shaK w).foldl shaRound h
  List.zipWith (· + ·) h v

/-- SHA-384 of a list of octets. -/
def sha384 (msg : List Octet) : List Octet :=
  let z := (128 - (msg.length + 17) % 128) % 128
  let padded := msg ++ [0x80] ++ List.replicate z 0 ++ (octetsLe 16 (8 * msg.length)).reverse
  let h := (pieces 128 (padded.length / 128) padded).foldl shaBlock shaH
  (h.take 6).flatMap (fun w => (octetsLe 8 w.toNat).reverse)

/-! ### ECDSA on P-384 (FIPS 186) -/

/-- The field, the order, the coefficient b and the base point of P-384. -/
def p384P : Nat := 2 ^ 384 - 2 ^ 128 - 2 ^ 96 + 2 ^ 32 - 1
def p384N : Nat := 0xffffffffffffffffffffffffffffffffffffffffffffffffc7634d81f4372ddf581a0db248b0a77aecec196accc52973
def p384B : Nat := 0xb3312fa7e23ee7e4988e056be3f82d19181d9c6efe8141120314088f5013875ac656398d8a2ed19d2a85c8edd3ec2aef
def p384G : Nat × Nat :=
  (0xaa87ca22be8b05378eb1c71ef320ad746e1d3b628ba79b9859f741e082542a385502f25dbf55296c3a545e3872760ab7,
   0x3617de4a96262c6f5d9e98bf9292dc29f8f41dbd289a147ce9da3113b5f0b8c00a60b1ce1d7e819d7a431d7c90ea0e5f)

/-- `b ^ e` modulo `m`, over `k` bits of the exponent. -/
def powMod (m : Nat) : Nat → Nat → Nat → Nat
  | 0, _, _ => 1
  | k + 1, b, e => (if e % 2 = 1 then b else 1) * powMod m k (b * b % m) (e / 2) % m

/-- The inverse modulo a prime. -/
def invMod (m a : Nat) : Nat := powMod m 384 (a % m) (m - 2)

/-- The line of slope `l` through two points: their sum. -/
def ecLine (l : Nat) (a b : Nat × Nat) : Nat × Nat :=
  let p := p384P
  let x := (l * l + 2 * p - a.1 - b.1) % p
  (x, (l * (a.1 + p - x) + p - a.2) % p)

/-- The sum of two points; none is the point at infinity. -/
def ecAdd (a b : Option (Nat × Nat)) : Option (Nat × Nat) :=
  let p := p384P
  match a, b with
  | none, q => q
  | q, none => q
  | some u, some v =>
    if u.1 = v.1 then
      if (u.2 + v.2) % p = 0 then none
      else some (ecLine ((3 * u.1 * u.1 + p - 3) * invMod p (2 * u.2) % p) u v)
    else some (ecLine ((v.2 + p - u.2) * invMod p (v.1 + p - u.1) % p) u v)

/-- A multiple of a point, over `k` bits. -/
def ecMul : Nat → Nat → Option (Nat × Nat) → Option (Nat × Nat)
  | 0, _, _ => none
  | k + 1, n, q => ecAdd (if n % 2 = 1 then q else none) (ecMul k (n / 2) (ecAdd q q))

/-- The number that big-endian octets spell. -/
def beNat (os : List Octet) : Nat := os.foldl (fun (a : Nat) o => 256 * a + o.toNat) 0

/-- An ECDSA P-384 signature `sig` (r then s) with SHA-384 over `msg` verifies under public key `pub` (X then Y). -/
def ecdsaOk (pub sig msg : List Octet) : Bool :=
  let p := p384P
  let n := p384N
  let x := beNat (pub.take 48)
  let y := beNat ((pub.drop 48).take 48)
  let r := beNat (sig.take 48)
  let s := beNat ((sig.drop 48).take 48)
  let onCurve := decide (x < p) && decide (y < p) && decide (y * y % p = (x * x * x + (p - 3) * x + p384B) % p)
  if !onCurve || decide (r = 0) || decide (n ≤ r) || decide (s = 0) || decide (n ≤ s) then false
  else
    let w := invMod n s
    let e := beNat (sha384 msg)
    match ecAdd (ecMul 384 (e * w % n) (some p384G)) (ecMul 384 (r * w % n) (some (x, y))) with
    | some q => decide (q.1 % n = r)
    | none => false

end Sys2Proof.Machine
end

