-- ==== Sys2Proof/Machine/DramMap.lean ====
section
/-!
DEFINITION. Where a slot lives (R553), the error counters of the DRAM channels (R571, R572, R574, R576), poisoned lines and
offlined channels as consumers meet them (R64, R566, R660), the queues of a channel (R554 to R560), and accesses by agents at the slice.
-/

namespace Sys2Proof.Machine

open Sys2Proof

/-- DRAM channel `c`. -/
def State.chan (s : State) (c : Nat) : Chan := tget {} s.dmc.chans c

/-- Write channel `c`. -/
def State.setChan (s : State) (c : Nat) (x : Chan) : State := { s with dmc := { s.dmc with chans := tset {} s.dmc.chans c x } }

/-- Change channel `c`. -/
def State.modChan (s : State) (c : Nat) (f : Chan → Chan) : State := s.setChan c (f (s.chan c))

/-- The active channels in ascending order (R553). -/
def State.activeChans (s : State) : List Nat := (List.range 16).filter (fun c => (s.chan c).active)

/-- The channel of line `l` (R553). -/
def State.chanOf (s : State) (l : Nat) : Nat := s.activeChans.getD (l % s.activeChans.length) 0

/-- The place of a slot within its channel (R553). -/
structure SlotPlace where
  chan  : Nat
  bg    : Nat
  burst : Nat
  rank  : Nat
  row   : Nat
  ba    : Nat
  bank  : Nat
deriving DecidableEq, Repr

/-- The procedure of R553. -/
def State.place (s : State) (l : Nat) : SlotPlace :=
  let n := s.activeChans.length
  let c := s.chanOf l
  let g := max 1 (s.chan c).ranks
  let q := l / n
  let bg := q % 4
  let rank := (q / 512) % g
  let row := q / (512 * g)
  let ba := ((q / 128) % 4) ^^^ (row % 4)
  ⟨c, bg, (q / 4) % 32, rank, row, ba, 16 * rank + 4 * bg + ba⟩

/-! ### The bits of a slot (R63) -/

/-- Slot bits [431:0]: the words of a line, word w at bit 36w. -/
def slotWords : List MWord → Nat
  | [] => 0
  | w :: ws => w.data.toNat + 2 ^ 36 * slotWords ws

/-- Slot bits [443:432]: the tags, that of word w at bit w of them. -/
def slotTags : List MWord → Nat
  | [] => 0
  | w :: ws => b2n w.tag + 2 * slotTags ws

/-- The slot of the twelve words of a line: words, tags, spare bits zero, check bits. -/
def lineSlot (ws : List MWord) : Nat :=
  let d := slotWords ws + 2 ^ 432 * slotTags ws
  d + 2 ^ 448 * (Config.slotCheck d).toNat

/-- The twelve words that a slot holds; the spare bits are ignored. -/
def slotLine (n : Nat) : List MWord := (List.range 12).map (fun w => ⟨word (n / 2 ^ (36 * w)), n.testBit (432 + w)⟩)

/-- Octet `j` of a slot: slot bits [8j+7:8j]. -/
def slotOctet (n j : Nat) : Octet := BitVec.ofNat 8 (n / 2 ^ (8 * j))

/-- Beat `i` of the burst that carries a slot: octet 2i on DQ[7:0], octet 2i + 1 on DQ[15:8] (R553). -/
def slotBeat (n i : Nat) : BitVec 16 := slotOctet n (2 * i + 1) ++ slotOctet n (2 * i)

/-- The twelve words of line `l` as DRAM holds them: beneath a scratch bank whose range covers it (R383), else the home of the line. -/
def Mem.dramLine (m : Mem) (l : Nat) : List MWord :=
  match m.scBank.find? (fun e => e.2.live && decide (e.2.range = l / 32768)) with
  | some e => (List.range 12).map (fun i => tget {} e.2.snap (12 * l + i))
  | none => (m.home l).words

/-- The slot of line `l` (R63, R65). -/
def State.slot (s : State) (l : Nat) : Nat := lineSlot (s.mem.dramLine l)

/-- Count one in a counter with maximum `m`; the second part says whether it saturates now (R690). -/
def bump (m v : Nat) : Nat × Bool := (satInc m v, decide (v + 1 = m))

/-- One more uncorrectable read on channel `c` (R576). -/
def State.chanUncorr (s : State) (c : Nat) : State :=
  let r := bump 511 (s.chan c).uncorr
  let s1 := s.modChan c (fun x => { x with uncorr := r.1 })
  let s2 := if r.2 then s1.raise (336 + 4 * c) else s1
  s2.raise (337 + 4 * c)

/-- One more read of a slot stored poisoned on channel `c` (R572, R576). -/
def State.chanPoison (s : State) (c : Nat) : State :=
  let r := bump 511 (s.chan c).poisonrd
  let s1 := s.modChan c (fun x => { x with poisonrd := r.1 })
  let s2 := if r.2 then s1.raise (336 + 4 * c) else s1
  s2.raise (337 + 4 * c)

/-- One more corrected read on channel `c` (R576). -/
def State.chanCorr (s : State) (c : Nat) : State :=
  let r := bump 511 (s.chan c).corr
  let s1 := s.modChan c (fun x => { x with corr := r.1 })
  if r.2 then s1.raise (336 + 4 * c) else s1

/-- One more link ECC correction on channel `c` (R574). -/
def State.chanLink (s : State) (c : Nat) : State :=
  let r := bump 511 (s.chan c).link
  let s1 := s.modChan c (fun x => { x with link := r.1 })
  if r.2 then s1.raise (336 + 4 * c) else s1

/-- Whether line `l` is in a cache or a scratch bank, so that a read does not reach DRAM. -/
def Mem.cached (m : Mem) (l : Nat) : Bool := m.inScratch l || m.held l

/-- Line `l` as a consumer would meet it is bad: it is poisoned, or it comes from an offlined channel (R64, R566). -/
def State.bad (s : State) (l : Nat) : Bool := s.mem.poisoned l || (s.mem.isGone l && !(s.mem.cached l))

/-! ### Activates and neighbour refreshes (R563) -/

/-- The LK fields of channel `c` (R576). -/
def State.dmcLk (s : State) (c : Nat) : DmcLk := tget {} s.lk.dmc c

/-- Rows of a bank (R552, R553). -/
def Chan.rows (x : Chan) : Nat := 2 ^ (15 + x.density)

/-- Slots of a channel (R552). -/
def Chan.slots (x : Chan) : Nat := 2 ^ (24 + x.density) * x.ranks

/-- A neighbour refresh of row `r` of bank `b` is scheduled; a fifth replaces the oldest pending one. -/
def State.rhSchedule (s : State) (c b r : Nat) : State :=
  let l := tget [] (s.chan c).neigh b
  if l.length < 4 then s.modChan c (fun x => { x with neigh := tset [] x.neigh b (l ++ [r]) })
  else
    let d := bump 511 (s.chan c).rhdrop
    let s1 := s.modChan c (fun x => { x with neigh := tset [] x.neigh b (l.drop 1 ++ [r]), rhdrop := d.1 })
    if d.2 then s1.raise (336 + 4 * c) else s1

/-- An activate of row `r` of bank `b` draws from the 32-bit generator of its channel: with probability 2^-K a neighbour refresh.
The generator's next number is a free value (log entry 5). -/
def State.rhDraw (s : State) (c b r : Nat) : State :=
  let k := s.dmcLk c
  if !k.rhEn then s
  else
    let d := s.draw (2 ^ 32)
    let s1 := d.2.modChan c (fun x => { x with seed := d.1 })
    if d.1 % 2 ^ k.rhK = 0 then s1.rhSchedule c b r else s1

/-- The oldest pending neighbour refresh of bank `b` is performed: rows r - 1 and r + 1 are activated and precharged. -/
def State.rhPerform (s : State) (c b : Nat) : State :=
  match tget [] (s.chan c).neigh b with
  | [] => s
  | r :: rest =>
    let d := bump (2 ^ 18 - 1) (s.chan c).rhref
    let s1 := s.modChan c (fun x => { x with neigh := tset [] x.neigh b rest, rhref := d.1, openRow := tset none x.openRow b none })
    let s2 := if d.2 then s1.raise (336 + 4 * c) else s1
    let s3 := if r = 0 then s2 else s2.rhDraw c b (r - 1)
    if r + 1 < (s.chan c).rows then s3.rhDraw c b (r + 1) else s3

/-- Row `r` of bank `b` is open in channel `c`: it is activated unless it is, after the pending neighbour refreshes of the bank and a
refresh that it has postponed eight times (R556, R562, R563). -/
def State.dramOpen (s : State) (c b r : Nat) : State :=
  if tget none (s.chan c).openRow b = some r then s
  else
    let s1 := (List.range (tget [] (s.chan c).neigh b).length).foldl (fun (s : State) _ => s.rhPerform c b) s
    let s2 := s1.modChan c (fun x => { x with
      postponed := if tget 0 x.postponed b = 8 then tset 0 x.postponed b 0 else x.postponed
      openRow := tset none x.openRow b (some r) })
    s2.rhDraw c b r

/-! ### The queues of a channel (R554 to R560) -/

/-- The queued writes of channel `c` that are eligible, oldest first: those with no earlier write of their slice on a part with eight
active channels or fewer (R558), of their bank otherwise (R559). -/
def State.eligibleWrites (s : State) (c : Nat) : List Nat :=
  let q := (s.chan c).wq
  let before := fun (x l : Nat) => if s.activeChans.length ≤ 8 then decide (sliceOf x = sliceOf l) else decide ((s.place x).bank = (s.place l).bank)
  (q.zipIdx.filter (fun e => !((q.take e.2).any (fun x => before x e.1)))).map (·.1)

/-- The write that channel `c` serves next: the oldest one when a drain was forced by its age (R555), else that of the first bank after
the token that has an eligible one (R556). -/
def State.nextWrite (s : State) (c : Nat) : Option Nat :=
  let x := s.chan c
  if x.aged then x.wq.head?
  else
    let e := s.eligibleWrites c
    (List.range 32).findSome? (fun d => e.find? (fun l => decide ((s.place l).bank = (x.token + 1 + d) % 32)))

/-- Queued write `l` of channel `c` is performed, and drain mode ends at WM_LO or after 128 writes (R555, R556). -/
def State.performWrite (s : State) (c l : Nat) : State :=
  let p := s.place l
  (s.dramOpen c p.bank p.row).modChan c (fun x =>
    let q := x.wq.erase l
    { x with
      wq := q
      token := p.bank
      drained := x.drained + 1
      aged := x.aged && decide (x.wq.head? ≠ some l)
      drain := x.drain && !(decide (q.length ≤ (s.dmcLk c).wmLo) || decide (128 ≤ x.drained + 1)) })

/-- Channel `c` serves one write, if one is eligible. -/
def State.chanServe (s : State) (c : Nat) : State :=
  match s.nextWrite c with
  | some l => s.performWrite c l
  | none => s

/-- Channel `c` serves writes while `p` asks for it, `n` of them at the most. -/
def State.serveWhile (p : Chan → Bool) (c : Nat) : Nat → State → State
  | 0, s => s
  | n + 1, s => if p (s.chan c) then State.serveWhile p c n (s.chanServe c) else s

/-- Channel `c` serves every queued write. -/
def State.serveAll (s : State) (c : Nat) : State := State.serveWhile (fun x => !x.wq.isEmpty) c (s.chan c).wq.length s

/-- Drain mode begins (R555). -/
def Chan.startDrain (x : Chan) : Chan := if x.drain then x else { x with drain := true, drained := 0 }

/-- The mode of a channel by its watermarks, as they stand (R555): at WM_HI it drains, at WM_LO a drain ends. -/
def Chan.atMarks (k : DmcLk) (x : Chan) : Chan :=
  if k.wmHi ≤ x.wq.length then x.startDrain
  else if x.wq.length ≤ k.wmLo then { x with drain := false }
  else x

/-- A write of line `l` reaches its channel, which has room first (R554), and waits in its queue; at WM_HI the channel drains (R555). A
write back of the slot that still waits is dropped (R571). -/
def State.dramWrite (s : State) (l : Nat) : State :=
  let c := s.chanOf l
  let s1 := State.serveWhile (fun x => decide (64 ≤ x.wq.length)) c 64 s
  s1.modChan c (fun x =>
    let y := { x with wq := x.wq ++ [l], wback := x.wback.erase l }
    if (s.dmcLk c).wmHi ≤ y.wq.length then y.startDrain else y)

/-- Bank `b` of channel `c` serves its writes in arrival order until none of row `r` is queued (R559). -/
def State.inOrder (s : State) (c b r : Nat) : Nat → State
  | 0 => s
  | n + 1 =>
    if (s.chan c).wq.any (fun x => decide ((s.place x).bank = b) && decide ((s.place x).row = r)) then
      match (s.chan c).wq.find? (fun x => decide ((s.place x).bank = b)) with
      | some x => (s.performWrite c x).inOrder c b r n
      | none => s
    else s

/-- A read of line `l` reaches its channel and is performed: after the writes that come before it (R558, R559), and after a drain in
progress (R555). -/
def State.dramRead (s : State) (l : Nat) : State :=
  let p := s.place l
  let c := p.chan
  let n := (s.chan c).wq.length
  let s1 := if s.activeChans.length ≤ 8 then State.serveWhile (fun x => x.wq.any (fun w => decide (sliceOf w = sliceOf l))) c n s
    else s.inOrder c p.bank p.row n
  let s2 := State.serveWhile (fun x => x.drain) c n s1
  (s2.dramOpen c p.bank p.row).modChan c (fun x => { x with token := p.bank })

/-- One service slot of every running channel: with no read queued, a write is served in either mode (R555). -/
def State.dramTick (s : State) : State := s.each (s.activeChans.filter (fun c => decide ((s.chan c).st = .running))) State.chanServe

/-! ### What an access of memory leaves to be counted and recorded -/

/-- A note is counted and recorded (R64, R363, R369, R370, R566, R571 to R574); `who` is the context concerned. The reads and writes of
DRAM are performed. -/
def State.noteOne (s : State) (who : Option Nat) (n : MemNote) : State :=
  let at_ := fun (l : Nat) => some (48 * l)
  match n with
  | .read l => s.dramRead l
  | .write l => s.dramWrite l
  | .l1 k l => s.record 2 0 (k / 8) none none (at_ l) 0
  | .l2Corrected cl l => s.record 2 0 cl none none (at_ l) 1
  | .l2Lost cl l => s.record 3 1 cl who none (at_ l) 0
  | .sysCorrected u l => s.record 2 0 u none none (at_ l) 2
  | .sysLost u l => s.record 1 1 u who none (at_ l) 0
  | .dramCorrected l y =>
    let c := s.chanOf l
    let s1 := (s.chanCorr c).modChan c (fun x => { x with wback := if x.wback.contains l then x.wback else x.wback ++ [l] })
    s1.record 0 0 (unitDmc c) none none (at_ l) (y % 64)
  | .dramLost l => (s.chanUncorr (s.chanOf l)).record 1 1 (unitDmc (s.chanOf l)) who none (at_ l) 0
  | .poisonRead l => (s.chanPoison (s.chanOf l)).record 1 1 (unitDmc (s.chanOf l)) who none (at_ l) 1
  | .gone l => s.record 1 1 (unitDmc (s.chanOf l)) who none (at_ l) 2
  | .link l => s.chanLink (s.chanOf l)

/-- A note tells of line `l` met lost or poisoned. -/
def MemNote.loses (n : MemNote) (l : Nat) : Bool :=
  match n with
  | .l2Lost _ x => decide (x = l)
  | .sysLost _ x => decide (x = l)
  | .dramLost x => decide (x = l)
  | .poisonRead x => decide (x = l)
  | .gone x => decide (x = l)
  | _ => false

/-- Every note that waits is processed: the SEQ of the record that tells of line `l` lost, and the state after. -/
def State.noteRound (s : State) (who : Option Nat) (l : Nat) : Option Nat × State :=
  s.mem.notes.foldl (fun (r : Option Nat × State) n =>
    let s1 := r.2.noteOne who n
    (if n.loses l then some s1.lastSeq else r.1, s1)) (none, { s with mem := { s.mem with notes := [] } })

/-- The notes that wait, and those that the records of these leave in turn. -/
def State.noteAll (s : State) (who : Option Nat) (l : Nat) : Option Nat × State :=
  let r := s.noteRound who l
  (r.1, (List.range 4).foldl (fun (s : State) _ => (s.noteRound none l).2) r.2)

/-- An operation on the memory and the caches. -/
def State.onMem (s : State) (f : Mem → Mem) : State := (({ s with mem := f s.mem }).noteAll none 0).2

/-- An access of line `l`, for context `who` when it is one: when the line is poisoned, the SEQ of the error record that tells of it, made
by the access that found it or by its consumer (R64, R566, R572, R660). -/
def State.access (s : State) (who : Option Nat) (unit l pa : Nat) (f : Mem → Mem) : Option Nat × State :=
  let r := ({ s with mem := f s.mem }).noteAll who l
  if !(r.2.mem.poisoned l) then (none, r.2)
  else match r.1 with
    | some q => (some q, { r.2 with ras := { r.2.ras with own := q } })
    | none =>
      let s1 := r.2.record 1 1 unit who none (some pa) 1
      (some s1.lastSeq, s1)

/-- Context `n` as it asks for lines (R379, R655). -/
def State.asker (s : State) (n : Nat) : Asker := ⟨(s.ctx n).pclass, cluOf n⟩

/-- The words of one line among a run of words from word number `w`: their offsets, and the rest of the run. -/
def lineRun (w : Nat) (ws : List Word) : List (Nat × Word) × List Word :=
  let k := 12 - w % 12
  (((ws.take k).zipIdx).map (fun e => (w % 12 + e.2, e.1)), ws.drop k)

/-- An agent of class `i` writes the run of untagged words `ws` from word number `w` at the slices, line by line (R368, R59);
a line outside populated DRAM gets the error response of R30. -/
def State.agentWrite (s : State) (i unit : Nat) : Nat → Nat → List Word → State
  | 0, _, _ => s
  | k + 1, w, ws =>
    if ws.isEmpty then s
    else
      let r := lineRun w ws
      let l := w / 12
      let s1 :=
        if s.popLines ≤ l then s.record 5 1 unit none none (some (48 * l)) 0
        else s.onMem (fun m => m.sliceWriteData ⟨i, unit⟩ l r.1)
      s1.agentWrite i unit k (12 * (l + 1)) r.2

/-- Write a run of words (R368). -/
def State.writeRun (s : State) (i unit w : Nat) (ws : List Word) : State := s.agentWrite i unit (ws.length + 1) w ws

/-- An agent reads line `l` at the slice (R368): its twelve words, or nothing when the read gets an error response or a
poisoned line, with the error record. -/
def State.agentRead (s : State) (i unit l : Nat) : Option (List Word) × State :=
  if s.popLines ≤ l then (none, s.record 5 1 unit none none (some (48 * l)) 0)
  else
    let r := s.access none unit l (48 * l) (fun m => m.sliceRead ⟨i, unit⟩ l)
    match r.1 with
    | some _ => (none, r.2)
    | none => (some ((r.2.mem.line l).map (·.data)), r.2)

end Sys2Proof.Machine
end

