-- ==== Sys2Proof/Machine/Port.lean ====
section
/-!
DEFINITION. Functions and ports: which functions exist (R526, R527), when a function may send (R539, R540, R543), MSI-X (R534
to R536), the counters of HPC_CNT, and the owner configuration as the units read it (R643).
-/

namespace Sys2Proof.Machine

open Sys2Proof

/-! ### Owner configuration -/

/-- `n` little-endian octets of the owner configuration at `off`; zero when there is none (R643). -/
def State.ownerNat (s : State) (off n : Nat) : Nat :=
  match s.bsu.flash.owner with
  | some os => leNat ((os.drop off).take n)
  | none => 0

/-! ### Functions and ports -/

/-- Function (tenant) `t`. -/
def State.fn (s : State) (t : Nat) : Fn := tget {} s.fns t

/-- Write function `t`. -/
def State.setFn (s : State) (t : Nat) (f : Fn) : State := { s with fns := tset {} s.fns t f }

/-- Change function `t`. -/
def State.modFn (s : State) (t : Nat) (f : Fn → Fn) : State := s.setFn t (f (s.fn t))

/-- Port `p`. -/
def State.port (s : State) (p : Nat) : Port := tget {} s.ports p

/-- Write port `p`. -/
def State.setPort (s : State) (p : Nat) (x : Port) : State := { s with ports := tset {} s.ports p x }

/-- Change port `p`. -/
def State.modPort (s : State) (p : Nat) (f : Port → Port) : State := s.setPort p (f (s.port p))

/-- The port of tenant `t` (R526). -/
def portOf (t : Nat) : Nat := t / 1024

/-- The physical function of the port of tenant `t` (R526). -/
def pfOf (t : Nat) : Nat := 1024 * (t / 1024)

/-- Whether port `p` is present (R1). -/
def State.portPresent (s : State) (p : Nat) : Bool := decide (p < Config.ports s.hw.variant)

/-- The two ports of a merged pair, or the port alone (R522, R523). -/
def State.linkPorts (s : State) (p : Nat) : List Nat := if (s.port p).merged then [2 * (p / 2), 2 * (p / 2) + 1] else [p]

/-- Function 0 of the link of port `p` (R529). -/
def State.linkFn0 (s : State) (p : Nat) : Nat := 1024 * (if (s.port p).merged then 2 * (p / 2) else p)

/-- Whether tenant `t` has a function (R527). -/
def State.fnExists (s : State) (t : Nat) : Bool :=
  s.tenantExists t && s.portPresent (portOf t) &&
    (decide (t % 1024 = 0) || ((s.fn (pfOf t)).vfEn && decide (t % 1024 ≤ (s.fn (pfOf t)).numVfs)))

/-- A function at its configuration reset values (R525, R528, R532, R534, R541). -/
def State.fnReset (s : State) (t : Nat) : Fn :=
  if t % 1024 = 0 then { barSize := s.ownerNat 5 1, vfBarSize := s.ownerNat 5 1 } else {}

/-- The size of the aperture of function `t` in octets (R532). -/
def State.apertureSize (s : State) (t : Nat) : Nat :=
  2 ^ 20 * 2 ^ (if t % 1024 = 0 then (s.fn t).barSize else (s.fn (pfOf t)).vfBarSize)

/-- Entries of the MSI-X table of function `t` (R534). -/
def msixSize (t : Nat) : Nat := if t % 1024 = 0 then 2048 else 64

/-- Whether the function may issue requests: it exists, Bus Master Enable is set and it is in D0 (R539, R540). -/
def State.fnSends (s : State) (t : Nat) : Bool := s.fnExists t && (s.fn t).bme && !(s.fn t).d3

/-- A TLP in either direction brings the link of port `p` back from L1 to L0 (R524). -/
def State.linkTlp (s : State) (p : Nat) : State :=
  s.each (s.linkPorts p) (fun s q => if (s.port q).lpower = .l1 then s.modPort q (fun x => { x with lpower := .l0 }) else s)

/-! ### HPC counters -/

/-- HPC_CNT counters of port `p` (R549). -/
def State.cntLate (s : State) (p : Nat) : State := s.modPort p (fun x => { x with latecpl := satInc 511 x.latecpl })
def State.cntUr (s : State) (p : Nat) : State := s.modPort p (fun x => { x with ur := satInc 511 x.ur })
def State.cntRecdrop (s : State) (p : Nat) : State := s.modPort p (fun x => { x with recdrop := satInc 511 x.recdrop })
def State.cntFreeze (s : State) (p : Nat) : State := s.modPort p (fun x => { x with freezes := satInc 511 x.freezes })

/-- Bits of the AER uncorrectable error status (R542): Completion Timeout, Unexpected Completion, Unsupported Request, and the freezing
errors by the bit of HPC_FRZ.CAUSE (log entry 69). -/
def aerTimeout : Nat := 14
def aerUnexpected : Nat := 16
def aerUr : Nat := 20
def aerOfCause : Nat → Nat
  | 1 => 4
  | 2 => 13
  | 3 => 17
  | 4 => 18
  | 5 => 12
  | _ => 22

/-- Bit `b` of the AER uncorrectable error status of function `t` sets, of its physical function where `t` has none (R527), and source
321 + 4p is raised (R542, R548). -/
def State.aerLog (s : State) (t b : Nat) : State :=
  (s.modFn (if s.fnExists t then t else pfOf t) (fun f => { f with aerUnc := putBit f.aerUnc b true })).raise (321 + 4 * portOf t)

/-- An uncorrectable AER error of function `t` is logged, with a record of class 6 (R542, R548, R657). -/
def State.aerError (s : State) (t b : Nat) : State :=
  (s.aerLog t b).record 6 1 (unitHpc (portOf t)) none none none ((s.port (portOf t)).cause)

/-- A request to function `t` that is not supported (R533, R540, R542, R549): an AER error; a read also gets an Unsupported Request
completion, which HPC_CNT.UR counts. While the link is down no request arrives. -/
def State.urWrite (s : State) (t : Nat) : State := if (s.port (portOf t)).linkUp then s.aerError t aerUr else s
def State.urRead (s : State) (t : Nat) : State := if (s.port (portOf t)).linkUp then (s.cntUr (portOf t)).aerError t aerUr else s

/-! ### MSI-X -/

/-- MSI-X entry `v` of a function (R534). -/
def Fn.vec (f : Fn) (v : Nat) : Msix := tget {} f.msix v

/-- A function with MSI-X entry `v` written. -/
def Fn.setVec (f : Fn) (v : Nat) (m : Msix) : Fn := { f with msix := tset {} f.msix v m }

/-- A masking condition of the second row of R535 holds. -/
def State.msixHeld (s : State) (t v : Nat) : Bool :=
  let f := s.fn t
  f.fmask || (f.vec v).mask || !f.bme || f.d3 || (s.port (portOf t)).frozen

/-- The message itself (R536). -/
def State.msixSend (s : State) (t v : Nat) : State :=
  let m := (s.fn t).vec v
  ((s.modFn t (fun f => f.setVec v { m with pend := false })).linkTlp (portOf t)).emit (.msix t v (m.addrHi * 2 ^ 32 + m.addrLo) m.data)

/-- A message of vector `v` falls due (R535). -/
def State.msixDue (s : State) (t v : Nat) : State :=
  if !(s.fn t).msixEn then s
  else if s.msixHeld t v then s.modFn t (fun f => f.setVec v { f.vec v with pend := true })
  else s.msixSend t v

/-- A pending message is sent once nothing masks it (R535). -/
def State.msixFlush (s : State) (t v : Nat) : State :=
  if ((s.fn t).vec v).pend && (s.fn t).msixEn && s.fnExists t && !(s.msixHeld t v) then s.msixSend t v else s

/-- Every pending message of a function that nothing masks is sent. -/
def State.msixFlushAll (s : State) (t : Nat) : State := s.each (tkeys (s.fn t).msix) (fun s v => s.msixFlush t v)

def execMsixPendingSend (tenant vector : Nat) (s : State) : Res := .next (s.msixFlush tenant vector)

end Sys2Proof.Machine
end

