-- ==== Sys2Proof/Machine/Rings.lean ====
section
/-!
DEFINITION. Submission and completion rings: records (R418 to R424), reservations (R427), indices (R430), the ring lease
(R429), the fetch arbitration (R580) and the stop of a ring (R426).
-/

namespace Sys2Proof.Machine

open Sys2Proof

/-! ### Counters of RNG (R441) -/

/-- RNG_ERR and RNG_APCNT fields; each that saturates raises source 256. -/
def State.rngBadidx (s : State) : State :=
  let r := bump 511 s.rng.badidx
  let s1 := { s with rng := { s.rng with badidx := r.1 } }
  if r.2 then s1.raise 256 else s1
def State.rngStopCnt (s : State) : State :=
  let r := bump 511 s.rng.stop
  let s1 := { s with rng := { s.rng with stop := r.1 } }
  if r.2 then s1.raise 256 else s1
def State.rngAuth (s : State) : State :=
  let r := bump 511 s.rng.auth
  let s1 := { s with rng := { s.rng with auth := r.1 } }
  if r.2 then s1.raise 256 else s1
def State.rngReplay (s : State) : State :=
  let r := bump 511 s.rng.replay
  let s1 := { s with rng := { s.rng with replay := r.1 } }
  if r.2 then s1.raise 256 else s1
def State.rngDrop (s : State) : State :=
  let r := bump 511 s.rng.drop
  let s1 := { s with rng := { s.rng with drop := r.1 } }
  if r.2 then s1.raise 256 else s1
def State.rngCrit (s : State) : State :=
  let r := bump 511 s.rng.crit
  let s1 := { s with rng := { s.rng with crit := r.1 } }
  if r.2 then s1.raise 256 else s1
def State.rngSplit (s : State) : State :=
  let r := bump 511 s.rng.split
  let s1 := { s with rng := { s.rng with split := r.1 } }
  if r.2 then s1.raise 256 else s1
def State.rngCdrop (s : State) : State :=
  let r := bump 511 s.rng.cdrop
  let s1 := { s with rng := { s.rng with cdrop := r.1 } }
  if r.2 then s1.raise 256 else s1

/-! ### The rings of a function -/

/-- The rings of tenant `t`. -/
def State.rings (s : State) (t : Nat) : Rings := tget {} s.rng.fns t

/-- Write the rings of tenant `t`. -/
def State.setRings (s : State) (t : Nat) (r : Rings) : State := { s with rng := { s.rng with fns := tset {} s.rng.fns t r } }

/-- Change the rings of tenant `t`. -/
def State.modRings (s : State) (t : Nat) (f : Rings → Rings) : State := s.setRings t (f (s.rings t))

/-- The reset configuration of a submission ring (R431). -/
def sqReset : RingCfg := { weight := 1 }

/-- The configuration of ring `n`: 0 to 3 submission, 4 to 7 completion (R431). -/
def Rings.cfg (r : Rings) (n : Nat) : RingCfg := if n < 4 then tget sqReset r.sq n else tget {} r.cqc (n - 4)

/-- Write the configuration of ring `n`. -/
def Rings.setCfg (r : Rings) (n : Nat) (c : RingCfg) : Rings :=
  if n < 4 then { r with sq := tset sqReset r.sq n c } else { r with cqc := tset {} r.cqc (n - 4) c }

/-- Free-running 32-bit indices (R425). -/
def idx32 : Nat := 2 ^ 32

/-- The distance from index `a` to index `b`. -/
def idxDist (a b : Nat) : Nat := (b + idx32 - a) % idx32

/-- The completion ring `c` has an unreserved slot (R427). -/
def Rings.hasRoom (r : Rings) (c : Nat) : Bool :=
  (r.cfg (4 + c)).en && decide (idxDist (tget 0 r.cqHead c) (tget 0 r.written c) + tget 0 r.reserved c < 2 ^ (r.cfg (4 + c)).size)

/-- One slot of completion ring `c` is reserved. -/
def Rings.reserve (r : Rings) (c : Nat) : Rings := { r with reserved := tset 0 r.reserved c (tget 0 r.reserved c + 1) }

/-- One reservation of completion ring `c` is freed. -/
def Rings.unreserve (r : Rings) (c : Nat) : Rings := { r with reserved := tset 0 r.reserved c (tget 0 r.reserved c - 1) }

/-- The records of submission ring `n` (4: of the aperture) that are not yet written, in ring order (R422). -/
def Rings.slots (r : Rings) (n : Nat) : List RecSlot := tget [] r.order n

/-- Write the unwritten records of a submission ring. -/
def Rings.setSlots (r : Rings) (n : Nat) (l : List RecSlot) : Rings := { r with order := tset [] r.order n l }

/-- The host address of slot `i` of a ring with `octets` octets a slot (R425). -/
def RingCfg.slotAddr (c : RingCfg) (i octets : Nat) : Nat := c.hi * 2 ^ 32 + c.lo + octets * (i % 2 ^ c.size)

/-! ### Writing records (R418, R423, R424) -/

/-- Write one record into completion ring `c` of tenant `t`: PHASE, the next slot at BASE + 16 times its number, the written count, and the reservation it
uses; then the message of the ring when `msg` says so. -/
def State.putRecord (s : State) (t c : Nat) (os : List Octet) (msg : Bool) : State :=
  let r := s.rings t
  let cf := r.cfg (4 + c)
  let w := tget 0 r.written c
  let phase := if (w / 2 ^ cf.size) % 2 = 0 then 0x80 else 0
  let full := (os.take 15) ++ [BitVec.ofNat 8 ((os.getD 15 0).toNat % 128 + phase)]
  let s1 := s.setRings t ({ r with written := tset 0 r.written c ((w + 1) % idx32) }.unreserve c)
  let s2 := (s1.linkTlp (portOf t)).emit (.record t c (cf.slotAddr w 16) full)
  if msg then s2.msixDue t cf.vector else s2

/-- A record that falls due is written, or held while the port is frozen, up to 1,024 (R544). -/
def State.postRecord (s : State) (t c : Nat) (os : List Octet) (msg : Bool) : State :=
  let p := portOf t
  if (s.port p).frozen then
    if (s.port p).hold.length < 1024 then s.modPort p (fun x => { x with hold := x.hold ++ [(t, c, os, msg)] })
    else (s.modRings t (fun r => r.unreserve c)).cntRecdrop p
  else s.putRecord t c os msg

/-- Write the records of submission ring `n` of tenant `t` that are ready, in ring order (R422); records of a function that
may not send wait in their reservations (R539). -/
def State.drainRing (s : State) (t n : Nat) : Nat → State
  | 0 => s
  | k + 1 =>
    match (s.rings t).slots n with
    | [] => s
    | e :: rest =>
      match e.rec_ with
      | none => s
      | some none => ((s.modRings t (fun r => r.setSlots n rest))).drainRing t n k
      | some (some (os, msg)) =>
        if !(s.port (portOf t)).frozen && !(s.fnSends t) then s
        else ((s.modRings t (fun r => r.setSlots n rest)).postRecord t e.cq os msg).drainRing t n k

/-- Write what can be written of every submission ring and of the aperture of tenant `t`. -/
def State.drainFn (s : State) (t : Nat) : State :=
  s.each [0, 1, 2, 3, 4] (fun s n => s.drainRing t n (((s.rings t).slots n).length))

/-! ### Carriage header fields (R409) -/

/-- `n` little-endian octets of a header at `off`. -/
def hNat (h : List Octet) (off n : Nat) : Nat := leNat ((h.drop off).take n)

/-- OPCODE, FLAGS, SLOTS, LENGTH, MODE and SEQ (R409). -/
def hOpcode (h : List Octet) : Nat := hNat h 0 1
def hFlags (h : List Octet) : Nat := hNat h 1 1
def hSlots (h : List Octet) : Nat := hNat h 2 2
def hLength (h : List Octet) : Nat := hNat h 4 2
def hMode (h : List Octet) : Nat := hNat h 6 1
def hSeq (h : List Octet) : Nat := hNat h 8 8

/-- The SOURCE octet of a record without PHASE (R418). -/
def Origin.source : Origin → Nat
  | .ring n => n
  | .queue _ => 4

/-- The record of a carriage (R418), with PHASE still clear; `header` is absent when it was not read. -/
def recordOf (header : Option (List Octet)) (o : Origin) (status : Nat) (info : List Octet) : List Octet :=
  let h := header.getD []
  [BitVec.ofNat 8 status, BitVec.ofNat 8 (hOpcode h)] ++ octetsLe 6 (hSeq h)
    ++ ((info ++ List.replicate 7 0).take 7) ++ [BitVec.ofNat 8 o.source]

/-- The critical opcodes (R412). -/
def critOp (op : Nat) : Bool := [0x10, 0x11, 0x12, 0x13, 0x20, 0x21, 0x22, 0x23, 0x24, 0x25].contains op

/-- The reservation of the carriage `id` of submission ring `n` is freed at once when the carriage needs no record (R427). A carriage
whose place among the records is gone (R429) holds none. -/
def Rings.freeSlot (r : Rings) (n id : Nat) : Rings :=
  match (r.slots n).find? (fun e => decide (e.id = id) && e.rec_.isNone) with
  | some e => r.unreserve e.cq
  | none => r

/-- Fill in the record of the carriage `id` of submission ring `n` of tenant `t`, or free its reservation, and write what has become
writable. -/
def State.fillRecord (s : State) (t n id : Nat) (rec_ : Option (List Octet × Bool)) : State :=
  let s1 := s.modRings t (fun r =>
    (if rec_.isNone then r.freeSlot n id else r).setSlots n ((r.slots n).map (fun e => if e.id = id then { e with rec_ := some rec_ } else e)))
  s1.drainRing t n ((s1.rings t).slots n).length

/-- The record of a carriage that ends with `status` falls due, or none (R421, R423). -/
def State.endCarriage (s : State) (c : Carriage) (status : Nat) (info : List Octet) : State :=
  let h := c.header
  let need := decide (status ≠ 0) || bit (hFlags h) 1
  let msg := bit (hFlags h) 2 || decide (status ≠ 0)
  let os := recordOf (some h) c.origin status info
  match c.origin with
  | .ring n => s.fillRecord c.tenant n c.id (if need then some (os, msg) else none)
  | .queue k =>
    if !need then s
    else
      let q := k % 4
      if !(s.fnExists c.tenant) || !((s.rings c.tenant).hasRoom q) then s.rngCdrop
      else
        let s1 := s.modRings c.tenant (fun r => (r.reserve q).setSlots 4 (r.slots 4 ++ [⟨c.id, q, some (some (os, msg))⟩]))
        s1.drainRing c.tenant 4 ((s1.rings c.tenant).slots 4).length

/-- A carriage completes with `status`; a critical one that the key engine has taken no longer holds back its tenant (R438). -/
def State.complete (s : State) (c : Carriage) (status : Nat) (info : List Octet) : State :=
  let s0 := if critOp (hOpcode c.header) then { s with rng := { s.rng with busyT := s.rng.busyT.erase c.tenant } } else s
  s0.endCarriage c status info

/-! ### Fetching (R426, R580) -/

/-- The fetch of submission ring `n` of tenant `t` ends with its carriage unread: its reads are to be discarded, counted in
LATECPL when `late`, its reservation and its place among the records are freed. -/
def State.dropFetch (s : State) (t n : Nat) (late : Bool) : State :=
  match tget none (s.rings t).fetch n with
  | none => s
  | some f =>
    let s1 := s.modRings t (fun r => (({ r with fetch := tset none r.fetch n none }).freeSlot n f.id).setSlots n ((r.slots n).filter (fun e => decide (e.id ≠ f.id))))
    let p := portOf t
    s1.modPort p (fun x => { x with reads := x.reads.map (fun q => if q.tenant = t ∧ q.ring = n ∧ q.live then { q with live := false, late := late } else q) })

/-- A ring stops under R426 with `status`: STOPPED, a record for the failing carriage, source 256. SQ_HEAD stays. -/
def State.stopRing (s : State) (t n status : Nat) : State :=
  match tget none (s.rings t).fetch n with
  | none => s
  | some f =>
    let s1 := s.modRings t (fun r => { r with fetch := tset none r.fetch n none, stopped := tset false r.stopped n true })
    let s2 := (s1.rngStopCnt).raise 256
    s2.fillRecord t n f.id (some (recordOf f.header (.ring n) status [], true))

/-- A ring of tenant `t` is under the lease of its function: leased itself, or mapped to the leased completion ring (R429). -/
def Rings.leased (r : Rings) (n : Nat) : Bool :=
  match r.lease with
  | some l => decide (l.ring = n) || (decide (4 ≤ l.ring) && decide ((r.cfg n).cq = l.ring - 4))
  | none => false

/-- Submission ring `n` is paused under R427. -/
def Rings.waitCq (r : Rings) (n : Nat) : Bool := (r.cfg n).en && !(r.hasRoom (r.cfg n).cq)

/-- Submission ring `n` of tenant `t` is eligible (R580). -/
def State.sqEligible (s : State) (t n : Nat) : Bool :=
  let r := s.rings t
  (r.cfg n).en && decide (tget 0 r.tail n ≠ tget 0 r.sqHead n) && !(tget false r.stopped n) && !(r.waitCq n) && !(r.leased n)
    && s.fnSends t && !(s.port (portOf t)).frozen && (s.port (portOf t)).linkUp && !(s.dead t) && s.rng.intake
    && (!s.bsu.recovery || (decide (t = 0) && decide (n = 0)))

/-- The eligible rings of a function. -/
def State.eligRings (s : State) (t : Nat) : List Nat := [0, 1, 2, 3].filter (fun n => s.sqEligible t n)

/-- The rings of a function from which a carriage can start now: eligible, with no carriage being read (log entry 11). -/
def State.startRings (s : State) (t : Nat) : List Nat := (s.eligRings t).filter (fun n => (tget none (s.rings t).fetch n).isNone)

/-- The pass value of a ring. -/
def Rings.passOf (r : Rings) (n : Nat) : Nat := tget 0 r.pass n

/-- The ring with the smallest pass among `l`, the lower ring on a tie (R580). -/
def Rings.smallest (r : Rings) (l : List Nat) : Option Nat :=
  l.foldl (fun m n => match m with
    | none => some n
    | some k => if r.passOf n < r.passOf k then some n else some k) none

/-- Rings that have become eligible take their pass value (R580). -/
def State.refreshPass (s : State) (t : Nat) : State :=
  let now := s.eligRings t
  let s1 := now.foldl (fun (s : State) n =>
    let r := s.rings t
    if r.elig.testBit n then s
    else match r.smallest (now.filter (· ≠ n)) with
      | some k => s.setRings t { r with pass := tset 0 r.pass n (max (r.passOf n) (r.passOf k)) }
      | none => s) s
  s1.modRings t (fun r => { r with elig := now.foldl (fun e n => e + 2 ^ n) 0 })

/-- The functions of port `p` with rings, in ascending order. -/
def State.ringFns (s : State) (p : Nat) : List Nat := (tkeys s.rng.fns).filter (fun t => decide (portOf t = p))

/-- A tag of port `p` that no request carries and no quarantine holds (R538, R541). -/
def State.freeTag (s : State) (p : Nat) : Option Nat :=
  let x := s.port p
  let m := if (s.fn (s.linkFn0 p)).tag10 then 768 else 256
  let used := (s.linkPorts p).flatMap (fun q => (s.port q).reads.map (·.tag) ++ (s.port q).quar)
  if m ≤ x.reads.length then none else (List.range m).find? (fun g => !used.contains g)

/-- Ask the host for slot `i` of submission ring `n` of tenant `t` under tag `g`. -/
def State.askSlot (s : State) (t n i g : Nat) : State :=
  let p := portOf t
  let s1 := s.modPort p (fun x => { x with reads := x.reads ++ [⟨g, t, n, true, true⟩] })
  (s1.linkTlp p).emit (.read p g t (((s.rings t).cfg n).slotAddr i 64) 64)

/-- Start reading the next carriage of submission ring `n` of tenant `t` (R427): one record slot is reserved and the header
slot is requested. -/
def State.startFetch (s : State) (t n g : Nat) : State :=
  let d := s.fresh
  let cq := ((s.rings t).cfg n).cq
  let f : Fetching := ⟨d.1, cq, none, []⟩
  let e : RecSlot := ⟨d.1, cq, none⟩
  let s1 := d.2.modRings t (fun r => ({ (r.reserve cq) with fetch := tset none r.fetch n (some f) }).setSlots n (r.slots n ++ [e]))
  s1.askSlot t n (tget 0 (s.rings t).sqHead n) g

/-- Whether a function waits for the header of a carriage it has started: its deficit is not yet known (R580). -/
def Rings.awaitsHeader (r : Rings) : Bool := [0, 1, 2, 3].any (fun n => match tget none r.fetch n with
  | some f => f.header.isNone
  | none => false)

/-- The functions after `cur` in the round of R580, the last of them `cur` itself. -/
def roundFrom (fs : List Nat) (cur : Option Nat) : List Nat :=
  match cur with
  | none => fs
  | some c => fs.filter (fun t => decide (c < t)) ++ fs.filter (fun t => decide (t ≤ c))

/-- The next function in the round from which a carriage can start; the functions passed over that are not eligible lose their
deficit (R580). -/
def State.advanceRound (s : State) (p : Nat) : List Nat → Option Nat × State
  | [] => (none, s)
  | t :: rest =>
    if !(s.startRings t).isEmpty then
      (some t, ({ s with rng := { s.rng with round := tset 0 s.rng.round p (t + 1) } }).modRings t (fun r => { r with df := r.df + 256 }))
    else if (s.eligRings t).isEmpty then (s.modRings t (fun r => { r with df := 0 })).advanceRound p rest
    else s.advanceRound p rest

/-- The deficit of the current function `cur` is zeroed when nothing of it is eligible any more (R580). -/
def State.endTurn (s : State) (cur : Option Nat) : State :=
  match cur with
  | some t => if (s.eligRings t).isEmpty then s.modRings t (fun r => { r with df := 0 }) else s
  | none => s

/-- Port `p` starts reading the next carriage (R580). -/
def State.fetchNext (s : State) (p : Nat) : State :=
  let fs := s.ringFns p
  let s0 := s.each fs (fun s t => s.refreshPass t)
  match s0.freeTag p with
  | none => s
  | some g =>
    let code := tget 0 s0.rng.round p
    let cur := if code = 0 then none else some (code - 1)
    let s0 := s0.endTurn cur
    if fs.any (fun t => (s0.rings t).awaitsHeader) then s
    else
      let stay := match cur with
        | some t => decide (0 < (s0.rings t).df) && !(s0.startRings t).isEmpty
        | none => false
      let r := if stay then (cur, s0) else s0.advanceRound p (roundFrom fs cur)
      match r.1 with
      | none => r.2
      | some t =>
        match (r.2.rings t).smallest (r.2.startRings t) with
        | none => r.2
        | some n => r.2.startFetch t n g

/-- A header with `slots` payload slots has been read: the deficit of the function and the pass of the ring move (R580). -/
def State.charge (s : State) (t n slots : Nat) : State :=
  s.modRings t (fun r => { r with
    df := r.df - ((1 + slots : Nat) : Int)
    pass := tset 0 r.pass n (r.passOf n + (1 + slots) * (65536 / max 1 (r.cfg n).weight)) })

def execCarriageFetch (port : Nat) (s : State) : Res := .next (if s.portPresent port then s.fetchNext port else s)

/-! ### Index registers (R430) -/

/-- A write of SQ_TAIL. -/
def State.sqTail (s : State) (t n v : Nat) : State :=
  let r := s.rings t
  if 2 ^ (r.cfg n).size < idxDist (tget 0 r.sqHead n) v then s.rngBadidx
  else s.setRings t { r with tail := tset 0 r.tail n v }

/-- A write of CQ_HEAD. -/
def State.cqHead (s : State) (t n v : Nat) : State :=
  let r := s.rings t
  let h := tget 0 r.cqHead n
  if idxDist h (tget 0 r.written n) < idxDist h v then s.rngBadidx
  else s.setRings t { r with cqHead := tset 0 r.cqHead n v }

/-- Whether a memory request of the host reaches the function's BARs: the link is up, the function exists and is in D0, and
Memory Space Enable of its PF is set (R533, R540). -/
def State.pageOpen (s : State) (t : Nat) : Bool :=
  s.fnExists t && !(s.fn t).d3 && (s.fn (pfOf t)).memEn && (s.port (portOf t)).linkUp

/-- Whether requester `r` reaches the registers: a running context, a host through the open BAR0 of a port's physical function
(R33), the service core while the device runs. -/
def State.reaches (s : State) (r : Requester) : Bool :=
  match r with
  | .context n => s.mayIssue n
  | .host p => s.portPresent p && s.pageOpen (1024 * p)
  | .service => decide (s.pmu.dev = .run)

def execSqTailWrite (tenant ring : Nat) (v : BitVec 32) (s : State) : Res :=
  let s := s.linkTlp (portOf tenant)
  .next (if ring < 4 then (if s.pageOpen tenant then s.sqTail tenant ring v.toNat else s.urWrite tenant) else s)

def execCqHeadWrite (tenant ring : Nat) (v : BitVec 32) (s : State) : Res :=
  let s := s.linkTlp (portOf tenant)
  .next (if ring < 4 then (if s.pageOpen tenant then s.cqHead tenant ring v.toNat else s.urWrite tenant) else s)

/-! ### The ring lease (R429, R545) -/

/-- A freeze lease lies on the rings of port `p` (R545). -/
def State.frzHeld (s : State) (p : Nat) : Bool := (s.port p).frozen && (s.port p).frzLease.isSome

/-- ACQUIRE with RING = `n`. -/
def State.ringAcquire (s : State) (t n : Nat) : State :=
  let r := s.rings t
  if r.lease.isSome || s.frzHeld (portOf t) then s
  else s.setRings t { r with sel := n, lease := some { ring := n, shadow := r.cfg n, until_ := s.leaseFor s.lk.rngLease } }

/-- The shadow as a commit takes it: EN is forced to 0 where R429 refuses it. -/
def commitCfg (t n : Nat) (c : RingCfg) : RingCfg :=
  let bad := decide (c.size < 4) || decide (16 < c.size) || decide (c.lo % 4096 ≠ 0) || (decide (n < 4) && decide (c.weight = 0))
    || (decide (4 ≤ n) && decide (msixSize t ≤ c.vector))
  { c with en := c.en && !bad }

/-- A completion ring is disabled: every record reserved in it and not yet written is discarded, with its reservation (R429). -/
def State.cqDisable (s : State) (t c : Nat) : State :=
  let r := s.rings t
  let r1 := [0, 1, 2, 3, 4].foldl (fun (r : Rings) n => r.setSlots n ((r.slots n).filter (fun e => decide (e.cq ≠ c)))) r
  let s1 := s.setRings t { r1 with reserved := tset 0 r1.reserved c 0 }
  s1.modPort (portOf t) (fun x => { x with hold := x.hold.filter (fun e => !(decide (e.1 = t) && decide (e.2.1 = c))) })

/-- COMMIT: the shadow takes effect and the lease ends. -/
def State.ringCommit (s : State) (t : Nat) : State :=
  let r := s.rings t
  match r.lease with
  | none => s
  | some l =>
    let c := commitCfg t l.ring l.shadow
    let rise := c.en && !(r.cfg l.ring).en
    let r1 := ({ r with lease := none }.setCfg l.ring c)
    if l.ring < 4 then
      let r2 := { r1 with stopped := tset false r1.stopped l.ring false }
      let s1 := s.setRings t (if rise then { r2 with tail := tset 0 r2.tail l.ring 0, sqHead := tset 0 r2.sqHead l.ring 0 } else r2)
      if rise || !c.en then s1.dropFetch t l.ring false else s1
    else
      let q := l.ring - 4
      let r2 := if rise then { r1 with cqHead := tset 0 r1.cqHead q 0, written := tset 0 r1.written q 0 } else r1
      let s1 := s.setRings t r2
      if c.en then s1 else s1.cqDisable t q

/-- ABORT: the shadow is discarded and the lease ends. -/
def State.ringAbort (s : State) (t : Nat) : State :=
  let r := s.rings t
  match r.lease with
  | none => s
  | some l => s.setRings t { r with lease := none, stopped := if l.ring < 4 then tset false r.stopped l.ring false else r.stopped }

/-- Expiry or break of the ring lease: BROKEN is set and the old configuration resumes. -/
def State.ringBreak (s : State) (t : Nat) : State :=
  let r := s.rings t
  match r.lease with
  | none => s
  | some _ => s.setRings t { r with lease := none, broken := true }

def execRingLeaseAcquire (tenant ring : Nat) (s : State) : Res :=
  let s := s.linkTlp (portOf tenant)
  .next (if ring < 8 then (if s.pageOpen tenant then s.ringAcquire tenant ring else s.urWrite tenant) else s)

def execRingLeaseCommit (tenant : Nat) (s : State) : Res :=
  let s := s.linkTlp (portOf tenant)
  .next (if s.pageOpen tenant then s.ringCommit tenant else s.urWrite tenant)

def execRingLeaseAbort (tenant : Nat) (s : State) : Res :=
  let s := s.linkTlp (portOf tenant)
  .next (if s.pageOpen tenant then s.ringAbort tenant else s.urWrite tenant)

def execRingLeaseExpiry (tenant : Nat) (s : State) : Res :=
  .next (match (s.rings tenant).lease with
    | some l => if s.leaseOver l.until_ then s.ringBreak tenant else s
    | none => s)

/-! ### The doorbell page (R431) -/

/-- Bits n of a word from a Boolean of each of four rings. -/
def four (f : Nat → Bool) : Nat := [0, 1, 2, 3].foldl (fun a n => a + b2n (f n) * 2 ^ n) 0

/-- CTL of ring `n` as a word (R431). -/
def RingCfg.ctl (c : RingCfg) (n : Nat) : Nat :=
  (if n < 4 then c.weight * 2 ^ 8 + c.cq * 2 ^ 6 else c.vector * 2 ^ 16) + c.size * 2 + b2n c.en

/-- A ring configuration with CTL written (R431). -/
def RingCfg.putCtl (c : RingCfg) (n v : Nat) : RingCfg :=
  if n < 4 then { c with weight := bits v 15 8, cq := bits v 7 6, size := bits v 5 1, en := bit v 0 }
  else { c with vector := bits v 27 16, size := bits v 5 1, en := bit v 0 }

/-- The configuration that the page presents for ring `n`: the shadow while it is leased (R431). -/
def Rings.shown (r : Rings) (n : Nat) : RingCfg :=
  match r.lease with
  | some l => if l.ring = n then l.shadow else r.cfg n
  | none => r.cfg n

/-- Word `n` of the doorbell page of tenant `t` (R431). -/
def State.pageRead (s : State) (t n : Nat) : Nat :=
  let r := s.rings t
  if n < 4 then tget 0 r.tail n
  else if n < 8 then tget 0 r.cqHead (n - 4)
  else if n < 12 then tget 0 r.sqHead (n - 8)
  else if n = 12 then
    four (fun i => r.waitCq i) * 2 ^ 12 + four (fun i => tget false r.stopped i) * 2 ^ 8
      + four (fun i => (r.cfg (4 + i)).en) * 2 ^ 4 + four (fun i => (r.cfg i).en)
  else if n = 13 then
    b2n r.lease.isSome * 2 ^ 31 + b2n r.broken * 2 ^ 27 + (match r.lease with | some l => l.ring | none => r.sel)
  else if 16 ≤ n ∧ n < 48 then
    let c := r.shown ((n - 16) / 4)
    match n % 4 with
    | 0 => c.lo
    | 1 => c.hi
    | 2 => c.ctl ((n - 16) / 4)
    | _ => 0
  else 0

/-- A write of word `n` of the doorbell page of tenant `t` (R429 to R431). -/
def State.pageWrite (s : State) (t n v : Nat) : State :=
  let r := s.rings t
  let lo := v % 2 ^ 32
  if n < 4 then s.sqTail t n lo
  else if n < 8 then s.cqHead t (n - 4) lo
  else if n = 13 then
    let cmds := b2n (bit v 30) + b2n (bit v 29) + b2n (bit v 28)
    if 1 < cmds ∨ (bit v 30 = true ∧ (r.lease.isSome || s.frzHeld (portOf t)) = true) then s
    else
      let s1 := s.setRings t { r with broken := r.broken && !(bit v 27), sel := if r.lease.isSome then r.sel else v % 8 }
      if bit v 30 then s1.ringAcquire t (v % 8)
      else if bit v 29 then s1.ringCommit t
      else if bit v 28 then s1.ringAbort t
      else s1
  else if 16 ≤ n ∧ n < 48 then
    let i := (n - 16) / 4
    match r.lease with
    | some l =>
      if l.ring ≠ i then s
      else
        let c := match n % 4 with
          | 0 => { l.shadow with lo := lo }
          | 1 => { l.shadow with hi := lo }
          | 2 => l.shadow.putCtl i v
          | _ => l.shadow
        s.setRings t { r with lease := some { l with shadow := c } }
    | none => s
  else s

end Sys2Proof.Machine
end

