-- ==== Sys2Proof/Machine/Carriage.lean ====
section
/-!
DEFINITION. Carriages from their slots to the unit that carries them out: conversion (R66 to R70), the freeze of a port (R543),
read completions (R538), the checks of R416, port intake (R582, R583), the aperture (R434 to R436), the key engine (R437 to
R439), and the carriages that RNG carries out itself: MAILBOX (R432, R433) and NOP (R414).
-/

namespace Sys2Proof.Machine

open Sys2Proof

/-! ### Conversion (R66 to R69) -/

/-- `n` groups of PACK32. -/
def pack32 : Nat → List Octet → List Word
  | 0, _ => []
  | n + 1, os => word (leNat (os.take 4)) :: pack32 n (os.drop 4)

/-- `n` groups of DENSE72. -/
def dense72 : Nat → List Octet → List Word
  | 0, _ => []
  | n + 1, os =>
    let v := leNat (os.take 9)
    word v :: word (v / 2 ^ 36) :: dense72 n (os.drop 9)

/-- The words that a payload converts to under MODE. -/
def convert (mode : Nat) (os : List Octet) : List Word :=
  if mode = 0 then pack32 ((os.length + 3) / 4) os else dense72 ((os.length + 8) / 9) os

/-- The payload octets of a carriage (R410). -/
def Carriage.data (c : Carriage) : List Octet := c.payload.take (hLength c.header)

/-- The converted payload of a carriage. -/
def Carriage.words (c : Carriage) : List Word := convert (hMode c.header) c.data

/-- OPCODE of a carriage. -/
def Carriage.op (c : Carriage) : Nat := hOpcode c.header

/-- `n` body octets at `off` as a number (R413). -/
def Carriage.body (c : Carriage) (off n : Nat) : Nat := hNat c.header off n

/-! ### DRAM maintenance lease, as a break ends it (R569) -/

/-- Every inactive timing set back as it was at ACQUIRE. -/
def State.tsetRestore (s : State) (saved : List (Nat × List Word × List Word)) : State :=
  saved.foldl (fun (s : State) e => s.modChan e.1 (fun x => if x.tset then { x with tsa := e.2.1 } else { x with tsb := e.2.2 })) s

/-- Expiry or break of the DRAM maintenance lease; none after COMMIT. -/
def State.dmcBreak (s : State) : State :=
  match s.dmc.lease with
  | none => s
  | some l =>
    if l.committed then s
    else
      let s1 := s.tsetRestore l.saved
      ({ s1 with dmc := { s1.dmc with lease := none, broken := true, target := l.target, quiet := l.quiet } }).raise 339

/-- Break the ICU and DRAM leases whose OWNER code satisfies `p` (R593). -/
def State.breakOwned (s : State) (p : Nat → Bool) : State :=
  let s1 := match s.icu.lease with
    | some l => if p l.owner then s.icuBreak else s
    | none => s
  match s1.dmc.lease with
  | some l => if p l.owner then s1.dmcBreak else s1
  | none => s1

/-! ### Freeze (R542, R543, R545) -/

/-- Every read of port `p` still outstanding is to be discarded, and its tag is in quarantine (R541 step 5). -/
def State.quarantine (s : State) (p : Nat) (sel : Nat → Bool) : State :=
  s.modPort p (fun x => { x with
    quar := x.quar ++ ((x.reads.filter (fun r => sel r.tenant)).map (·.tag))
    reads := x.reads.map (fun r => if sel r.tenant then { r with live := false, late := true } else r) })

/-- Drop what every function of port `p` is reading. -/
def State.dropFetches (s : State) (p : Nat) : State :=
  s.each (s.ringFns p) (fun s t => s.each [0, 1, 2, 3] (fun s n => s.dropFetch t n true))

/-- FRZLEASE of port `p` (R549). -/
def State.frzLen (s : State) (p : Nat) : Nat := tget 65536 s.lk.frzLease p

/-- One port freezes with the given CAUSE bit. -/
def State.freezeOne (s : State) (p bitNo : Nat) : State :=
  let x := s.port p
  let s1 := s.modPort p (fun x => { x with cause := putBit x.cause bitNo true })
  if x.frozen then s1
  else
    let lease := s1.leaseFor (s1.frzLen p)
    let s2 := (s1.modPort p (fun x => { x with frozen := true, frzLease := some lease, lapsed := false })).cntFreeze p
    let s3 := (s2.dropFetches p).quarantine p (fun _ => true)
    let s4 := (s3.breakOwned (fun o => decide (o = 512 + p))).raise (320 + 4 * p)
    s4.record 6 1 (unitHpc p) none none none ((s4.port p).cause)

/-- The link of port `p` freezes: both ports of a merged pair (R523). -/
def State.freezeLink (s : State) (p bitNo : Nat) : State := s.each (s.linkPorts p) (fun s q => s.freezeOne q bitNo)

/-- A freezing AER error arrives at port `p` (R542): logged, and the freeze with its record, or a record alone when the port is
frozen already (R657). -/
def State.fatalAer (s : State) (p bitNo : Nat) : State :=
  if (s.port p).frozen then (s.freezeLink p bitNo).aerError (1024 * p) (aerOfCause bitNo)
  else (s.aerLog (1024 * p) (aerOfCause bitNo)).freezeLink p bitNo

/-! ### The checks of R416 -/

/-- The body fields of an opcode: offset, octets, bits (R413); none for an opcode that R412 does not list. -/
def bodyFields (op : Nat) : Option (List (Nat × Nat × Nat)) :=
  match op with
  | 0x01 => some [(16, 2, 16), (18, 2, 10), (24, 8, 36)]
  | 0x02 => some [(24, 8, 64)]
  | 0x03 => some [(18, 2, 10), (24, 8, 36)]
  | 0x10 => some [(16, 2, 10)]
  | 0x11 => some [(16, 2, 12)]
  | 0x12 => some [(16, 2, 12)]
  | 0x13 => some [(16, 2, 14)]
  | 0x20 => some [(16, 1, 8), (17, 1, 1), (18, 2, 16)]
  | 0x21 => some [(24, 8, 64), (32, 4, 32)]
  | 0x22 => some [(24, 8, 64), (32, 4, 32)]
  | 0x23 => some [(16, 2, 12), (18, 1, 1)]
  | 0x24 => some [(16, 2, 12), (18, 1, 1)]
  | 0x25 => some [(16, 16, 128)]
  | 0x3F => some []
  | _ => none

/-- Whether LENGTH and MODE are allowed for an opcode (R413). -/
def lengthOk (op len mode : Nat) : Bool :=
  match op with
  | 0x01 | 0x02 | 0x03 => decide (len ≤ 4032)
  | 0x10 => if mode = 0 then decide (157 ≤ len ∧ len ≤ 160) else decide (172 ≤ len ∧ len ≤ 180)
  | 0x11 | 0x12 => if mode = 0 then decide (29 ≤ len ∧ len ≤ 32) else decide (28 ≤ len ∧ len ≤ 36)
  | 0x21 | 0x22 => decide (len = 96) && decide (mode = 0)
  | 0x23 => decide (len = 40) && decide (mode = 0)
  | _ => decide (len = 0)

/-- Step 5 of R416. -/
def formOk (h : List Octet) (fs : List (Nat × Nat × Nat)) : Bool :=
  let op := hOpcode h
  let crit := critOp op
  decide (hFlags h < 8) && decide (hNat h 7 1 = 0)
    && (List.range 32).all (fun i => decide (hNat h (16 + i) 1 = 0) || fs.any (fun f => decide (f.1 ≤ 16 + i) && decide (16 + i < f.1 + f.2.1)))
    && fs.all (fun f => decide (hNat h f.1 f.2.1 < 2 ^ f.2.2))
    && decide (hSlots h = (hLength h + 63) / 64)
    && decide (hMode h ≤ 1)
    && lengthOk op (hLength h) (hMode h)
    && (crit || (decide (hNat h 48 16 = 0) && !(bit (hFlags h) 0)))

/-- The opcodes that only tenant 0 may issue (R412). -/
def tenant0Only (op : Nat) : Bool := [0x11, 0x13, 0x20, 0x21, 0x22, 0x24, 0x25].contains op

/-- Every unit that R412 names for an opcode is ready (R43). -/
def State.unitsReady (s : State) (op : Nat) : Bool :=
  match op with
  | 0x01 => s.glb.rEau && s.glb.rTbu
  | 0x03 => s.glb.rEau && s.glb.rDdu && s.glb.rTbu
  | 0x10 | 0x11 | 0x12 => s.glb.rEau
  | _ => true

/-- Whether a carriage came through the aperture. -/
def Origin.isQueue : Origin → Bool
  | .queue _ => true
  | .ring _ => false

/-- Steps 2 to 9 of R416: the status of the first check that fails. -/
def State.check (s : State) (c : Carriage) : Option Nat :=
  let h := c.header
  let op := c.op
  if (s.port (portOf c.tenant)).frozen then some 9
  else if 63 < hSlots h then some 2
  else match bodyFields op with
    | none => some 8
    | some fs =>
      if !(formOk h fs) then some 2
      else if critOp op && (!(bit (hFlags h) 0) || c.origin.isQueue) then some 3
      else if tenant0Only op && decide (c.tenant ≠ 0) then some 3
      else if decide (op = 0x22) && !(Config.decode s.hw.variant) then some 8
      else if !(s.unitsReady op) then some 1
      else none

/-- Step 12 of R416: the body fields are in range. -/
def State.rangeOk (s : State) (c : Carriage) : Bool :=
  let t := c.body 16 2
  match c.op with
  | 0x01 | 0x03 => s.stampOk (word (c.body 24 8))
  | 0x11 => s.tenantExists t
  | 0x20 =>
    let st := c.body 16 1
    let m := c.body 18 2
    decide (st ≤ 3) && (if 2 ≤ st then decide (m = 0) else decide (m < 2 ^ Config.clusters s.hw.variant))
  | 0x21 | 0x22 => decide (c.body 24 8 % 64 = 0) && decide (96 ≤ c.body 32 4) && decide (c.body 32 4 ≤ 1048576)
  | 0x23 => s.tenantExists t && (decide (c.tenant = 0) || (decide (t = c.tenant) && decide (c.body 18 1 = 0)))
  | 0x24 => s.tenantExists t && decide (t ≠ 0)
  | _ => true

/-! ### Intake (R582, R583) -/

/-- The ready carriages of port `p`, in the order in which they became ready. -/
def State.readyQ (s : State) (p : Nat) : List Carriage := tget [] s.rng.ready p

/-- Write the ready carriages of a port. -/
def State.setReady (s : State) (p : Nat) (l : List Carriage) : State := { s with rng := { s.rng with ready := tset [] s.rng.ready p l } }

/-- The hash of R458. -/
def eauHash (p : Nat) (w : Word) : Nat :=
  let t := w.toNat / 65536
  let b := w.toNat % 65536
  (b % 16) ^^^ (b / 16 % 16) ^^^ (b / 256 % 16) ^^^ (b / 4096 % 16) ^^^ (t % 16) ^^^ (p % 16) ^^^ (p / 16 % 16) ^^^ (p / 256 % 4)

/-- The bank of a key (R458). -/
def State.eauBank (s : State) (p : Nat) (w : Word) : Nat := eauHash p w % Config.banks s.hw.variant

/-- The staging queue of port `p` for bank `b` (R583). -/
def State.stagingQ (s : State) (p b : Nat) : List Carriage := tget [] s.rng.staging (16 * p + b)

/-- Write a staging queue. -/
def State.setStaging (s : State) (p b : Nat) (l : List Carriage) : State :=
  { s with rng := { s.rng with staging := tset [] s.rng.staging (16 * p + b) l } }

/-- The critical queue of port `p` (R582). -/
def State.critQ (s : State) (p : Nat) : List Crit := tget [] s.rng.critQ p

/-- Write the critical queue of a port. -/
def State.setCrit (s : State) (p : Nat) (l : List Crit) : State := { s with rng := { s.rng with critQ := tset [] s.rng.critQ p l } }

/-- The head of the ready queue goes on: refused with a status, into its queue, or it stays (none) because its queue is full or
because the row of its opcode carries it out. -/
def State.intakeHead (s : State) (p : Nat) (c : Carriage) : Option State :=
  match s.check c with
  | some st =>
    if st = 8 ∧ (bodyFields c.op).isNone then none
    else some ((if st = 3 ∧ critOp c.op = true ∧ c.origin.isQueue = true then s.rngCrit else s).endCarriage c st [])
  | none =>
    if s.bsu.recovery then
      if !(s.rangeOk c) then some (s.complete c 2 [])
      else if c.op = 0x21 then some { s with rng := { s.rng with svcQ := s.rng.svcQ ++ [c] } }
      else some (s.complete c 8 [])
    else if critOp c.op then
      if 16 ≤ (s.critQ p).length then none
      else
        let d := s.fresh
        some (d.2.setCrit p (d.2.critQ p ++ [⟨d.1, c⟩]))
    else if !(s.rangeOk c) then some (s.complete c 2 [])
    else if c.op = 0x01 ∨ c.op = 0x03 then
      let b := s.eauBank (c.body 18 2) (word (c.body 24 8))
      if 8 ≤ (s.stagingQ p b).length then none else some (s.setStaging p b (s.stagingQ p b ++ [c]))
    else none

/-- Port `p` passes ready carriages on, one at a time, until its head stays. -/
def State.pumpN (s : State) (p : Nat) : Nat → State
  | 0 => s
  | k + 1 =>
    match s.readyQ p with
    | [] => s
    | c :: rest =>
      match s.intakeHead p c with
      | none => s
      | some s1 => (s1.setReady p rest).pumpN p k

/-- Port `p` passes ready carriages on. -/
def State.pump (s : State) (p : Nat) : State := s.pumpN p (s.readyQ p).length

/-- A carriage has become ready (R582). -/
def State.nowReady (s : State) (c : Carriage) : State :=
  let p := portOf c.tenant
  (s.setReady p (s.readyQ p ++ [c])).pump p

/-! ### Read completions (R538, R426) -/

/-- One slot of the carriage that ring `n` of tenant `t` is reading has arrived under tag `g`. -/
def State.slotArrived (s : State) (t n g : Nat) (os : List Octet) : State :=
  let slot := (os ++ List.replicate 64 0).take 64
  match tget none (s.rings t).fetch n with
  | none => s
  | some f =>
    let f1 : Fetching := match f.header with
      | none => { f with header := some slot }
      | some _ => { f with payload := f.payload ++ slot }
    let h := f1.header.getD []
    let slots := hSlots h
    let s1 := s.modRings t (fun r => { r with fetch := tset none r.fetch n (some f1) })
    let s2 := if f.header.isNone then s1.charge t n (if 63 < slots then 0 else slots) else s1
    let head := tget 0 (s2.rings t).sqHead n
    if 63 < slots then s2.stopRing t n 2
    else if f1.payload.length < 64 * slots then s2.askSlot t n (head + 1 + f1.payload.length / 64) g
    else
      let s3 := s2.modRings t (fun r => { r with fetch := tset none r.fetch n none, sqHead := tset 0 r.sqHead n ((head + 1 + slots) % idx32) })
      s3.nowReady { id := f1.id, tenant := t, origin := .ring n, cq := some f1.cq, header := h, payload := f1.payload }

/-- The outstanding read of the link of port `p` under tag `g`: the port that issued it, and the read. -/
def State.findRead (s : State) (p g : Nat) : Option (Nat × HostRead) :=
  (s.linkPorts p).findSome? (fun q => ((s.port q).reads.find? (fun r => decide (r.tag = g))).map (fun r => (q, r)))

/-- The read is no longer outstanding. -/
def State.closeRead (s : State) (q : Nat) (r : HostRead) : State := s.modPort q (fun x => { x with reads := x.reads.erase r })

/-- A completion for tag `g` arrives at port `p` (R538). -/
def State.completion (s : State) (p g : Nat) (c : Cpl) : State :=
  match s.findRead p g with
  | none => s.aerError (1024 * p) aerUnexpected
  | some (q, r) =>
    let s1 := s.closeRead q r
    if !r.live then (if r.late then s1.cntLate q else s1)
    else match c with
      | .ok os => s1.slotArrived r.tenant r.ring g os
      | .ur => (s1.stopRing r.tenant r.ring 10).aerError r.tenant aerTimeout
      | .ca => (s1.stopRing r.tenant r.ring 10).aerError r.tenant aerTimeout
      | .poisoned => s1.fatalAer q 5

def execReadCompletion (port tag : Nat) (c : Cpl) (s : State) : Res :=
  .next (if s.portPresent port then (s.linkTlp port).completion port tag c else s)

def execCompletionTimeout (port tag : Nat) (s : State) : Res :=
  .next (match s.findRead port tag with
    | none => s
    | some (q, r) =>
      let s1 := s.closeRead q r
      if r.live then (s1.stopRing r.tenant r.ring 10).aerError r.tenant aerTimeout else s1)

/-! ### The aperture (R434 to R436) -/

/-- The key of push queue `k` of tenant `t`. -/
def pushKey (t k : Nat) : Nat := t * 2 ^ 24 + k

/-- Aperture slots that port `p` stages: those of open queues and of carriages not yet passed on (R435). -/
def State.staged (s : State) (p : Nat) : Nat :=
  (s.rng.pushes.foldl (fun (a : Nat) e => match e.2 with
    | some q => if portOf (e.1 / 2 ^ 24) = p ∧ !q.drop then a + 1 + hSlots q.header else a
    | none => a) 0)
  + (s.readyQ p).foldl (fun (a : Nat) c => if c.origin.isQueue then a + 1 + hSlots c.header else a) 0

/-- Queues of port `p` with a carriage partly received. -/
def State.openPushes (s : State) (p : Nat) : Nat :=
  (s.rng.pushes.filter (fun e => match e.2 with | some q => decide (portOf (e.1 / 2 ^ 24) = p) && !q.drop | none => false)).length

/-- Write push queue `k` of tenant `t`. -/
def State.setPush (s : State) (t k : Nat) (q : Option Push) : State :=
  { s with rng := { s.rng with pushes := tset none s.rng.pushes (pushKey t k) q } }

/-- A carriage of queue `k` has arrived whole: it is ready, or its slots have been discarded. -/
def State.pushDone (s : State) (t k : Nat) (q : Push) : State :=
  let s1 := s.setPush t k none
  if q.drop then s1
  else
    let d := s1.fresh
    d.2.nowReady { id := d.1, tenant := t, origin := .queue k, cq := none, header := q.header, payload := q.payload }

/-- One slot arrives in push queue `k` of tenant `t` (R434, R435). -/
def State.pushSlot (s : State) (t k : Nat) (slot : List Octet) : State :=
  let p := portOf t
  match tget none s.rng.pushes (pushKey t k) with
  | none =>
    let n := hSlots slot
    if 63 < n then s.rngDrop
    else
      let drop := s.dead t || decide (4096 < s.staged p + 1 + n) || decide (256 ≤ s.openPushes p)
      let s1 := if drop then s.rngDrop else s
      let q : Push := ⟨slot, [], drop⟩
      if n = 0 then s1.pushDone t k q else s1.setPush t k (some q)
  | some q =>
    let drop := q.drop || s.dead t
    let s1 := if drop && !q.drop then s.rngDrop else s
    let q1 : Push := { q with payload := q.payload ++ slot, drop := drop }
    if q1.payload.length < 64 * hSlots q1.header then s1.setPush t k (some q1) else s1.pushDone t k q1

/-- A write of `octets` at `offset` in the aperture of tenant `t` (R434, R435, R533, R543, R631). -/
def State.aperture (s : State) (t offset : Nat) (octets : List Octet) : State :=
  let p := portOf t
  let s := s.linkTlp p
  if !(s.portPresent p) then s
  else if !(s.pageOpen t) || decide (s.apertureSize t < offset + octets.length) then s.urWrite t
  else if (s.port p).frozen || !s.rng.intake || s.bsu.recovery then s.rngDrop
  else if octets.length = 0 ∨ octets.length % 64 ≠ 0 ∨ offset % 64 ≠ 0 ∨ 4096 < offset % 4096 + octets.length then s.rngDrop
  else (pieces 64 (octets.length / 64) octets).foldl (fun (s : State) o => s.pushSlot t (offset / 4096) o) s

def execApertureWrite (tenant offset : Nat) (octets : List Octet) (s : State) : Res := .next (s.aperture tenant offset octets)

/-- A partly received carriage of queue `k` is discarded with the count `f`; its queue then expects a header. -/
def State.dropPush (s : State) (t k : Nat) (f : State → State) : State :=
  match tget none s.rng.pushes (pushKey t k) with
  | none => s
  | some q => let s1 := s.setPush t k none; if q.drop then s1 else f s1

def execApertureTimeout (tenant queue : Nat) (s : State) : Res := .next (s.dropPush tenant queue State.rngDrop)

/-- A poisoned write is discarded (R542); in queue `queue` of the aperture the carriage it belongs to is discarded and counted, and the
queue then expects a header (log entry 74). A queue number past the aperture stands for a write to another window. -/
def execPoisonedWrite (tenant queue : Nat) (s : State) : Res :=
  let s := s.linkTlp (portOf tenant)
  .next (if !(s.pageOpen tenant) then s.urWrite tenant
    else if s.apertureSize tenant ≤ 4096 * queue then s.aerError tenant (aerOfCause 5)
    else match tget none s.rng.pushes (pushKey tenant queue) with
      | none => (s.rngDrop).aerError tenant (aerOfCause 5)
      | some _ => (s.dropPush tenant queue State.rngDrop).aerError tenant (aerOfCause 5))

/-- The push queues of tenant `t` with a carriage partly received. -/
def State.openQueues (s : State) (t : Nat) : List Nat :=
  ((tkeys s.rng.pushes).filter (fun k => decide (k / 2 ^ 24 = t))).map (fun k => k % 2 ^ 24)

/-- Every partly received aperture carriage of tenant `t` is discarded with the count `f`. -/
def State.dropPushes (s : State) (t : Nat) (f : State → State) : State := s.each (s.openQueues t) (fun s k => s.dropPush t k f)

/-! ### Mailboxes (R432, R433) -/

/-- Deliver a header line and data words to the mailbox of tenant `t`: the status, and PROD after the delivery. -/
def State.deliver (s : State) (t : Nat) (header data : List Word) : Nat × Nat × State :=
  if !s.lk.mbEn then (1, 0, s)
  else
    let cls := s.mem.scAgentHost
    let line := s.lk.mbLine + t
    match s.agentRead cls unitRng line with
    | (none, s1) => (1, 0, s1)
    | (some ws, s1) =>
      let base := (ws.getD 0 0).toNat
      let lg := (ws.getD 1 0).toNat
      let prod := (ws.getD 2 0).toNat
      let cons := (ws.getD 3 0).toNat
      if lg = 0 ∨ 12 < lg then (1, 0, s1)
      else if s1.popLines < base + 85 * 2 ^ lg then (1, 0, s1)
      else if 2 ^ lg ≤ (prod + 2 ^ 36 - cons) % 2 ^ 36 then (5, 0, s1)
      else
        let slot := base + 85 * (prod % 2 ^ lg)
        let s2 := s1.writeRun cls unitRng (12 * (slot + 1)) data
        let s3 := s2.writeRun cls unitRng (12 * slot) header
        let s4 := s3.writeRun cls unitRng (12 * line + 2) [word (prod + 1)]
        (0, (prod + 1) % 2 ^ 36, s4.raise (1024 + t))

/-- Two words from a 64-bit field: bits [35:0], then bits [63:36]. -/
def twoWords (v : Nat) : List Word := [word v, word (v / 2 ^ 36)]

/-- The header line of a MAILBOX carriage (R433). -/
def State.mailHeader (s : State) (c : Carriage) : List Word :=
  [word (hLength c.header), word (hMode c.header)] ++ twoWords (hSeq c.header) ++ twoWords (c.body 24 8)
    ++ [word c.origin.source, s.nowShort, 0, 0, 0, 0]

/-- Carry out a MAILBOX carriage. -/
def State.mail (s : State) (c : Carriage) : State :=
  if hLength c.header = 0 then (s.raise (1024 + c.tenant)).complete c 0 []
  else
    let r := s.deliver c.tenant (s.mailHeader c) c.words
    r.2.2.complete c r.1 (if r.1 = 0 then octetsLe 4 r.2.1 else [])

/-- The head of port `p` is carried out by `f` when its opcode satisfies `sel`, unless a check fails it; then intake goes on. -/
def State.headRow (s : State) (p : Nat) (sel : Nat → Bool) (f : State → Carriage → State) : State :=
  match s.readyQ p with
  | [] => s
  | c :: rest =>
    if !(sel c.op) then s
    else
      let s0 := s.setReady p rest
      let s1 := match s.check c with
        | some st => s0.complete c st []
        | none => if s.rangeOk c then f s0 c else s0.complete c 2 []
      s1.pump p

def execMailbox (port : Nat) (s : State) : Res := .next (s.headRow port (fun op => decide (op = 0x02)) State.mail)

def execFragmentCarriageNop (port : Nat) (s : State) : Res :=
  .next (s.headRow port (fun op => decide (op = 0x3F)) (fun s c => s.complete c 0 []))

def execUnknownOpcode (port : Nat) (s : State) : Res :=
  .next (s.headRow port (fun op => (bodyFields op).isNone) (fun s c => s.complete c 8 []))

/-! ### The key engine (R437 to R439, R582) -/

/-- The key record of tenant `t`. -/
def State.keyRec (s : State) (t : Nat) : KeyRec := tget {} s.bsu.keys t

/-- Write the key record of tenant `t`. -/
def State.setKey (s : State) (t : Nat) (k : KeyRec) : State := { s with bsu := { s.bsu with keys := tset {} s.bsu.keys t k } }

/-- The MAC of a carriage is correct under the key of its tenant (R437). -/
def State.macOk (s : State) (c : Carriage) : Bool :=
  match (s.keyRec c.tenant).key with
  | none => false
  | some k => decide (aesCmac k (c.header.take 48 ++ c.data) = (c.header.drop 48).take 16)

/-- The critical carriage that the key engine takes next: the earliest whose tenant has no earlier one still to complete,
with its port. -/
def State.nextCrit (s : State) : Option (Nat × Crit) :=
  let all := [0, 1, 2, 3].flatMap (fun p => (s.critQ p).map (fun e => (p, e)))
  (all.filter (fun e => !(s.rng.busyT.contains e.2.c.tenant))).foldl (fun m e => match m with
    | none => some e
    | some x => if e.2.order < x.2.order then some e else some x) none

/-- A SEQ is accepted: the counter, and the ceiling where SEQ lies above it (R439). -/
def KeyRec.accept (k : KeyRec) (seq : Nat) : KeyRec :=
  { k with last := seq, ceiling := if k.ceiling < seq then min (seq + 65536) (2 ^ 64 - 1) else k.ceiling }

/-- Steps 10 to 12 of R416 for a critical carriage; one that passes goes to the service core (R27, R438). -/
def State.keyCheck (s : State) (c : Carriage) : State :=
  let s0 := { s with rng := { s.rng with busyT := s.rng.busyT ++ [c.tenant] } }
  let k := s.keyRec c.tenant
  let seq := hSeq c.header
  if !(s.macOk c) then (s0.rngAuth).complete c 3 []
  else if seq ≤ k.last then (s0.rngReplay).complete c 4 (octetsLe 7 k.last)
  else
    let s1 := s0.setKey c.tenant (k.accept seq)
    if !(s1.rangeOk c) then s1.complete c 2 []
    else { s1 with rng := { s1.rng with svcQ := s1.rng.svcQ ++ [c] } }

/-- The service core carries out no critical carriage at the moment (R438). -/
def State.svcIdle (s : State) : Bool := s.bsu.job.isNone && s.pmu.job.isNone && !s.bsu.recovery

/-- The service core, when it is idle, hands the carriages of the EAU that stand first in its queue on to the EAU, in order (R27, R438,
R454). -/
def State.handOver (s : State) : State :=
  if !s.svcIdle then s
  else
    let mine := fun (c : Carriage) => decide (c.op ≤ 0x12)
    { s with rng := { s.rng with eauQ := s.rng.eauQ ++ s.rng.svcQ.takeWhile mine, svcQ := s.rng.svcQ.dropWhile mine } }

def execKeyEngineCheck (s : State) : Res :=
  .next (match s.nextCrit with
    | none => s
    | some (p, e) => ((s.setCrit p ((s.critQ p).erase e)).keyCheck e.c).pump p)

end Sys2Proof.Machine
end

