-- ==== Sys2Proof/Machine/Eau.lean ====
section
/-!
DEFINITION. The event assembly unit: profiles, pools and quotas (R442 to R456), the assembly table (R457 to R466), the ends of
events (R467 to R471), coaches (R473 to R475), TASK (R476), tenant death and power (R477, R478).
-/

namespace Sys2Proof.Machine

open Sys2Proof

/-! ### Counters and events (R484, R485) -/

/-- The raise line of source 64 follows EAU_EVENT and EAU_IRQEN. -/
def State.eauLine (s : State) : State := s.setLine 64 (decide (s.eau.event &&& s.eau.irqen ≠ 0))

/-- Set bit `i` of EAU_EVENT. -/
def State.eauEvent (s : State) (i : Nat) : State := ({ s with eau := { s.eau with event := putBit s.eau.event i true } }).eauLine

/-- Count in EAU counter `k`, in the word order of R485: 0 APPENDED, 1 COMPLETE, 2 PARTIAL, 3 EVICTED, 4 DUP, 5 STRAG, 6 OVERSIZE,
7 QUOTA, 8 VICTOVF, 9 KILLED, 10 STRAGDROP. -/
def State.eauCount (s : State) (k : Nat) : State :=
  let r := cntBump (2 ^ 36 - 1) s.eau.cnt k
  let s1 := { s with eau := { s.eau with cnt := r.1 } }
  if r.2 then s1.eauEvent 0 else s1

/-! ### Profiles, pools, quotas -/

/-- Profile `p`. -/
def State.prof (s : State) (p : Nat) : Profile := tget {} s.eau.profs p

/-- Write profile `p`. -/
def State.setProf (s : State) (p : Nat) (x : Profile) : State := { s with eau := { s.eau with profs := tset {} s.eau.profs p x } }

/-- Pool `q`. -/
def State.pool (s : State) (q : Nat) : Pool := tget {} s.eau.pools q

/-- Write pool `q`. -/
def State.setPool (s : State) (q : Nat) (x : Pool) : State := { s with eau := { s.eau with pools := tset {} s.eau.pools q x } }

/-- The quota record of tenant `t`: at reset, tenant 0 holds everything and others nothing (R455). -/
def State.quota (s : State) (t : Nat) : Quota :=
  match tget none s.eau.quotas t with
  | some q => q
  | none =>
    if t = 0 then { maxEnt := 2 ^ Config.atab s.hw.variant, maxSlots := 1048576, maxProf := 1024, maxPool := 4096, grantBase := 0, grantLines := s.popLines }
    else {}

/-- Entries and slots charged to tenant `t` (R456). -/
def State.charged (s : State) (t : Nat) : Nat × Nat := tget (0, 0) s.eau.charge t

/-- Change the charges of tenant `t`. -/
def State.modCharge (s : State) (t : Nat) (f : Nat × Nat → Nat × Nat) : State :=
  { s with eau := { s.eau with charge := tset (0, 0) s.eau.charge t (f (s.charged t)) } }

/-- MASK bit `k` of a profile (R443). -/
def ProfRec.expects (r : ProfRec) (k : Nat) : Bool := bit (r.mask.getD (k / 32) 0) (k % 32)

/-- The set bits of a number below `2 ^ n`. -/
def maskCount : Nat → Nat → Nat
  | 0, _ => 0
  | n + 1, x => x % 2 + maskCount n (x / 2)

/-- The expected count (R443). -/
def ProfRec.expected (r : ProfRec) : Nat := (r.mask.map (maskCount 32)).sum

/-- Whether an expected position lies beyond 63, so that H is 4 (R463). -/
def ProfRec.h4 (r : ProfRec) : Bool := (r.mask.drop 2).any (fun m => decide (m ≠ 0))

/-- The header size H (R463). -/
def hLines (h4 : Bool) : Nat := if h4 then 4 else 1

/-- A profile may be fed by tenant `t` (R446). -/
def Profile.feeds (p : Profile) (t : Nat) : Bool :=
  decide (p.owner = t) || (decide (p.rec_.feed = 1) && p.rec_.feeders.contains t) || decide (p.rec_.feed = 2)

/-- The pool hands out slots: enabled, not draining (R453), its record not lost (R661). -/
def Pool.live (q : Pool) : Bool := q.owned && q.rec_.en && q.drain.isNone && !q.bad

/-- The lowest slot from `i` upward that is not in `skip`. -/
def freshSlot : Nat → List Nat → Nat → Nat
  | 0, _, i => i
  | k + 1, skip, i => if skip.contains i then freshSlot k skip (i + 1) else i

/-- The slot at the head of the free list and the pool without it (R452). -/
def Pool.takeSlot (q : Pool) : Option (Nat × Pool) :=
  let i := freshSlot (q.skip.length + 1) q.skip q.fresh
  if i < q.rec_.nslots then some (i, { q with fresh := i + 1, used := q.used + 1 })
  else match q.freed with
    | j :: rest => some (j, { q with fresh := q.rec_.nslots, freed := rest, used := q.used + 1 })
    | [] => none

/-- Free slots of a pool (R487). -/
def Pool.free (q : Pool) : Nat :=
  (q.rec_.nslots - q.fresh - (q.skip.filter (fun i => decide (q.fresh ≤ i))).length) + q.freed.length

/-- A slot returns to the tail of its pool's free list and is no longer charged (R452, R456). -/
def State.freeSlot (s : State) (pool slot : Nat) : State :=
  let q := s.pool pool
  (s.setPool pool { q with freed := q.freed ++ [slot], used := q.used - 1 }).modCharge q.owner (fun c => (c.1, c.2 - 1))

/-- Take a slot from the head of a pool's list and charge it. -/
def State.allocSlot (s : State) (pool : Nat) : Option (Nat × State) :=
  match (s.pool pool).takeSlot with
  | none => none
  | some (i, q) => some (i, (s.setPool pool q).modCharge q.owner (fun c => (c.1, c.2 + 1)))

/-- A slot leaves circulation until its pool is next committed or rebuilt; it stays charged (R456, R661). -/
def State.loseSlot (s : State) (pool : Nat) : State :=
  let q := s.pool pool
  s.setPool pool { q with used := q.used - 1, lost := q.lost + 1 }

/-- The physical line of slot `k` of a pool (R451). -/
def Pool.slotLine (q : Pool) (k : Nat) : Nat := q.rec_.base + k * q.rec_.slotLines

/-! ### The assembly table (R457 to R463) -/

/-- The set of a key (R458). -/
def eauSet (p : Nat) (w : Word) : Nat := (w.toNat % 65536 / 16 + 293 * (w.toNat / 65536) + 677 * p) % 4096

/-- The table key of a way. -/
def wayKey (bank set way : Nat) : Nat := (bank * 4096 + set) * 8 + way

/-- The entry at a table key; none is FREE. -/
def State.entry (s : State) (k : Nat) : Option Entry := tget none s.eau.table k

/-- Write the entry at a table key. -/
def State.setEntry (s : State) (k : Nat) (e : Option Entry) : State := { s with eau := { s.eau with table := tset none s.eau.table k e } }

/-- A SPENT entry whose assembly deadline is due has left the table (R459). -/
def State.gone (s : State) (e : Entry) : Bool := decide (e.st = AsmState.spent) && Stamp.le e.adl.at_ s.now

/-- The live entry of a key: its table key and the entry (R460 step 4). -/
def State.findEntry (s : State) (bank p : Nat) (w : Word) : Option (Nat × Entry) :=
  (List.range 8).findSome? (fun i =>
    let k := wayKey bank (eauSet p w) i
    match s.entry k with
    | some e => if e.profile = p ∧ e.key = w ∧ !(s.gone e) then some (k, e) else none
    | none => none)

/-- The earlier of two dues, the first winning a tie. -/
def dueFirst (a b : Nat × Entry) : Nat × Entry := if Stamp.le a.2.adl.at_ b.2.adl.at_ then a else b

/-- The entry with the earliest assembly deadline among `l`. -/
def earliestEntry : List (Nat × Entry) → Option (Nat × Entry)
  | [] => none
  | a :: t => match earliestEntry t with
    | none => some a
    | some b => some (dueFirst a b)

/-- The victim list of a bank (R463). -/
def State.victimsOf (s : State) (bank : Nat) : List Victim := tget [] s.eau.victims bank

/-- Write the victim list of a bank. -/
def State.setVictims (s : State) (bank : Nat) (l : List Victim) : State := { s with eau := { s.eau with victims := tset [] s.eau.victims bank l } }

/-- The index of the key with the earliest assembly deadline in a victim list, the lower index winning a tie. -/
def earliestVictim (l : List Victim) : Nat :=
  ((l.zipIdx).foldl (fun (m : Option (Victim × Nat)) e => match m with
    | none => some e
    | some x => if Stamp.le x.1.adl.at_ e.1.adl.at_ then some x else some e) none).elim 0 (·.2)

/-- A key enters the victim list of its bank (R463): keys whose ADL is due have left it, and a full list loses the key with the earliest
ADL. An increment of EAU_VICTOVF raises event bit 3, one at its maximum nothing (R484, R690). -/
def State.addVictim (s : State) (bank : Nat) (v : Victim) : State :=
  let l := (s.victimsOf bank).filter (fun x => !(Stamp.le x.adl.at_ s.now))
  if l.length < 64 then s.setVictims bank (l ++ [v])
  else
    let s1 := (s.setVictims bank (l.set (earliestVictim l) v)).eauCount 8
    if tget 0 s.eau.cnt 8 < 2 ^ 36 - 1 then s1.eauEvent 3 else s1

/-! ### Coach writes (R464, R473 to R475) -/

/-- A run of words of the coach in slot `slot` of pool `pool`, from word number `w` of the slot. A pool whose record a wake has reset
has no lines (R478; log entry 48). -/
def State.coachWrite (s : State) (pool slot w : Nat) (ws : List Word) : State :=
  if (s.pool pool).rec_.en then s.writeRun s.mem.scAgentEau unitEau (12 * (s.pool pool).slotLine slot + w) ws else s

/-- Data words of a coach (R464). -/
def coachCap (q : Pool) (h4 : Bool) : Nat := (q.rec_.slotLines - hLines h4) * 12

/-- Append a record (R464, R475): the words used after it, whether it was cut short or left out, and the state. -/
def State.append (s : State) (pool slot : Nat) (h4 : Bool) (used source : Nat) (c : Carriage) : Nat × Bool × State :=
  let cap := coachCap (s.pool pool) h4
  let ws := c.words
  let head := fun (trunc : Nat) => [word (source + hLength c.header * 2 ^ 16 + hMode c.header * 2 ^ 28 + trunc * 2 ^ 29), s.nowShort]
  let at_ := 12 * hLines h4 + used
  if used + 2 + ws.length ≤ cap then (used + 2 + ws.length, false, s.coachWrite pool slot at_ (head 0 ++ ws))
  else if used + 2 ≤ cap then (cap, true, s.coachWrite pool slot at_ (head 1 ++ ws.take (cap - used - 2)))
  else (used, true, s)

/-- The header flags (R474). -/
def headFlags (k : EndKind) (oversize task h4 : Bool) : Nat :=
  (match k with | .complete => 1 | .partial_ => 2 | .evicted => 4) + b2n oversize * 8 + b2n task * 16 + b2n h4 * 32

/-- The header line of an event (R474). -/
def headerLine (key : Word) (ev : Event) (used : Nat) (first end_ adl : Word) (bitmap : Nat) : List Word :=
  [key, word (ev.profile + ev.owner * 2 ^ 10 + ev.cls * 2 ^ 22), word ev.flags, word (ev.arrived + ev.expected * 2 ^ 16), word used,
   first, end_, adl, ev.ddl.short, word bitmap, word (bitmap / 2 ^ 36 % 2 ^ 28), word (ev.slot + ev.pool * 2 ^ 16)]

/-- The event of an ended entry, as the close queue carries it. -/
def Entry.event (e : Entry) (k : EndKind) : Event :=
  { id := e.id, profile := e.profile, owner := e.owner, cls := e.cls, pool := e.pool, slot := e.slot, stamp := e.stamp, ddl := e.ddl, flags := headFlags k e.oversize false e.h4, arrived := e.arrived, expected := e.expected, lane := e.lane }

/-! ### Bitmap lines (R465, R473) -/

/-- The twelve words of a bitmap line. -/
def bitmapWords (b : Nat) : List Word := (List.range 12).map (fun j => word (b / 2 ^ (36 * j)))

/-- The bitmap line that twelve words make: position `k` of its 432 is bit `k mod 36` of word `k div 36`. -/
def bitmapOf : List Word → Nat
  | [] => 0
  | w :: t => w.toNat + 2 ^ 36 * bitmapOf t

/-- The bitmap lines that a bank caches (R465). -/
def State.bitmapsOf (s : State) (bank : Nat) : List BmLines := tget [] s.eau.bitmaps bank

/-- Write the cache of a bank. -/
def State.setBitmaps (s : State) (bank : Nat) (l : List BmLines) : State := { s with eau := { s.eau with bitmaps := tset [] s.eau.bitmaps bank l } }

/-- The cached lines of event `id`. -/
def State.bitmapFind (s : State) (bank id : Nat) : Option BmLines := (s.bitmapsOf bank).find? (fun b => decide (b.id = id))

/-- An event takes a place in the cache of its bank: of 64 in use, a free choice goes (log entry 46). -/
def State.bitmapPlace (s : State) (bank : Nat) (b : BmLines) : State :=
  let l := s.bitmapsOf bank
  if l.any (fun x => decide (x.id = b.id)) then s.setBitmaps bank (l.map (fun x => if x.id = b.id then b else x))
  else if l.length < 64 then s.setBitmaps bank (l ++ [b])
  else
    let d := s.draw 64
    d.2.setBitmaps bank (l.eraseIdx d.1 ++ [b])

/-- An event leaves the cache of its bank. -/
def State.bitmapDrop (s : State) (bank id : Nat) : State := s.setBitmaps bank ((s.bitmapsOf bank).filter (fun b => decide (b.id ≠ id)))

/-- Bitmap line `i` (0 to 2) of an entry: from the cache, or read through the system cache on a miss; none when the line is poisoned
(R465, R660). -/
def State.bitmapGet (s : State) (bank : Nat) (e : Entry) (i : Nat) : Option Nat × State :=
  let b := (s.bitmapFind bank e.id).getD ⟨e.id, [none, none, none]⟩
  match b.lines.getD i none with
  | some v => (some v, s)
  | none =>
    match s.agentRead s.mem.scAgentEau unitEau ((s.pool e.pool).slotLine e.slot + 1 + i) with
    | (none, s1) => (none, s1)
    | (some ws, s1) => (some (bitmapOf ws), s1.bitmapPlace bank { b with lines := b.lines.set i (some (bitmapOf ws)) })

/-- Position `pos` of an entry with H = 4 has arrived: its line, which holds `v`, changes in the cache and is written back (R465). -/
def State.bitmapSet (s : State) (bank : Nat) (e : Entry) (pos v : Nat) : State :=
  let i := pos / 432
  let v1 := v ||| 2 ^ (pos % 432)
  let b := (s.bitmapFind bank e.id).getD ⟨e.id, [none, none, none]⟩
  (s.bitmapPlace bank { b with lines := b.lines.set i (some v1) }).coachWrite e.pool e.slot (12 + 12 * i) (bitmapWords v1)

/-- The bitmap lines that the cache holds of an ended event with H = 4 are written last (R468), and leave it. -/
def State.bitmapFlush (s : State) (bank : Nat) (e : Entry) : State :=
  match s.bitmapFind bank e.id with
  | none => s
  | some b =>
    let s1 := [0, 1, 2].foldl (fun (s : State) i => match b.lines.getD i none with
      | some v => s.coachWrite e.pool e.slot (12 + 12 * i) (bitmapWords v)
      | none => s) s
    s1.bitmapDrop bank e.id

/-- The coach of an ended entry gets its bitmap lines, for H = 4, and its header line (R468). -/
def State.writeHeader (s : State) (bank : Nat) (e : Entry) (r : EndRec) : State :=
  let s1 := if e.h4 then s.bitmapFlush bank e else s
  s1.coachWrite e.pool e.slot 0 (headerLine e.key (e.event r.kind) e.used e.first r.stamp e.adl.at_.short e.bitmap)

/-! ### Ends (R467 to R471) -/

/-- The close queue has room (R468). -/
def State.closeRoom (s : State) : Bool := decide (s.eau.closeQ.length < 4096)

/-- An event enters the close queue. -/
def State.closePush (s : State) (ev : Event) : State :=
  let s1 := { s with eau := { s.eau with closeQ := s.eau.closeQ ++ [ev] } }
  if s1.closeRoom then s1 else s1.eauEvent 1

/-- The entry at `k` ends as `kind` (R467): CLOSING with its header written, or still ASSEMBLING with the end recorded while the
close queue is full (R469). -/
def State.endEntry (s : State) (k : Nat) (e : Entry) (kind : EndKind) : State :=
  let d := s.fresh
  let r : EndRec := ⟨kind, s.nowShort, d.1⟩
  let s1 := d.2.eauCount (match kind with | .complete => 1 | .partial_ => 2 | .evicted => 3)
  if s1.closeRoom then (s1.setEntry k (some { e with st := .closing, ended := some r })).writeHeader (k / 32768) e r
  else s1.setEntry k (some { e with ended := some r })

/-- The end of an evicted entry (R462, R470): it leaves its way for the eviction buffer of its bank, and its key enters the
victim list. -/
def State.evictEntry (s : State) (bank k : Nat) (e : Entry) : State :=
  let d := s.fresh
  let r : EndRec := ⟨.evicted, s.nowShort, d.1⟩
  let s1 := (d.2.eauCount 3).writeHeader bank e r
  let s2 := (s1.setEntry k none).modCharge e.owner (fun c => (c.1 - 1, c.2))
  let s3 := { s2 with eau := { s2.eau with evict := tset none s2.eau.evict bank (some (e.event .evicted, d.1)) } }
  s3.addVictim bank ⟨e.profile, e.key, false, e.adl⟩

/-- What a bank has ended and not yet placed in the close queue: entries with their table keys, and the eviction buffer. -/
def State.endedOf (s : State) (bank : Nat) : List (Nat × Option (Nat × Entry × EndRec)) :=
  let es := s.eau.table.filterMap (fun x => match x.2 with
    | some e => match e.ended with
      | some r => if x.1 / 32768 = bank ∧ e.st ≠ AsmState.spent then some (r.order, some (x.1, e, r)) else none
      | none => none
    | none => none)
  match tget none s.eau.evict bank with
  | some v => (v.2, none) :: es
  | none => es

/-- The ended event of a bank that ended first. -/
def firstEnded (l : List (Nat × Option (Nat × Entry × EndRec))) : Option (Option (Nat × Entry × EndRec)) :=
  (l.foldl (fun (m : Option (Nat × Option (Nat × Entry × EndRec))) x => match m with
    | none => some x
    | some y => if x.1 < y.1 then some x else some y) none).map (·.2)

/-- An ended event of a bank enters the close queue when it has room (R468 to R470): its entry becomes SPENT after COMPLETE and
FREE after PARTIAL. -/
def State.closeEntry (s : State) (bank : Nat) : State :=
  if !s.closeRoom then s
  else match firstEnded (s.endedOf bank) with
    | none => s
    | some none =>
      match tget none s.eau.evict bank with
      | some v => ({ s with eau := { s.eau with evict := tset none s.eau.evict bank none } }).closePush v.1
      | none => s
    | some (some (k, e, r)) =>
      let s1 := if e.st = AsmState.assembling then s.writeHeader bank e r else s
      let next := match r.kind with
        | .complete => some { e with st := .spent }
        | _ => none
      ((s1.setEntry k next).modCharge e.owner (fun c => (c.1 - 1, c.2))).closePush (e.event r.kind)

def execCloseQueueEntry (bank : Nat) (s : State) : Res := .next (if s.glb.rEau then s.closeEntry bank else s)

/-- The entries of a bank in ascending order of set and way. -/
def State.bankEntries (s : State) (bank : Nat) : List (Nat × Entry) :=
  s.eau.table.filterMap (fun x => match x.2 with
    | some e => if x.1 / 32768 = bank then some (x.1, e) else none
    | none => none)

/-- The entry that ends next in a bank: of those whose assembly deadline is due the earliest stamp (R94), then ascending set and way
(R467). -/
def State.asmNext (s : State) (bank : Nat) : Option (Nat × Entry) :=
  earliestEntry ((s.bankEntries bank).filter (fun x => decide (x.2.st = .assembling) && x.2.ended.isNone && s.isDue x.2.adl))

/-- The next event of a bank whose assembly deadline is due ends PARTIAL (R467). -/
def State.assemblyDue (s : State) (bank : Nat) : State :=
  match s.asmNext bank with
  | some (k, e) => s.endEntry k e .partial_
  | none => s

def execAssemblyDeadline (bank : Nat) (s : State) : Res := .next (if s.glb.rEau then s.assemblyDue bank else s)

def execSpentEntryExpiry (bank : Nat) (s : State) : Res :=
  .next (match (s.bankEntries bank).find? (fun x => decide (x.2.st = .spent) && s.isDue x.2.adl) with
    | some (k, _) => s.setEntry k none
    | none => s)

def execVictimKeyExpiry (bank : Nat) (s : State) : Res :=
  .next (match (s.victimsOf bank).find? (fun v => s.isDue v.adl) with
    | some v => s.setVictims bank ((s.victimsOf bank).erase v)
    | none => s)

/-! ### Taking a cart (R460) -/

/-- The outcome of a cart: its status, the arrived count for INFO, and the state; none while the cart waits at its bank. -/
abbrev CartOut := Option (Nat × Nat × State)

/-- A DUPLICATE or STRAGGLER cart is counted; a straggler is also delivered to the owner's mailbox (R472). -/
def State.straggle (s : State) (c : Carriage) (p : Nat) (x : Profile) : State :=
  let s1 := s.eauCount 5
  if !x.rec_.strag then s1
  else
    let head := [word (hLength c.header), word (hMode c.header)] ++ twoWords (hSeq c.header) ++ twoWords (c.body 24 8)
      ++ [word c.origin.source, s1.nowShort, word (2 ^ 35 + c.body 16 2), word p, 0, 0]
    let r := s1.deliver x.owner head c.words
    if r.1 = 0 then r.2.2 else r.2.2.eauCount 10

/-- Steps 1 and 2 of R460: the failing status. -/
def State.feedCheck (s : State) (c : Carriage) (x : Profile) : Option Nat :=
  if !x.owned then some 2
  else if s.dead x.owner || x.susp || x.bad then some 3
  else if !(x.feeds c.tenant) then some 3
  else none

/-- Step 7 of R460, with MAXENT when `entry`: the failing status. -/
def State.roomCheck (s : State) (x : Profile) (entry : Bool) : Option Nat :=
  let q := s.pool x.rec_.pool
  let lim := s.quota x.owner
  let ch := s.charged x.owner
  if x.release.isSome then some 2
  else if !q.live || q.takeSlot.isNone then some 5
  else if (entry && decide (lim.maxEnt ≤ ch.1)) || decide (lim.maxSlots ≤ ch.2) then some 5
  else none

/-- Step 11 and 12 of R460 for the entry at `k`, whose position `pos` is new; for H = 4 its bitmap line holds `v`. -/
def State.cartAppend (s : State) (c : Carriage) (k pos v : Nat) (e : Entry) : Nat × Nat × State :=
  let r := s.append e.pool e.slot e.h4 e.used (c.body 16 2) c
  let e1 := { e with used := r.1, oversize := e.oversize || r.2.1, arrived := e.arrived + 1, bitmap := if e.h4 then 0 else e.bitmap ||| 2 ^ pos }
  let s1 := if e.h4 then r.2.2.bitmapSet (k / 32768) e pos v else r.2.2
  let s2 := (s1.setEntry k (some e1)).eauCount 0
  let s3 := if r.2.1 then s2.eauCount 6 else s2
  let s4 := if e1.arrived = e1.expected then s3.endEntry k e1 .complete else s3
  (if r.2.1 then 11 else 0, e1.arrived, s4)

/-- Step 10 of R460: the arrival bits among which bit `pos` (modulo 432 for H = 4) is the position's; none when their line is
poisoned. -/
def State.arrivals (s : State) (k pos : Nat) (e : Entry) : Option Nat × State :=
  if e.h4 then s.bitmapGet (k / 32768) e (pos / 432) else (some e.bitmap, s)

/-- Steps 9 to 12 of R460 for a cart that finds the entry at `k`. A poisoned bitmap line ends the event PARTIAL (R660). -/
def State.cartFound (s : State) (c : Carriage) (p pos k : Nat) (x : Profile) (e : Entry) : Nat × Nat × State :=
  let shown := if e.st = AsmState.spent then 0 else e.arrived
  match e.st, e.ended with
  | .assembling, none =>
    if Stamp.le e.adl.at_ s.now then (7, shown, s.straggle c p x)
    else match s.arrivals k pos e with
      | (none, s1) => (7, shown, (s1.endEntry k e .partial_).straggle c p x)
      | (some v, s1) =>
        if bit v (if e.h4 then pos % 432 else pos) then (6, shown, s1.eauCount 4) else s1.cartAppend c k pos v e
  | _, some r => if r.kind = .complete then (6, shown, s.eauCount 4) else (7, shown, s.straggle c p x)
  | _, none => (6, shown, s.eauCount 4)

/-- The way for a new key (R462): a FREE way, a SPENT way or an ASSEMBLING way of the owner, with the entry to be displaced. -/
def State.chooseEntry (s : State) (bank set owner : Nat) : Option (Nat × Option Entry) :=
  let ways := (List.range 8).map (fun i => let k := wayKey bank set i; (k, s.entry k))
  match ways.find? (fun w => match w.2 with | none => true | some e => s.gone e) with
  | some w => some (w.1, none)
  | none =>
    let es := ways.filterMap (fun w => w.2.map (fun e => (w.1, e)))
    match earliestEntry (es.filter (fun x => decide (x.2.st = .spent))) with
    | some x => some (x.1, some x.2)
    | none =>
      match earliestEntry (es.filter (fun x => decide (x.2.st = .assembling) && x.2.ended.isNone && decide (x.2.owner = owner))) with
      | some x => some (x.1, some x.2)
      | none => none

/-- Step 8 of R460: the entry of a new event, in the way that has been chosen for it. -/
def State.createEntry (s : State) (bank p k : Nat) (w : Word) (x : Profile) (old : Option Entry) : Option (Entry × State) :=
  let s0 := match old with
    | none => s
    | some e => if e.st = AsmState.spent then (s.setEntry k none).addVictim bank ⟨e.profile, e.key, true, e.adl⟩ else s.evictEntry bank k e
  match s0.allocSlot x.rec_.pool with
  | none => none
  | some (slot, s1) =>
    let st := s1.resolve w
    let d := s1.fresh
    let l := d.2.dolCreate x.rec_.cls st
    let e : Entry := { st := .assembling, profile := p, key := w, id := d.1, owner := x.owner, cls := x.rec_.cls, pool := x.rec_.pool, slot := slot, h4 := x.rec_.h4, stamp := st, adl := l.2.due (l.2.after st x.rec_.asmdl), ddl := l.2.after st x.rec_.dispdl, expected := x.rec_.expected, arrived := 0, bitmap := 0, used := 0, oversize := false, first := l.2.nowShort, lane := l.1, ended := none }
    let s2 := (l.2.setEntry k (some e)).modCharge x.owner (fun c => (c.1 + 1, c.2))
    some (e, if e.h4 then (s2.coachWrite e.pool slot 12 (List.replicate 36 0)).bitmapPlace bank ⟨e.id, [some 0, some 0, some 0]⟩ else s2)

/-- The handling of a FRAGMENT at its bank (R460). -/
def State.cart (s : State) (bank : Nat) (c : Carriage) : CartOut :=
  let p := c.body 18 2
  let w := word (c.body 24 8)
  let x := s.prof p
  let src := c.body 16 2
  let pos := src - x.rec_.srcbase
  match s.feedCheck c x with
  | some st => some (st, 0, s)
  | none =>
    if src < x.rec_.srcbase ∨ x.rec_.nsrc ≤ pos ∨ !(x.rec_.expects pos) then some (2, 0, s)
    else match s.findEntry bank p w with
      | some (k, e) => some (s.cartFound c p pos k x e)
      | none =>
        match (s.victimsOf bank).find? (fun v => decide (v.profile = p) && decide (v.key = w) && !(Stamp.le v.adl.at_ s.now)) with
        | some v => if v.complete then some (6, 0, s.eauCount 4) else some (12, 0, s)
        | none =>
          if Stamp.le (s.after (s.resolve w) x.rec_.asmdl) s.now then some (7, 0, s.straggle c p x)
          else match s.roomCheck x true with
            | some st => some (st, 0, if st = 5 then s.eauCount 7 else s)
            | none =>
              match s.chooseEntry bank (eauSet p w) x.owner with
              | none => some (5, 0, s.eauCount 7)
              | some (k, old) =>
                let evicts := match old with | some e => decide (e.st = AsmState.assembling) | none => false
                if evicts && (!s.closeRoom || (tget none s.eau.evict bank).isSome) then none
                else match s.createEntry bank p k w x old with
                  | none => some (5, 0, s.eauCount 7)
                  | some (e, s1) => some (s1.cartAppend c k pos 0 e)

/-! ### Errors of the tables (R661) -/

/-- A record of class 13 for table `t`: corrected, or lost. -/
def State.tableRecord (s : State) (unit t : Nat) (lost : Bool) : State := s.record 13 (b2n lost) unit none none none t

/-- The entry at `k` is lost: no coach, and its slot leaves circulation. -/
def State.entryLost (s : State) (k : Nat) (e : Entry) : State :=
  let s1 := (s.setEntry k none).bitmapDrop (k / 32768) e.id
  if e.st = AsmState.spent then s1
  else ((s1.modCharge e.owner (fun c => (c.1 - 1, c.2))).loseSlot e.pool).eauCount 9

/-- The error in table `t` (0 assembly entry, 1 profile, 2 pool, 3 quota) that the lookup of a carriage meets. -/
def State.eauTable (s : State) (bank : Nat) (c : Carriage) (t : Nat) : State :=
  let p := c.body 18 2
  let x := s.prof p
  match s.tblErr t with
  | .none => s
  | .corrected => (s.tblMet t).tableRecord unitEau t false
  | .lost =>
    let s1 := (s.tblMet t).tableRecord unitEau t true
    match t with
    | 0 => match s.findEntry bank p (word (c.body 24 8)) with
      | some (k, e) => s1.entryLost k e
      | none => s1
    | 1 => s1.setProf p { x with bad := x.owned }
    | 2 => s1.setPool x.rec_.pool { s1.pool x.rec_.pool with bad := (s1.pool x.rec_.pool).owned }
    | _ => { s1 with eau := { s1.eau with quotas := tset none s1.eau.quotas x.owner none } }

/-- A FRAGMENT at its bank, and what its lookups in the four tables meet (R460, R661). -/
def State.cartMeets (s : State) (bank : Nat) (c : Carriage) : CartOut := ([0, 1, 2, 3].foldl (fun s t => s.eauTable bank c t) s).cart bank c

/-- The handling of a TASK (R476); for H = 4 its bitmap lines are zero. -/
def State.task (s : State) (c : Carriage) : CartOut :=
  let p := c.body 18 2
  let w := word (c.body 24 8)
  let x := s.prof p
  match s.feedCheck c x with
  | some st => some (st, 0, s)
  | none =>
    match s.roomCheck x false with
    | some st => some (st, 0, if st = 5 then s.eauCount 7 else s)
    | none =>
      if !s.closeRoom then none
      else match s.allocSlot x.rec_.pool with
        | none => some (5, 0, s.eauCount 7)
        | some (slot, s1) =>
          let st := s1.resolve w
          let d := s1.fresh
          let l := d.2.dolCreate x.rec_.cls st
          let h4 := x.rec_.h4
          let r := l.2.append x.rec_.pool slot h4 0 0 c
          let ev : Event := { id := d.1, profile := p, owner := x.owner, cls := x.rec_.cls, pool := x.rec_.pool, slot := slot, stamp := st, ddl := s1.after st x.rec_.dispdl, flags := headFlags .complete r.2.1 true h4, arrived := 1, expected := 1, lane := l.1 }
          let b := if h4 then r.2.2.coachWrite x.rec_.pool slot 12 (List.replicate 36 0) else r.2.2
          let s2 := b.coachWrite x.rec_.pool slot 0 (headerLine w ev r.1 s1.nowShort s1.nowShort (s1.after st x.rec_.asmdl).short 0)
          let s3 := (s2.eauCount 1).closePush ev
          some (if r.2.1 then 11 else 0, 1, s3)

/-- The port whose staging queue bank `b` serves next: the first after the token with a carriage waiting (R583). -/
def State.stagedPort (s : State) (b : Nat) : Option Nat :=
  let tok := tget 3 s.rng.bankTok b
  firstAfter [0, 1, 2, 3] tok (fun p => !(s.stagingQ p b).isEmpty)

/-- Bank `b` handles the head of the staging queue that its token gives, when its opcode is `op`: by `f`, with INFO of two octets
(R420). -/
def State.bankServe (s : State) (b op : Nat) (f : State → Carriage → CartOut) : State :=
  match s.stagedPort b with
  | none => s
  | some p =>
    match s.stagingQ p b with
    | [] => s
    | c :: rest =>
      if c.op ≠ op then s
      else match f s c with
        | none => s
        | some (st, n, s1) =>
          let s2 := { s1.setStaging p b rest with rng := { (s1.setStaging p b rest).rng with bankTok := tset 3 s1.rng.bankTok b p } }
          (s2.complete c st (octetsLe 2 n)).pump p

def execFragment (bank : Nat) (s : State) : Res :=
  .next (s.bankServe bank 0x01 (fun s c => s.cartMeets bank c))

/-- A TASK at its bank, and what its lookups of profile, pool and quota meet (R476, R661). -/
def State.taskMeets (s : State) (bank : Nat) (c : Carriage) : CartOut := ([1, 2, 3].foldl (fun s t => s.eauTable bank c t) s).task c

def execTask (bank : Nat) (s : State) : Res := .next (s.bankServe bank 0x03 (fun s c => s.taskMeets bank c))

/-! ### PROFILE_SET, POOL_SET, QUOTA_SET (R442 to R456, R691) -/

/-- A word below `2 ^ n`. -/
def fits (ws : List Word) (i n : Nat) : Bool := decide ((ws.getD i 0).toNat < 2 ^ n)

/-- The profile record of 40 words; none when a bit that R442 leaves unnamed is set. -/
def parseProf (ws : List Word) : Option ProfRec :=
  let w := fun i => (ws.getD i 0).toNat
  let ok := fits ws 0 21 && fits ws 1 27 && fits ws 2 24 && fits ws 3 24 && fits ws 4 24 && fits ws 5 24 && fits ws 6 1 && fits ws 7 0
    && (List.range 32).all (fun i => fits ws (8 + i) 32)
  if !ok then none
  else some { en := bit (w 0) 0, feed := bits (w 0) 2 1, cls := bits (w 0) 8 3, pool := bits (w 0) 20 9, srcbase := bits (w 1) 15 0, nsrc := bits (w 1) 26 16, asmdl := w 2, dispdl := w 3, feeders := [bits (w 4) 11 0, bits (w 4) 23 12, bits (w 5) 11 0, bits (w 5) 23 12], strag := bit (w 6) 0, mask := (List.range 32).map (fun i => w (8 + i)) }

/-- The profile passes the slot-size test of R463 with pool slots of `lines` lines. -/
def ProfRec.sizeOk (r : ProfRec) (lines : Nat) : Bool := decide (hLines r.h4 + 1 ≤ lines)

/-- The contents of a profile record are in range for owner `t` (R444). -/
def State.profOk (s : State) (t : Nat) (r : ProfRec) : Bool :=
  let q := s.pool r.pool
  decide (1 ≤ r.nsrc ∧ r.nsrc ≤ 1024 ∧ r.srcbase + r.nsrc ≤ 65536)
    && (List.range 1024).all (fun k => !(r.expects k) || decide (k < r.nsrc)) && decide (0 < r.expected)
    && decide (1 ≤ r.asmdl) && decide (r.asmdl ≤ r.dispdl)
    && decide (r.feed ≠ 3) && (decide (r.feed ≠ 1) || r.feeders.all (fun f => s.tenantExists f))
    && q.owned && q.rec_.en && decide (q.owner = t)
    && (match q.drain with | some d => d.2.1.en | none => true)
    && r.sizeOk q.rec_.slotLines

/-- Profiles owned by tenant `t`. -/
def State.profsOf (s : State) (t : Nat) : Nat := (s.eau.profs.filter (fun e => e.2.owned && decide (e.2.owner = t))).length

/-- Pools owned by tenant `t`. -/
def State.poolsOf (s : State) (t : Nat) : Nat := (s.eau.pools.filter (fun e => e.2.owned && decide (e.2.owner = t))).length

/-- A PROFILE_SET in the order of R691; none while it waits for the profile's lease. -/
def State.profileSet (s : State) (c : Carriage) : Option State :=
  let p := c.body 16 2
  let x := s.prof p
  match parseProf c.words with
  | none => some (s.complete c 2 [])
  | some r =>
    if x.owned ∧ x.owner ≠ c.tenant ∧ c.tenant ≠ 0 then some (s.complete c 3 [])
    else if !r.en then
      if !x.owned then some (s.complete c 0 [])
      else if x.release.isSome then none
      else some (s.setProf p { x with release := some (c, s.leaseFor s.lk.eauLease) })
    else
      let owner := if x.owned then x.owner else c.tenant
      if !(s.profOk owner r) then some (s.complete c 2 [])
      else if !x.owned ∧ (s.quota owner).maxProf ≤ s.profsOf owner then some (s.complete c 5 [])
      else if x.release.isSome then none
      else some ((s.setProf p { x with owned := true, owner := owner, rec_ := r, bad := x.bad && decide (c.tenant ≠ x.owner) }).complete c 0 [])

/-- The pool record of 8 words; none when a bit that R449 leaves unnamed is set. -/
def parsePool (ws : List Word) : Option PoolRec :=
  let w := fun i => (ws.getD i 0).toNat
  let ok := fits ws 0 1 && fits ws 1 32 && fits ws 2 13 && fits ws 3 17 && fits ws 5 0 && fits ws 6 0 && fits ws 7 0
  if !ok then none else some { en := bit (w 0) 0, base := w 1, slotLines := w 2, nslots := w 3, vbase := w 4 }

/-- The lines of a pool record. -/
def PoolRec.last (r : PoolRec) : Nat := r.base + r.nslots * r.slotLines

/-- The contents of a record for pool `q` of owner `t` are in range (R450). -/
def State.poolOk (s : State) (q t : Nat) (r : PoolRec) : Bool :=
  let g := s.quota t
  decide (1 ≤ r.slotLines ∧ r.slotLines ≤ 4096 ∧ 1 ≤ r.nslots ∧ r.nslots ≤ 65536 ∧ r.vbase % 48 = 0)
    && decide (g.grantBase ≤ r.base ∧ r.last ≤ g.grantBase + g.grantLines)
    && s.eau.pools.all (fun e => decide (e.1 = q) || !e.2.rec_.en || decide (r.last ≤ e.2.rec_.base) || decide (e.2.rec_.last ≤ r.base))
    && decide (r.last ≤ s.popLines)
    && s.eau.profs.all (fun e => !e.2.owned || decide (e.2.rec_.pool ≠ q) || e.2.rec_.sizeOk r.slotLines)

/-- Slots of all enabled pools but `q`. -/
def State.slotsBut (s : State) (q : Nat) : Nat :=
  s.eau.pools.foldl (fun (a : Nat) e => if e.1 ≠ q ∧ e.2.rec_.en then a + e.2.rec_.nslots else a) 0

/-- A pool with a new record: its free list is all its slots in ascending order (R452). -/
def poolWith (owner : Nat) (r : PoolRec) : Pool := if r.en then { owned := true, owner := owner, rec_ := r } else {}

/-- A POOL_SET in the order of R691; none while it waits for the pool's lease. -/
def State.poolSet (s : State) (c : Carriage) : Option State :=
  let q := c.body 16 2
  let x := s.pool q
  match parsePool c.words with
  | none => some (s.complete c 2 [])
  | some r =>
    if x.owned ∧ x.owner ≠ c.tenant ∧ c.tenant ≠ 0 then some (s.complete c 3 [])
    else if !r.en then
      if !x.owned then some (s.complete c 0 [])
      else if s.eau.profs.any (fun e => e.2.owned && decide (e.2.rec_.pool = q)) then some (s.complete c 2 [])
      else if x.drain.isSome then none
      else some (s.setPool q { x with drain := some (c, r, s.leaseFor s.lk.eauLease) })
    else
      let owner := if x.owned then x.owner else c.tenant
      if !(s.poolOk q owner r) then some (s.complete c 2 [])
      else if !x.owned ∧ (s.quota owner).maxPool ≤ s.poolsOf owner then some (s.complete c 5 [])
      else if 1048576 < s.slotsBut q + r.nslots then some (s.complete c 5 [])
      else if !x.owned then some ((s.setPool q (poolWith owner r)).complete c 0 [])
      else if x.drain.isSome then none
      else some (s.setPool q { x with drain := some (c, r, s.leaseFor s.lk.eauLease) })

/-- A QUOTA_SET (R455, R456). -/
def State.quotaSet (s : State) (c : Carriage) : State :=
  let ws := c.words
  let t := c.body 16 2
  let w := fun i => (ws.getD i 0).toNat
  let ok := fits ws 0 20 && fits ws 1 21 && fits ws 2 25 && !(bit (w 2) 11) && fits ws 3 32 && fits ws 4 32 && fits ws 5 0 && fits ws 6 0 && fits ws 7 0
  let q : Quota := { maxEnt := w 0, maxSlots := w 1, maxProf := bits (w 2) 10 0, maxPool := bits (w 2) 24 12, grantBase := w 3, grantLines := w 4 }
  let inside := s.eau.pools.all (fun e => !e.2.owned || decide (e.2.owner ≠ t) || !e.2.rec_.en
    || decide (q.grantBase ≤ e.2.rec_.base ∧ e.2.rec_.last ≤ q.grantBase + q.grantLines))
  if !ok || decide (s.popLines < q.grantBase + q.grantLines) || !inside then s.complete c 2 []
  else ({ s with eau := { s.eau with quotas := tset none s.eau.quotas t (some q) } }).complete c 0 []

/-- The EAU carries out the head of its queue of critical carriages when its opcode is `op` (R454). -/
def State.eauTake (s : State) (op : Nat) (f : State → Carriage → Option State) : State :=
  match s.rng.eauQ with
  | [] => s
  | c :: rest =>
    if c.op ≠ op then s
    else match f { s with rng := { s.rng with eauQ := rest } } c with
      | some s1 => s1
      | none => s

/-- The service core hands its carriages on, and the EAU carries out the head of its queue when its opcode is `op` (R27, R454). -/
def State.eauServe (s : State) (op : Nat) (f : State → Carriage → Option State) : State := s.handOver.eauTake op f

def execProfileSet (s : State) : Res := .next (s.eauServe 0x10 State.profileSet)

def execPoolSet (s : State) : Res := .next (s.eauServe 0x12 State.poolSet)

def execQuotaSet (s : State) : Res := .next (s.eauServe 0x11 (fun s c => some (s.quotaSet c)))

/-- Step 3 of R448: the profile is freed once no entry of it is ASSEMBLING or CLOSING. -/
def State.releaseDone (s : State) (p : Nat) : State :=
  let x := s.prof p
  match x.release with
  | none => s
  | some (c, _) =>
    let busy := s.eau.table.any (fun e => match e.2 with | some e => decide (e.profile = p) && decide (e.st ≠ AsmState.spent) | none => false)
    if busy then s
    else
      let s1 := { s with eau := { s.eau with
        table := s.eau.table.filter (fun e => match e.2 with | some e => decide (e.profile ≠ p) | none => true)
        victims := tmap [] (fun _ l => l.filter (fun v => decide (v.profile ≠ p))) s.eau.victims } }
      (s1.setProf p {}).complete c 0 []

def execProfileReleaseComplete (profile : Nat) (s : State) : Res := .next (s.releaseDone profile)

/-- Step 3 of R453: the new record commits once no slot of the pool is allocated; slots out of circulation come back (R661). -/
def State.drainDone (s : State) (q : Nat) : State :=
  let x := s.pool q
  match x.drain with
  | none => s
  | some (c, r, _) =>
    if x.used ≠ 0 then s
    else (((s.setPool q (poolWith x.owner r)).modCharge x.owner (fun n => (n.1, n.2 - x.lost)))).complete c 0 []

def execPoolDrainCommit (pool : Nat) (s : State) : Res := .next (s.drainDone pool)

/-- Expiry or break of a profile's edit lease (R448 step 4). -/
def State.profBreak (s : State) (p : Nat) : State :=
  let x := s.prof p
  match x.release with
  | none => s
  | some (c, _) => ((s.setProf p { x with release := none }).eauEvent 2).complete c 10 []

/-- Expiry or break of a pool's edit lease (R453 step 4). -/
def State.poolBreak (s : State) (q : Nat) : State :=
  let x := s.pool q
  match x.drain with
  | none => s
  | some (c, _, _) => ((s.setPool q { x with drain := none }).eauEvent 2).complete c 10 []

def execProfileLeaseExpiry (profile : Nat) (s : State) : Res :=
  .next (match (s.prof profile).release with
    | some (_, l) => if s.leaseOver l then s.profBreak profile else s
    | none => s)

def execPoolLeaseExpiry (pool : Nat) (s : State) : Res :=
  .next (match (s.pool pool).drain with
    | some (_, _, l) => if s.leaseOver l then s.poolBreak pool else s
    | none => s)

/-! ### Tenant death (R477) -/

/-- The entries and eviction buffers of the profiles of tenant `t` are discarded, and its profiles suspended. -/
def State.eauKill (s : State) (t : Nat) : State :=
  let s1 := { s with eau := { s.eau with profs := tmap {} (fun _ x => if x.owned ∧ x.owner = t then { x with susp := true } else x) s.eau.profs } }
  let s2 := s1.eau.table.foldl (fun (s : State) x => match x.2 with
    | some e =>
      if e.owner ≠ t then s
      else if e.st = AsmState.spent then s.setEntry x.1 none
      else ((((s.setEntry x.1 none).bitmapDrop (x.1 / 32768) e.id).modCharge e.owner (fun c => (c.1 - 1, c.2))).freeSlot e.pool e.slot).eauCount 9
    | none => s) s1
  s2.eau.evict.foldl (fun (s : State) x => match x.2 with
    | some v =>
      if v.1.owner ≠ t then s
      else (({ s with eau := { s.eau with evict := tset none s.eau.evict x.1 none } }).freeSlot v.1.pool v.1.slot).eauCount 9
    | none => s) s2

/-- A revive lifts the suspension (R477). -/
def State.eauRevive (s : State) (t : Nat) : State :=
  { s with eau := { s.eau with profs := tmap {} (fun _ x => if x.owned ∧ x.owner = t then { x with susp := false } else x) s.eau.profs } }

/-! ### Power (R478) -/

/-- The words of a profile as the save area holds them: the record of R442, with the owner and the suspensions in unnamed bits of word 0
(log entry 48). -/
def Profile.words (x : Profile) : List Word :=
  let r := x.rec_
  let f := fun i => r.feeders.getD i 0
  [word (b2n r.en + r.feed * 2 + r.cls * 8 + r.pool * 2 ^ 9 + x.owner * 2 ^ 21 + b2n x.owned * 2 ^ 33 + b2n x.susp * 2 ^ 34 + b2n x.bad * 2 ^ 35),
   word (r.srcbase + r.nsrc * 2 ^ 16), word r.asmdl, word r.dispdl, word (f 0 + f 1 * 2 ^ 12), word (f 2 + f 3 * 2 ^ 12), word (b2n r.strag), 0]
    ++ (List.range 32).map (fun i => word (r.mask.getD i 0))

/-- The profile that forty words of the save area make. -/
def profileOf (ws : List Word) : Profile :=
  let w := fun i => (ws.getD i 0).toNat
  if !(bit (w 0) 33) then {}
  else
    { owned := true, owner := bits (w 0) 32 21, susp := bit (w 0) 34, bad := bit (w 0) 35
      rec_ := { en := bit (w 0) 0, feed := bits (w 0) 2 1, cls := bits (w 0) 8 3, pool := bits (w 0) 20 9, srcbase := bits (w 1) 15 0, nsrc := bits (w 1) 26 16, asmdl := bits (w 2) 23 0, dispdl := bits (w 3) 23 0, feeders := [bits (w 4) 11 0, bits (w 4) 23 12, bits (w 5) 11 0, bits (w 5) 23 12], strag := bit (w 6) 0, mask := (List.range 32).map (fun i => bits (w (8 + i)) 31 0) } }

/-- The words of a pool as the save area holds them: the record of R449, with the owner in word 5. -/
def Pool.words (q : Pool) : List Word :=
  let r := q.rec_
  [word (b2n r.en), word r.base, word r.slotLines, word r.nslots, word r.vbase, word (q.owner + b2n q.owned * 2 ^ 12 + b2n q.bad * 2 ^ 13), 0, 0]

/-- The pool that eight words of the save area make; its free list is rebuilt. -/
def poolOf (ws : List Word) : Pool :=
  let w := fun i => (ws.getD i 0).toNat
  if !(bit (w 5) 12) then {}
  else { owned := true, owner := bits (w 5) 11 0, bad := bit (w 5) 13, rec_ := { en := bit (w 0) 0, base := bits (w 1) 31 0, slotLines := bits (w 2) 12 0, nslots := bits (w 3) 16 0, vbase := w 4 } }

/-- The words of a quota record as the save area holds them: the record of R455, marked in word 5. -/
def Quota.words (q : Quota) : List Word :=
  [word q.maxEnt, word q.maxSlots, word (q.maxProf + q.maxPool * 2 ^ 12), word q.grantBase, word q.grantLines, 1, 0, 0]

/-- The quota record that eight words of the save area make; none, its reset values, where none was written. -/
def quotaOf (ws : List Word) : Option Quota :=
  let w := fun i => (ws.getD i 0).toNat
  if !(bit (w 5) 0) then none
  else some { maxEnt := bits (w 0) 19 0, maxSlots := bits (w 1) 20 0, maxProf := bits (w 2) 10 0, maxPool := bits (w 2) 24 12, grantBase := bits (w 3) 31 0, grantLines := bits (w 4) 31 0 }

/-- The free list of a pool in order (R452). -/
def Pool.freeList (q : Pool) : List Nat :=
  ((List.range q.rec_.nslots).filter (fun i => decide (q.fresh ≤ i) && !(q.skip.contains i))) ++ q.freed

/-- The words of a list from word number `w` upward. -/
def numbered (w : Nat) (ws : List Word) : List (Nat × Word) := (ws.zipIdx).map (fun e => (w + e.2, e.1))

/-- The save area: 96,256 lines hold 1,024 profiles of 40 words, 4,096 pools and 4,096 quotas of 8, and 1,048,576 free-list words. -/
def saveLines : Nat := 96256
def savePools : Nat := 40 * 1024
def saveQuotas : Nat := savePools + 8 * 4096
def saveFree : Nat := saveQuotas + 8 * 4096

/-- The words of the free lists, pool after pool, a place for each slot. -/
def Eau.freeWords (e : Eau) : List (Nat × Word) :=
  (e.pools.foldl (fun (a : Nat × List (Nat × Word)) x =>
    if x.2.owned ∧ x.2.rec_.en then (a.1 + x.2.rec_.nslots, a.2 ++ numbered a.1 (x.2.freeList.map (fun i => word (2 ^ 35 + i)))) else a) (saveFree, [])).2

/-- What the save area takes: the words that are not zero, by their place in it. -/
def Eau.saveWords (e : Eau) : List (Nat × Word) :=
  (e.profs.flatMap (fun x => numbered (40 * x.1) x.2.words) ++ e.pools.flatMap (fun x => numbered (savePools + 8 * x.1) x.2.words)
    ++ e.quotas.flatMap (fun x => match x.2 with | some q => numbered (saveQuotas + 8 * x.1) q.words | none => [])
    ++ e.freeWords).filter (fun x => decide (x.2 ≠ 0))

/-- Whole lines [l, l + n) of DRAM are written with the given words, the others zero, all untagged, past the caches; a line on an offlined
channel is not written (R566). -/
def Mem.fillLines (m : Mem) (l n : Nat) (ws : List (Nat × Word)) : Mem :=
  let here := fun (x : Nat) => decide (l ≤ x) && decide (x < l + n) && !(m.isGone x)
  { m with
    mem := tsplice (12 * l) (12 * (l + n)) ((ws.filter (fun e => here (e.1 / 12))).map (fun e => (e.1, ⟨e.2, false⟩))
      ++ m.mem.filter (fun e => decide (12 * l ≤ e.1) && decide (e.1 < 12 * (l + n)) && !(here (e.1 / 12)))) m.mem
    stale := tkeep (fun x => !(here x)) m.stale
    mid := tkeep (fun x => !(here x)) m.mid
    poison := tkeep (fun x => !(here x)) m.poison
    upsets := m.upsets.filter (fun e => !(here e.1))
    notes := m.notes ++ (List.range n).map (fun i => if m.isGone (l + i) then .gone (l + i) else .write (l + i)) }

/-- Step 1 of R478: the records and free lists go to the save area; lines beyond populated DRAM get the error response of R30. -/
def State.eauSave (s : State) : State :=
  let l := s.lk.saveLine
  let n := min saveLines (s.popLines - l)
  let s1 := s.onMem (fun m => m.fillLines l n (s.eau.saveWords.map (fun e => (12 * l + e.1, e.2))))
  if n < saveLines then s1.record 5 1 unitEau none none (some (48 * (l + n))) 0 else s1

/-- The save area is read: its errors are recorded, and lines that are lost are poisoned (R64, R660). -/
def State.saveRead (s : State) : State :=
  let l := s.lk.saveLine
  let n := min saveLines (s.popLines - l)
  let s1 := s.onMem (fun m => (List.range n).foldl (fun (m : Mem) i => (m.readHome ⟨m.scAgentEau, unitEau⟩ (l + i)).2) m)
  if n < saveLines then s1.record 5 1 unitEau none none (some (48 * (l + n))) 0 else s1

/-- `n` words of the save area from word `w`; none when a line of them is poisoned, gone or absent (R660). -/
def State.saveGet (s : State) (w n : Nat) : Option (List Word) :=
  let a := 12 * s.lk.saveLine + w
  if (List.range n).any (fun i => s.bad ((a + i) / 12) || decide (s.popLines ≤ (a + i) / 12)) then none
  else some ((List.range n).map (fun i => (s.mem.word (a + i)).data))

/-- The keys below `k` whose words in the save area, `n` each from word `w`, are readable and make something other than `d`. -/
def State.saveTable {α : Type} [DecidableEq α] (s : State) (d : α) (w n k : Nat) (f : List Word → α) : Tbl α :=
  (List.range k).filterMap (fun i => match s.saveGet (w + n * i) n with
    | some ws => if f ws = d then none else some (i, f ws)
    | none => none)

/-- Step 4 of R609 for the EAU: records saved for PEAT when EAU_SAVE.EN is 1, entries kept in the banks of `keep` only. -/
def State.eauSleep (s : State) (peat : Bool) (keep : Nat) : State :=
  let kept := s.eau.table.filter (fun x => peat && keep.testBit (x.1 / 32768))
  let s1 := if peat && s.lk.saveEn then s.eauSave else s
  { s1 with eau := { table := kept } }

/-- A pool's free list rebuilt in ascending order without the slots of retained entries (R478). -/
def rebuildPool (table : Tbl (Option Entry)) (q : Nat) (x : Pool) : Pool :=
  let held := table.filterMap (fun e => match e.2 with | some e => if e.pool = q ∧ e.st ≠ AsmState.spent then some e.slot else none | none => none)
  { x with fresh := 0, skip := held, freed := [], used := held.length, lost := 0, drain := none }

/-- The EAU on wake (R478): records from the save area, or at reset when EAU_SAVE.EN is 0, free lists rebuilt, charges of the retained
entries, entries of banks not in `keep` lost. -/
def State.eauWake (s : State) (keep : Nat) : State :=
  let s := if s.lk.saveEn then s.saveRead else s
  let table := s.eau.table.filter (fun x => keep.testBit (x.1 / 32768))
  let e : Eau :=
    if s.lk.saveEn then
      { profs := s.saveTable {} 0 40 1024 profileOf
        pools := tmap {} (rebuildPool table) (s.saveTable {} savePools 8 4096 poolOf)
        quotas := s.saveTable none saveQuotas 8 4096 quotaOf
        table := table }
    else { table := table }
  table.foldl (fun (s : State) x => match x.2 with
    | some e => if e.st = AsmState.spent then s else s.modCharge e.owner (fun c => (c.1 + 1, c.2 + 1))
    | none => s) { s with eau := e }

/-- Every retained entry whose assembly deadline is due ends at once, in the order of R467 (R478). -/
def State.eauCatchUp (s : State) : State :=
  s.eau.table.foldl (fun (s : State) x => match x.2 with
    | some e => if e.st = AsmState.assembling ∧ e.ended.isNone ∧ Stamp.le e.adl.at_ s.now then s.endEntry x.1 e .partial_ else s
    | none => s) s

end Sys2Proof.Machine
end

