-- ==== Sys2Proof/Machine/Ddu.lean ====
section
/-!
DEFINITION. The deadline dispatch unit: descriptors (R488, R490), selection (R494 to R499), what TAKE and DONE do to a context's
coaches (R181, R182, R501, R504).
-/

namespace Sys2Proof.Machine

open Sys2Proof

/-- Count in DDU counter `k` (R517): 0 ACCEPTED, 1 TAKEN, 2 SHED; one that saturates raises source 129. -/
def State.dduCount (s : State) (k : Nat) : State :=
  let r := cntBump (2 ^ 36 - 1) s.ddu.cnt k
  let s1 := { s with ddu := { s.ddu with cnt := r.1 } }
  if r.2 then s1.raise 129 else s1

/-- The end flags of an event as a record ORs them (R505). -/
def Event.recFlags (e : Event) : Nat := Sys2Proof.Machine.recFlags (bit e.flags 1) (bit e.flags 2) (bit e.flags 3)

/-- The DDU takes the event at the head of the close queue while a descriptor is free (R488, R490). -/
def State.dduTake (s : State) : State :=
  match s.eau.closeQ with
  | [] => s
  | e :: rest =>
    if 65536 ≤ s.ddu.descs.length ∨ !s.glb.rDdu then s
    else
      let d : Desc := ⟨e, s.tbu.edges⟩
      let s1 := { s with eau := { s.eau with closeQ := rest }, ddu := { s.ddu with descs := s.ddu.descs ++ [d] } }
      (s1.dolAccept e.lane e.stamp e.recFlags).dduCount 0

/-- An error in the descriptor of the event that the DDU has just accepted (R661): the event is discarded, and its slot leaves
circulation. -/
def State.descError (s : State) (e : Event) : State :=
  match s.tblErr 4 with
  | .none => s
  | .corrected => (s.tblMet 4).tableRecord unitDdu 4 false
  | .lost =>
    (({ s.tblMet 4 with ddu := { s.ddu with descs := s.ddu.descs.filter (fun x => decide (x.ev.id ≠ e.id)) } }).loseSlot e.pool).tableRecord unitDdu 4 true

/-- The DDU accepts an event, whose descriptor may meet an error. -/
def State.dduTakes (s : State) : State :=
  match s.eau.closeQ with
  | [] => s
  | e :: _ => if 65536 ≤ s.ddu.descs.length ∨ !s.glb.rDdu then s else s.dduTake.descError e

def execDduAccept (s : State) : Res := .next s.dduTakes

/-- The serve set of class `n` (R493). -/
def State.serves (s : State) (n c : Nat) : Bool :=
  match (s.dduCtl n).serve with
  | none => decide (n = c)
  | some m => m.testBit c

/-- Descriptor `d` is eligible for a TAKE through dispatch capability `b` (R494). -/
def State.dduEligible (s : State) (b : Cap) (d : Desc) : Bool :=
  s.serves (b.otype - 4032) d.ev.cls && (decide (d.ev.owner = b.tenant) || b.perm 11)

/-- The dispatch capability of a waiting TAKE of context `n`, with its destination and length; none when it may receive no event
because it holds 8 coaches (R499) or because an exception at its boundary comes first (R228, R261). -/
def State.waitingTake (s : State) (n : Nat) : Option (KReg × Cap × Nat) :=
  let c := s.ctx n
  match c.run with
  | .take a b len => if c.coaches.length < 8 ∧ s.boundaryDue n = false then some (a, c.kget b, len) else none
  | _ => none

/-- SHARE of a class, at most 256 (R516). -/
def State.share (s : State) (c : Nat) : Nat := min (s.dduCtl c).share 256

/-- The earlier deadline of two descriptors; the first, accepted earlier, on a tie (R497). -/
def descFirst (a b : Desc) : Desc := if Stamp.le a.ev.ddl b.ev.ddl then a else b

/-- The descriptor with the earliest deadline. -/
def earliestDesc : List Desc → Option Desc
  | [] => none
  | a :: t => match earliestDesc t with
    | none => some a
    | some b => some (descFirst a b)

/-- The selection of R497: the event picked and the credits after the grant. -/
def State.select (s : State) (b : Cap) : Option (Desc × Tbl Nat) :=
  let elig := s.ddu.descs.filter (fun d => s.dduEligible b d)
  let classes := (List.range 64).filter (fun c => elig.any (fun d => decide (d.ev.cls = c)))
  let cr := classes.foldl (fun (t : Tbl Nat) c => tset 0 t c (min (tget 0 t c + s.share c) 16384)) s.ddu.credit
  let owed := classes.filter (fun c => decide (256 ≤ tget 0 cr c))
  let cand := if owed.isEmpty then elig else elig.filter (fun d => owed.contains d.ev.cls)
  (earliestDesc cand).map (fun d => (d, tset 0 cr d.ev.cls (tget 0 cr d.ev.cls - 256)))

/-- The coach capability of slot `k` of a pool (R451). -/
def coachCapability (q : Pool) (owner k : Nat) : Cap :=
  let base := word (q.rec_.vbase + 48 * q.rec_.slotLines * k)
  { tag := true, cursor := base, base := base, len := word (48 * q.rec_.slotLines), attr := word (owner * 2 ^ 24 + 2 ^ 12) }

/-- G24 to G28 after TAKE (R181, R489). -/
def Ctx.putDescriptor (c : Ctx) (ev : Event) : Ctx :=
  ((((c.gset 24 ev.stamp.short).gset 25 (word (ev.profile + ev.owner * 2 ^ 10 + ev.cls * 2 ^ 22))).gset 26
    (word (ev.flags + ev.arrived * 2 ^ 6 + ev.expected * 2 ^ 17))).gset 27 ev.ddl.short).gset 28 0

/-- The context leaves the waiting order (R500). -/
def State.leaveWaiting (s : State) (n : Nat) : State := { s with ddu := { s.ddu with waiting := s.ddu.waiting.filter (· ≠ n) } }

/-- TAKE of context `n` with destination `a` and length `len` receives the event of `d` (R181, R499, R501): its coach capability,
the descriptor registers, the current deadline; TAKE retires. -/
def State.grant (s : State) (n : Nat) (a : KReg) (len : Nat) (d : Desc) (credit : Tbl Nat) : State :=
  let ev := d.ev
  let q := s.pool ev.pool
  let cap := coachCapability q ev.owner ev.slot
  let dl := s.due ev.ddl
  let s1 := { s with ddu := { s.ddu with descs := s.ddu.descs.filter (fun x => decide (x.ev.id ≠ ev.id)), credit := credit } }
  let s2 := ((s1.leaveWaiting n).dolTaken ev.lane ev.stamp).dduCount 1
  let s3 := s2.modCtx n (fun c =>
    let c1 := (c.putDescriptor ev).kset a cap
    { c1 with deadline := some dl, dl := false, run := .run, coaches := c.coaches ++ [⟨ev, cap.base.toNat, cap.len.toNat, false⟩] })
  s3.retireTo n ((s3.ctx n).pcc.cursor + word len)

/-- One grant: the oldest waiting TAKE with an eligible event (R495). -/
def State.grantOne (s : State) : State :=
  match s.ddu.waiting.findSome? (fun n => match s.waitingTake n with
    | some t => (s.select t.2.1).map (fun r => (n, t, r))
    | none => none) with
  | some (n, t, r) => s.grant n t.1 t.2.2 r.1 r.2
  | none => s

def execTakeGrant (s : State) : Res := .next s.grantOne

/-- TAKE ends with an alarm instead of an event (R181). -/
def State.takeAlarm (s : State) (n : Nat) (a : KReg) (len : Nat) : State :=
  let s1 := (s.leaveWaiting n).modCtx n (fun c =>
    let c1 := (((((c.kset a {}).gset 24 0).gset 25 0).gset 26 0).gset 27 0).gset 28 1
    { c1 with alarmPending := false, run := .run })
  s1.retireTo n ((s1.ctx n).pcc.cursor + word len)

/-- When a queued event sheds: at DDL + GRACE, with GRACE as it stands; never with the largest GRACE (R490, R516). -/
def State.shedDue (s : State) (d : Desc) : Option Due :=
  let g := (s.dduCtl d.ev.cls).grace
  if g = 16777215 then none else some ⟨s.after d.ev.ddl g, d.edge⟩

/-- Whether a queued event's DDL + GRACE is due. -/
def State.shedNow (s : State) (d : Desc) : Bool := match s.shedDue d with | some x => s.isDue x | none => false

/-- The event of a class that sheds next: the earliest stamp (R94), then the order of acceptance (R490). -/
def State.shedNext (s : State) (cls : Nat) : Option Desc :=
  (s.ddu.descs.filter (fun d => decide (d.ev.cls = cls) && s.shedNow d)).foldl (fun m d => match m with
    | none => some d
    | some e => if Stamp.le ((s.shedDue e).elim e.ev.ddl (·.at_)) ((s.shedDue d).elim d.ev.ddl (·.at_)) then some e else some d) none

/-- The next event of a class whose DDL + GRACE is due is shed (R490). -/
def State.shed (s : State) (cls : Nat) : State :=
  match s.shedNext cls with
  | none => s
  | some d =>
    let s1 := { s with ddu := { s.ddu with descs := s.ddu.descs.filter (fun x => decide (x.ev.id ≠ d.ev.id)) } }
    ((s1.freeSlot d.ev.pool d.ev.slot).dduCount 2).raise 128

def execEventShed (cls : Nat) (s : State) : Res := .next (s.shed cls)

/-- A coach dispatched to context `n` is freed with no decision posted (R292, R504). -/
def State.freeCoach (s : State) (n : Nat) (c : Coach) : State :=
  (s.freeSlot c.ev.pool c.ev.slot).modCtx n (fun x => { x with coaches := x.coaches.erase c })

/-- Every coach of context `n` is freed. -/
def State.freeCoaches (s : State) (n : Nat) : State := (s.ctx n).coaches.foldl (fun (s : State) c => s.freeCoach n c) s

/-- The coach of context `n` that a capability names (R182, R183): equal BASE and LENGTH. -/
def Ctx.coachOf (c : Ctx) (k : Cap) : Option Coach := c.coaches.find? (fun x => decide (x.base = k.base.toNat) && decide (x.len = k.len.toNat))

end Sys2Proof.Machine
end

