-- ==== Sys2Proof/Machine/Merge.lean ====
section
/-!
DEFINITION. The merging buffers of the cores: stores enter them (R215, R360, R361), entries drain (R214), and loads of the owning
context see them (R213, R360).
-/

namespace Sys2Proof.Machine

open Sys2Proof

/-- The entries `es` of core `k` drain in order (R214): the contexts of which an entry was found with bad parity, and the state after. Such
an entry is discarded, as are the later ones of its context (R215, R364); the core is still to be offlined. -/
def State.drainList (s : State) (k : Nat) (es : List MEntry) : List Nat × State :=
  es.foldl (fun (r : List Nat × State) e =>
    if r.1.contains e.ctx then r
    else if e.bad then (r.1 ++ [e.ctx], r.2.modCore k (fun c => { c with stop := c.stop ++ [some e.ctx] }))
    else (r.1, r.2.onMem (fun m => m.drainEntry (r.2.asker e.ctx) k e))) ([], s)

/-- The entries of core `k` that satisfy `p` drain, and `rest` stays. -/
def State.drainSome (s : State) (k : Nat) (es rest : List MEntry) : State :=
  let r := s.drainList k es
  r.2.modCore k (fun c => { c with merge := rest.filter (fun e => !(r.1.contains e.ctx)) })

/-- Every store of context `n` becomes visible (R214, R215). -/
def State.drainCtx (s : State) (n : Nat) : State :=
  let es := (s.core (coreOf n)).merge
  s.drainSome (coreOf n) (es.filter (fun e => decide (e.ctx = n))) (es.filter (fun e => decide (e.ctx ≠ n)))

/-- Every entry of core `k` drains (R361). -/
def State.drainCore (s : State) (k : Nat) : State := s.drainSome k (s.core k).merge []

/-- The core of context `n` is still to be offlined: none of its contexts goes on (R364, R388). -/
def State.stopping (s : State) (n : Nat) : Bool := !(s.core (coreOf n)).stop.isEmpty

/-- The entries of context `n` become eligible to drain (R361). -/
def State.makeEligible (s : State) (n : Nat) : State :=
  s.modCore (coreOf n) (fun c => { c with merge := c.merge.map (fun e => if e.ctx = n then { e with elig := true } else e) })

/-- Merge stored bytes into an entry; the words touched lose the tag a capability store had given them, and `capW` are
the words that a capability store of a tagged register now writes (R58, R59). -/
def MEntry.join (e : MEntry) (off : Nat) (bs : List Byte) (capW : List Nat) : MEntry :=
  let touched := (List.range bs.length).map (fun i => (off + i) / 4)
  { e with bytes := (bs.zipIdx).foldl (fun t b => tset none t (off + b.2) (some b.1)) e.bytes
           capW := (e.capW.filter (fun w => !(touched.contains w))) ++ capW }

/-- The place of the most recent entry of context `n` in a merging buffer. -/
def lastEntry (es : List MEntry) (n : Nat) : Option (MEntry × Nat) := (es.zipIdx.filter (fun e => decide (e.1.ctx = n))).getLast?

/-- A store of context `n` into line `line` (R215, R360, R361): it joins the context's most recent entry when that holds
the line, else takes a new entry, after the oldest has drained when all eight are in use. `frame` marks a frame write (R269). -/
def State.bufferStore (s : State) (n line off : Nat) (bs : List Byte) (capW : List Nat) (va : Word) (stream : Bool)
    (frame : Option (Nat × Word) := none) : State :=
  let k := coreOf n
  match lastEntry (s.core k).merge n with
  | some (e, i) =>
    if e.line = line then
      s.modCore k (fun c => { c with merge := c.merge.modify i (fun f => { f.join off bs capW with frame := f.frame.or frame }) })
    else alloc s k
  | none => alloc s k
where
  /-- Take a new entry; the context's earlier entries become eligible, and every entry once all eight are in use. -/
  alloc (s : State) (k : Nat) : State :=
    let es := (s.core k).merge
    let s1 := if 8 ≤ es.length then s.drainSome k (es.take 1) (es.drop 1) else s
    let old := (s1.core k).merge.map (fun e => if e.ctx = n then { e with elig := true } else e)
    let new : MEntry := (({ line := line, ctx := n, bytes := [], capW := [], first := va, stream := stream, elig := false, frame := frame } : MEntry).join off bs capW)
    let all := old ++ [new]
    s1.modCore k (fun c => { c with merge := if 8 ≤ all.length then all.map (fun e => { e with elig := true }) else all })

/-- The byte at `pa` as context `n` sees it: its latest buffered store, else memory (R213, R360). -/
def State.seenByte (s : State) (n pa : Nat) : Byte :=
  let es := ((s.core (coreOf n)).merge.filter (fun e => decide (e.ctx = n) && decide (e.line = pa / 48))).reverse
  match es.findSome? (fun e => tget none e.bytes (pa % 48)) with
  | some b => b
  | none => s.mem.byte pa

/-- The tag of word number `w` as context `n` sees it. -/
def State.seenTag (s : State) (n w : Nat) : Bool :=
  let es := ((s.core (coreOf n)).merge.filter (fun e => decide (e.ctx = n) && decide (e.line = w / 12))).reverse
  match es.find? (fun e => (List.range 4).any (fun i => (tget none e.bytes (4 * (w % 12) + i)).isSome)) with
  | some e => e.capW.contains (w % 12)
  | none => (s.mem.word w).tag

/-- The entry of context `n` from which a load of `len` bytes at `pa` would take bytes with bad parity (R364), with its place. -/
def State.badEntry (s : State) (n pa len : Nat) : Option (MEntry × Nat) :=
  (s.core (coreOf n)).merge.zipIdx.find? (fun e => e.1.bad && decide (e.1.ctx = n) && decide (e.1.line = pa / 48) &&
    (List.range len).any (fun i => (tget none e.1.bytes (pa % 48 + i)).isSome))

/-- A parity error in entry number `i` of context `n` is detected at forwarding (R364): the entry is discarded with the later ones of its
context, and the core is still to be offlined. -/
def State.dropBad (s : State) (n i : Nat) : State :=
  s.modCore (coreOf n) (fun c => { c with
    stop := c.stop ++ [some n]
    merge := c.merge.take i ++ (c.merge.drop (i + 1)).filter (fun e => decide (e.ctx ≠ n)) })

/-- The contexts but `n` whose stores to line `l` are still in merging buffers: those stores become visible core by core as a free value says, with the
other stores of the same contexts (R214, R215, R227). -/
def State.showLine (s : State) (n l : Nat) : State :=
  (s.cores.filter (fun e => e.2.merge.any (fun f => decide (f.ctx ≠ n) && decide (f.line = l)))).foldl (fun (s : State) e =>
    let d := s.draw 2
    if d.1 = 0 then d.2
    else
      let es := (d.2.core e.1).merge
      let who := (es.filter (fun f => decide (f.ctx ≠ n) && decide (f.line = l))).map (·.ctx)
      d.2.drainSome e.1 (es.filter (fun f => who.contains f.ctx)) (es.filter (fun f => !(who.contains f.ctx)))) s

end Sys2Proof.Machine
end

