-- ==== Sys2Proof/Machine/Translate.lean ====
section
/-!
DEFINITION. Blocks, page walks, the TLB and the walk cache (R328 to R351).
-/

namespace Sys2Proof.Machine

open Sys2Proof

/-- Block register `n` of a context (R328). -/
def Ctx.block (c : Ctx) (n : Nat) : Block := tget {} c.bd n

/-- The last whole virtual line (R331). -/
def lastLine : Nat := 1431655764

/-- A block covers a virtual line (R331). -/
def Block.covers (b : Block) (l : Nat) : Bool :=
  b.en && decide (b.line ≤ l) && decide (l < b.line + b.lines) && decide (l ≤ lastLine)

/-- The lowest-numbered block that covers virtual line `l` (R335). -/
def Ctx.findBlock (c : Ctx) (l : Nat) : Option (Nat × Block) :=
  ((List.range 16).find? (fun n => (c.block n).covers l)).map (fun n => (n, c.block n))

/-- The regions of R28 with populated DRAM told apart from the rest (R29, R30). -/
inductive PaKind where
  | dram | reg | rom | nowhere
deriving DecidableEq, Repr

/-- The region of a physical address (R28, R29, R336). -/
def State.paKind (s : State) (pa : Nat) : PaKind :=
  if 2 ^ 45 ≤ pa then .nowhere
  else if pa / 2 ^ 40 = 0 then (if pa / 48 < s.popLines then .dram else .nowhere)
  else if pa / 2 ^ 40 = 0b11100 then (if pa % 2 ^ 40 < 2 ^ 20 then .reg else .nowhere)
  else if pa / 2 ^ 40 = 0b11110 then (if pa % 2 ^ 40 < 2 ^ 18 then .rom else .nowhere)
  else .nowhere

/-- Whether the region bits name register space or ROM (R340). -/
def deviceRegion (pa : Nat) : Bool := decide (pa / 2 ^ 40 = 0b11100) || decide (pa / 2 ^ 40 = 0b11110)

/-- The physical byte base of a direct block (R329). -/
def Block.physBase (b : Block) : Nat := b.phi * 2 ^ 36 + b.target.toNat

/-- A lookup in the TLB or the walk cache of a core (R343). -/
def findTlb (t : List TlbE) (ctx block idx : Nat) : Option Nat :=
  (t.find? (fun e => decide (e.ctx = ctx) && decide (e.block = block) && decide (e.idx = idx))).map (·.ppn)

/-- A fill of a structure of `size` entries: an invalid entry when there is one, else a pseudo-random victim (R345). -/
def State.fillTlb (s : State) (size : Nat) (t : List TlbE) (e : TlbE) : List TlbE × State :=
  if t.length < size then (t ++ [e], s)
  else let d := s.draw size; (t.set d.1 e, d.2)

/-- A page-table read at the cluster L2 (R341): the entry, or nothing when it gets the error response of R30 or a poisoned
line (R340). -/
def State.tableRead (s : State) (n pa : Nat) : Option Word × State :=
  if s.paKind pa ≠ .dram then (none, s.record 5 1 (cluOf n) (some n) none (some pa) 0)
  else
    let r := s.access (some n) (cluOf n) (pa / 48) pa (fun m => m.l2Read (s.asker n) (cluOf n) (pa / 48) false)
    match r.1 with
    | some _ => (none, r.2)
    | none => (some (r.2.mem.word (pa / 4)).data, r.2)

/-- The level-2 step of a walk for page `p` of block `b`, from a level-2 table (R340, R344); `fill` says whether it fills the TLB. -/
def State.walk2 (s : State) (n b p ppn2 : Nat) (fill : Bool) : Except Nat Nat × State :=
  match s.tableRead n (12288 * ppn2 + 4 * (p % 3072)) with
  | (none, s1) => (.error 19, s1)
  | (some e2, s1) =>
    if !e2.getLsbD 35 then (.error 10, s1)
    else
      let q := e2.toNat % 2 ^ 32
      let k := coreOf n
      if !fill then (.ok q, s1)
      else
        let f := s1.fillTlb 64 (s1.core k).tlb ⟨n % 4, b, p, q⟩
        (.ok q, f.2.modCore k (fun c => { c with tlb := f.1 }))

/-- An invalidated translation that an access before the next FENCE.T may still use (R350): which of the two is used is a
free value. -/
def State.oldOr (s : State) (n b idx : Nat) (t : List TlbE) : Option Nat × State :=
  match findTlb t (n % 4) b idx with
  | none => (none, s)
  | some q => let d := s.draw 2; (if d.1 = 1 then some q else none, d.2)

/-- A walk from level 1 for page `p` of block `b` (R340, R344); `fill` says whether it fills the walk cache and the TLB. -/
def State.walk1 (s : State) (n b : Nat) (bl : Block) (p : Nat) (fill : Bool) : Except Nat Nat × State :=
  let k := coreOf n
  let t1 := 12288 * (bl.target.toNat % 2 ^ 32)
  if deviceRegion t1 then (.error 11, s)
  else match s.tableRead n (t1 + 4 * (p / 3072)) with
    | (none, s1) => (.error 19, s1)
    | (some e1, s1) =>
      if !e1.getLsbD 35 then (.error 9, s1)
      else
        let t2 := e1.toNat % 2 ^ 32
        if deviceRegion (12288 * t2) then (.error 11, s1)
        else if !fill then s1.walk2 n b p t2 false
        else
          let f := s1.fillTlb 32 (s1.core k).walk ⟨n % 4, b, p / 3072, t2⟩
          (f.2.modCore k (fun c => { c with walk := f.1 })).walk2 n b p t2 true

/-- The page translation of page `p` of block `b` of context `n` (R340, R343, R344, R350): the page number of the data
page, or a cause. A walk from an invalidated walk-cache entry fills nothing, so that FENCE.T leaves only new walks. -/
def State.pageOf (s : State) (n b : Nat) (bl : Block) (p : Nat) : Except Nat Nat × State :=
  let k := coreOf n
  match findTlb (s.core k).tlb (n % 4) b p with
  | some q => (.ok q, s)
  | none =>
    match s.oldOr n b p (s.ctx n).invalT with
    | (some q, s0) => (.ok q, s0)
    | (none, s0) =>
      match findTlb (s0.core k).walk (n % 4) b (p / 3072) with
      | some t2 => s0.walk2 n b p t2 true
      | none =>
        match s0.oldOr n b (p / 3072) (s0.ctx n).invalW with
        | (some t2, s1) => s1.walk2 n b p t2 false
        | (none, s1) => s1.walk1 n b bl p true

/-- The physical address of virtual byte `a` through block `b` (R337, R340): step 10 of R241. -/
def State.physOf (s : State) (n b : Nat) (bl : Block) (a : Nat) : Except Nat Nat × State :=
  let off := a - 48 * bl.line
  if bl.paged then
    match s.pageOf n b bl (off / 12288) with
    | (.ok q, s1) => (.ok (12288 * q + off % 12288), s1)
    | (.error c, s1) => (.error c, s1)
  else (.ok (bl.physBase + off), s)

/-- The physical address of byte `a` through an old content `bl` of block register `b`, for bytes fetched before the register was written
(R332): nothing is filled. -/
def State.physOld (s : State) (n b : Nat) (bl : Block) (a : Nat) : Except Nat Nat × State :=
  let off := a - 48 * bl.line
  if bl.paged then
    match s.walk1 n b bl (off / 12288) false with
    | (.ok q, s1) => (.ok (12288 * q + off % 12288), s1)
    | (.error c, s1) => (.error c, s1)
  else (.ok (bl.physBase + off), s)

/-- Invalidate the TLB entries of context `n` that satisfy `p` and its walk-cache entries that satisfy `q`; until the next
FENCE.T an access may still use them when `keep` says so (R333, R349, R350). -/
def State.dropTlb (s : State) (n : Nat) (p q : TlbE → Bool) (keep : Bool) : State :=
  let c := s.core (coreOf n)
  let mine := fun (f : TlbE → Bool) (e : TlbE) => decide (e.ctx = n % 4) && f e
  let s1 := s.setCore (coreOf n) { c with tlb := c.tlb.filter (fun e => !mine p e), walk := c.walk.filter (fun e => !mine q e) }
  s1.modCtx n (fun x =>
    if keep then { x with invalT := x.invalT ++ c.tlb.filter (mine p), invalW := x.invalW ++ c.walk.filter (mine q) }
    else { x with invalT := x.invalT.filter (fun e => !mine p e), invalW := x.invalW.filter (fun e => !mine q e) })

/-- EN is forced to 0 after a write that leaves a setting R330 rejects. -/
def State.checkBlock (s : State) (b : Block) : Block :=
  let bad := decide (b.typ = 3)
    || (decide (b.typ = 2) && b.paged)
    || (!b.paged && decide (b.typ ≤ 1) && decide (b.physBase % 48 ≠ 0))
    || (!b.paged && decide (b.typ = 2) && decide (b.physBase % 4 ≠ 0))
    || (b.paged && (decide (b.line % 256 ≠ 0) || decide (2 ^ 32 ≤ b.target.toNat) || decide (b.phi ≠ 0)))
    || !(s.tenantExists b.owner)
  if b.en && bad then { b with en := false } else b

/-- A block register read as system register 64 + 4n + w (R329). -/
def Block.readWord (b : Block) (w : Nat) : Word :=
  match w with
  | 0 => word b.line
  | 1 => word b.lines
  | 2 => b.target
  | _ => word (b.owner * 2 ^ 24 + b2n b.en * 2 ^ 12 + b.typ * 2 ^ 10 + b2n b.paged * 2 ^ 9 + b.phi)

/-- A block register with word `w` written (R329). -/
def Block.writeWord (b : Block) (w : Nat) (v : Word) : Block :=
  let x := v.toNat
  match w with
  | 0 => { b with line := x % 2 ^ 31 }
  | 1 => { b with lines := x % 2 ^ 31 }
  | 2 => { b with target := v }
  | _ => { b with owner := bits x 35 24, en := bit x 12, typ := bits x 11 10, paged := bit x 9, phi := bits x 8 0 }

/-- The block registers at context release: BD0 maps register space, BD1 maps DRAM (R329). -/
def State.releaseBlocks (s : State) : Tbl Block :=
  [(0, { line := 1409286144, lines := 21846, target := 0, owner := 0, en := true, typ := 2, paged := false, phi := 0o700 }),
   (1, { line := 0, lines := min s.popLines 1409286144, target := 0, owner := 0, en := true, typ := 0, paged := false, phi := 0 })]

end Sys2Proof.Machine
end

