-- ==== Sys2Proof/Machine/Release.lean ====
section
/-!
DEFINITION. Releasing cores (R647 to R649): the state of a released context (R250, R329), arming, and the conditions.
-/

namespace Sys2Proof.Machine

open Sys2Proof

/-- The release registers of core `k` (R647). -/
def State.rel (s : State) (k : Nat) : Release := tget {} s.lk.release k

/-- The condition of core `k`; under BOOT_MODE 2 every core is ON_HOST (R649). -/
def State.condOf (s : State) (k : Nat) : Nat := if s.bsu.bootMode = 2 then 3 else (s.rel k).cond

/-- A context as release leaves it, with PCC at `vec` (R250, R329, R649). -/
def freshCtx (vec : Word) (blocks : Tbl Block) : Ctx :=
  { run := .run, pcc := rootCap vec, k := [(0, rootCap 0)], bd := blocks }

/-- Core `k` is released: its four contexts, in one cycle. -/
def State.releaseOne (s : State) (k : Nat) : State :=
  let v := (s.rel k).vec
  let s1 := [0, 1, 2, 3].foldl (fun (s : State) i => s.setCtx (4 * k + i) (freshCtx v s.releaseBlocks)) s
  s1.modCore k (fun c => { c with released := true, relArmed := false, relDue := none })

/-- Core `k` may be released: its cluster is present and ready, neither is offlined, and it is not yet released. -/
def State.canRelease (s : State) (k : Nat) : Bool :=
  s.cluPresent (k / 8) && s.cluReady (k / 8) && !(tget false s.ras.coreOff k) && !(s.core k).released

/-- Every GLB_READY bit that ARG names is set (R648). -/
def State.namedReady (s : State) (arg : Nat) : Bool :=
  let want := fun i b => !(bit arg i) || b
  want 1 s.glb.rEau && want 2 s.glb.rTbu && want 3 s.glb.rIcu && want 4 s.glb.rDdu
    && [0, 1, 2, 3].all (fun n => want (5 + n) (decide (Config.lanes s.hw.variant ≤ n) || s.glb.rLanes.testBit n))
    && [0, 1, 2, 3].all (fun p => want (9 + p) (decide (Config.ports s.hw.variant ≤ p) || s.glb.rHost.testBit p))
    && want 13 (s.activeChans.all (fun c => s.glb.rDram.testBit c))

/-- The stamp of an AT_STAMP core is resolved: the core waits for it, or is released at once when it has passed. An invalid stamp (R75)
never falls due (log entry 70). -/
def State.armStamp (s : State) (k : Nat) : State :=
  let st := s.resolve (s.rel k).arg
  if !(s.stampOk (s.rel k).arg) then s.modCore k (fun c => { c with relArmed := true, relDue := none })
  else if Stamp.le st s.now then s.releaseOne k else s.modCore k (fun c => { c with relArmed := true, relDue := some (s.due st) })

/-- The release condition of core `k` is armed (R648, R649). -/
def State.armCore (s : State) (k : Nat) : State :=
  if !(s.canRelease k) then s
  else match s.condOf k with
    | 0 => s.releaseOne k
    | 1 => if s.glb.rTbu then s.armStamp k else s.modCore k (fun c => { c with relArmed := true, relDue := none })
    | 2 => s.modCore k (fun c => { c with relArmed := true, relDue := none })
    | _ => s

/-- GLB_READY.TBU has set: the armed AT_STAMP cores resolve their stamps (R648). -/
def State.armStamps (s : State) : State :=
  (tkeys s.cores).foldl (fun (s : State) k =>
    if (s.core k).relArmed && (s.core k).relDue.isNone && decide (s.condOf k = 1) then s.armStamp k else s) s

/-- An armed core whose condition is met is released (R648). -/
def State.relMet (s : State) (k : Nat) : Bool :=
  (s.core k).relArmed && (match (s.core k).relDue with
    | some d => s.isDue d
    | none => decide (s.condOf k = 2) && s.namedReady (s.rel k).arg.toNat)

def execCoreRelease (core : Nat) (s : State) : Res := .next (if s.canRelease core && s.relMet core then s.releaseOne core else s)

end Sys2Proof.Machine
end

