-- ==== Sys2Proof/Machine/Tbu.lean ====
section
/-!
DEFINITION. The time base unit: links (R85 to R90), acquisition (R692), switchover and holdover (R91 to R97), commands (R98 to R103),
quiet windows (R104, R105), and the renumbering of stamps (R96, R102).
-/

namespace Sys2Proof.Machine

open Sys2Proof

/-! ### Events, counters -/

/-- The raise line of source 32 follows TBU_EVENT and TBU_IRQEN (R112). -/
def State.tbuLine (s : State) : State := s.setLine 32 (decide (s.tbu.event &&& s.tbu.irqen ≠ 0))

/-- Change the TBU. -/
def State.modTbu (s : State) (f : Tbu → Tbu) : State := { s with tbu := f s.tbu }

/-- Set bit `i` of TBU_EVENT (R112). -/
def State.tbuEvent (s : State) (i : Nat) : State := (s.modTbu (fun t => { t with event := putBit t.event i true })).tbuLine

/-- TBU_ERR counters (R113); one that saturates sets event bit 10. -/
def State.tbuBad (s : State) : State :=
  let r := bump 511 s.tbu.badFrame
  let s1 := s.modTbu (fun t => { t with badFrame := r.1 })
  if r.2 then s1.tbuEvent 10 else s1
def State.tbuCrc (s : State) : State :=
  let r := bump 511 s.tbu.crc
  let s1 := s.modTbu (fun t => { t with crc := r.1 })
  if r.2 then s1.tbuEvent 10 else s1
def State.tbuDrop (s : State) : State :=
  let r := bump 511 s.tbu.cmdDrop
  let s1 := s.modTbu (fun t => { t with cmdDrop := r.1 })
  if r.2 then s1.tbuEvent 10 else s1
def State.tbuLate (s : State) : State :=
  let r := bump 511 s.tbu.lateCmd
  let s1 := s.modTbu (fun t => { t with lateCmd := r.1 })
  if r.2 then s1.tbuEvent 10 else s1

/-- Enter a state of R90; a change sets event bit 0. -/
def State.tbuMode (s : State) (m : TbuMode) : State :=
  if s.tbu.mode = m then s else (s.modTbu (fun t => { t with mode := m })).tbuEvent 0

/-! ### Links -/

/-- Link `l`, 0 or 1. -/
def Tbu.link (t : Tbu) (l : Nat) : Link := if l = 0 then t.link0 else t.link1

/-- Change link `l`. -/
def Tbu.modLink (t : Tbu) (l : Nat) (f : Link → Link) : Tbu := if l = 0 then { t with link0 := f t.link0 } else { t with link1 := f t.link1 }

/-- Whether link `l` is enabled (R108). -/
def State.linkEn (s : State) (l : Nat) : Bool := if l = 0 then s.lk.enLink0 else s.lk.enLink1

/-- Whether link `l` receives: enabled and inside block lock (R85, R89). -/
def State.receives (s : State) (l : Nat) : Bool := decide (l < 2) && s.linkEn l && (s.tbu.link l).lock

/-- Another link becomes active (R92): the frames of the old one count no longer. -/
def State.switchTo (s : State) (l : Nat) : State := (s.modTbu (fun t => { t with active := l, revertRun := 0, acqRun := 0 })).tbuEvent 1

/-- Entry to HOLDOVER (R90, R93, R104): the TBU counts on at the held period, an unannounced quiet window closes, a slew in progress
is dropped (log entry 68), and RAS records it (R657 class 11). -/
def State.holdover (s : State) : State :=
  let s1 := (s.tbuMode .holdover).modTbu (fun t => { t with
    slew := 0
    held := false
    quiet := match t.quiet with | some q => (if q.until_.isNone then none else t.quiet) | none => none
    link0 := { t.link0 with diffRun := 0 }
    link1 := { t.link1 with diffRun := 0 } })
  s1.record 11 0 unitTbu none none none 3

/-- Link `l` counts as failed (R89). -/
def State.markFailed (s : State) (l : Nat) : State :=
  let s1 := s.modTbu (fun t => t.modLink l (fun k => { k with good := false, goodRun := 0, badRun := 0, heard := false, diffRun := 0 }))
  if l = s.lk.primary then s1.modTbu (fun t => { t with revertRun := 0 }) else s1

/-- The other link becomes active when it is good and enabled, in the same beat (R92); `f` is what happens when no link is good. -/
def State.switchOr (s : State) (l : Nat) (f : State → State) : State :=
  if (s.tbu.link (1 - l)).good && s.linkEn (1 - l) then s.switchTo (1 - l) else f s

/-- Link `l` fails (R89, R92): the other link, when good, becomes active; with no good link the TBU enters HOLDOVER (R90), or starts
acquiring again where it holds no period. -/
def State.failLink (s : State) (l : Nat) : State :=
  let s1 := s.markFailed l
  if s1.tbu.active ≠ l then s1
  else match s1.tbu.mode with
    | .none => s1
    | .holdover => s1
    | .acquiring =>
      if 2 ≤ s1.tbu.acqStep then s1.switchOr l State.holdover
      else
        let s2 := s1.modTbu (fun t => { t with acqStep := 0, acqRun := 0 })
        s2.switchOr l (fun s => if s.tbu.period = 0 then s else s.holdover)
    | .locked => s1.switchOr l State.holdover

def execBlockLockLoss (link : Nat) (s : State) : Res :=
  .next (if link < 2 ∧ (s.tbu.link link).lock then (s.modTbu (fun t => t.modLink link (fun k => { k with lock := false, crcRun := 0 }))).failLink link
    else s)

def execBlockLockAcquired (link : Nat) (s : State) : Res :=
  .next (if link < 2 then s.modTbu (fun t => t.modLink link (fun k => { k with lock := true })) else s)

/-- No valid BEAT frame has arrived on a link for 4 × 2^m beats (R89). -/
def execLinkFail (link : Nat) (s : State) : Res :=
  .next (if link < 2 ∧ s.linkEn link ∧ (s.tbu.link link).heard ∧ 4 * 2 ^ (s.tbu.link link).m ≤ s.tbu.edges - (s.tbu.link link).lastEdge then s.failLink link else s)

/-- Step 2 of R692: the link fails and the next valid BEAT frame restarts acquisition at step 1. The time stays as taken up. -/
def State.acquireLost (s : State) (l : Nat) : State :=
  ((s.markFailed l).modTbu (fun t => { t with acqStep := 0, acqRun := 0 })).switchOr l id

def execAcquireTimeout (link : Nat) (s : State) : Res :=
  .next (if link < 2 ∧ s.tbu.mode = .acquiring ∧ s.tbu.acqStep = 1 ∧ s.tbu.active = link then s.acquireLost link else s)

/-! ### Renumbering (R96, R102) -/

/-- A due item with its stamp changed. -/
def Due.map (f : Stamp → Stamp) (d : Due) : Due := { d with at_ := f d.at_ }

/-- A lease with its stamp changed; one counted in reference cycles is unchanged (R591). -/
def LeaseEnd.map (f : Stamp → Stamp) : LeaseEnd → LeaseEnd
  | .beats d => .beats (d.map f)
  | .refCycles n => .refCycles n

/-- An event with its due stamps changed by `f` and the stamp that identifies it by `g`. -/
def Event.map (f g : Stamp → Stamp) (e : Event) : Event := { e with stamp := g e.stamp, ddl := f e.ddl }

/-- An assembly-table entry with its assembly deadline changed by `f` and its dispatch deadline by `k`; its key and the stamp of its
event stay (R96, R102). -/
def Entry.map (f k : Stamp → Stamp) (e : Entry) : Entry := { e with adl := e.adl.map f, ddl := k e.ddl }

/-- A descriptor with its stamps changed. -/
def Desc.map (f g : Stamp → Stamp) (d : Desc) : Desc := { d with ev := d.ev.map f g }

/-- A context with its stamps changed. -/
def Ctx.mapStamps (f g : Stamp → Stamp) (c : Ctx) : Ctx :=
  { c with alarm := c.alarm.map (·.map f), deadline := c.deadline.map (·.map f), coaches := c.coaches.map (fun x => { x with ev := x.ev.map f g }) }

/-- The EAU with its stamps changed; `k` is for the dispatch deadlines of entries. -/
def Eau.mapStamps (f g k : Stamp → Stamp) (e : Eau) : Eau :=
  { e with
    profs := tmap {} (fun _ (x : Profile) => { x with release := x.release.map (fun r => (r.1, r.2.map f)) }) e.profs
    pools := tmap {} (fun _ (x : Pool) => { x with drain := x.drain.map (fun r => (r.1, r.2.1, r.2.2.map f)) }) e.pools
    table := tmap none (fun _ (x : Option Entry) => x.map (·.map f k)) e.table
    victims := tmap [] (fun _ (l : List Victim) => l.map (fun v => { v with adl := v.adl.map f })) e.victims
    evict := tmap none (fun _ (x : Option (Event × Nat)) => x.map (fun v => (v.1.map f g, v.2))) e.evict
    closeQ := e.closeQ.map (·.map f g) }

/-- Every due stamp of the device changed by `f`, the stamps of ended events that the close queue, the DDU and the DOL hold by `g`, and
the dispatch deadlines of assembly-table entries by `k`. -/
def State.mapStamps (s : State) (f g k : Stamp → Stamp) : State :=
  { s with
    tbu := { s.tbu with quiet := s.tbu.quiet.map (fun q => ⟨q.until_.map (·.map f)⟩), cmds := s.tbu.cmds.map (fun c => { c with due := c.due.map f }) }
    ctxs := tmap {} (fun _ c => c.mapStamps f g) s.ctxs
    cores := tmap {} (fun _ (c : Core) => { c with relDue := c.relDue.map (·.map f) }) s.cores
    icu := { s.icu with lease := s.icu.lease.map (fun l => { l with until_ := l.until_.map f }) }
    rng := { s.rng with fns := tmap {} (fun _ (r : Rings) => { r with lease := r.lease.map (fun l => { l with until_ := l.until_.map f }) }) s.rng.fns }
    eau := s.eau.mapStamps f g k
    ddu := { s.ddu with descs := s.ddu.descs.map (·.map f g) }
    dol := { s.dol with recs := s.dol.recs.map (fun r => { r with stamp := g r.stamp, release := r.release.map f }) }
    ports := tmap {} (fun _ (x : Port) => { x with frzLease := x.frzLease.map (·.map f) }) s.ports
    dmc := { s.dmc with lease := s.dmc.lease.map (fun l => { l with until_ := l.until_.map f }) }
    pmu := { s.pmu with wakeDue := s.pmu.wakeDue.map (·.map f) } }

/-! ### Time -/

/-- A full time: stamp and phase. -/
structure Moment where
  at_   : Stamp
  phase : Nat
deriving DecidableEq, Repr

/-- A time in phase units with `B` beats per turn. -/
def Moment.units (B : Nat) (m : Moment) : Int := (m.at_.turn * B + m.at_.beat) * 256 + m.phase

/-- The time that `u` phase units make. -/
def momentOf (B : Nat) (u : Int) : Moment :=
  let b := u / 256
  ⟨⟨b / B, (b % B).toNat⟩, (u % 256).toNat⟩

/-- The link time of a BEAT frame after R88. -/
def State.linkTime (s : State) (f : BeatFrame) : Moment :=
  momentOf f.bpt (((f.turn * f.bpt + f.beat : Nat) : Int) * 256 + s.lk.delay)

/-- The TBU takes up a time (R94, R692). It is a beat edge, at which the items that have become due act, unless beat and turn stay the
same (R79). -/
def State.takeUp (s : State) (m : Moment) : State :=
  let moved := decide (m.at_ ≠ s.now)
  s.modTbu (fun t => { t with
    turn := m.at_.turn, beat := m.at_.beat, phase := m.phase
    edges := if moved then t.edges + 1 else t.edges
    noAct := t.noAct && !moved })

/-- The TBU takes up a time with no beat edge: items act only at later edges (R692 step 2). -/
def State.takeStill (s : State) (m : Moment) : State :=
  s.modTbu (fun t => { t with turn := m.at_.turn, beat := m.at_.beat, phase := m.phase, noAct := true })

/-- The number of beats from turn 0 to a time. -/
def Moment.beats (B : Nat) (m : Moment) : Int := m.at_.turn * B + m.at_.beat

/-- The period over the frames held: the reference time between the first and the last, divided by the beats between, rounded down and
at most what TBU_PERIOD holds (R93, R111, R692; log entry 68). -/
def histPeriod (h : List (Nat × Int)) : Option Nat :=
  match h.head?, h.getLast? with
  | some a, some z => if 0 < z.2 - a.2 ∧ a.1 < z.1 then some (min ((z.1 - a.1) / (z.2 - a.2).toNat) (2 ^ 31 - 1)) else none
  | _, _ => none

/-- A BEAT frame joins the last 1,024 whose mean gives the period (R93). -/
def State.addHist (s : State) (ref : Nat) (b : Int) : State :=
  let h := s.tbu.hist ++ [(ref, b)]
  let h1 := if 1024 < h.length then h.drop 1 else h
  s.modTbu (fun t => { t with hist := h1, period := (histPeriod h1).getD t.period })

/-- Step 1 of R692: the time and the beats per turn of the frame are taken up, and its link becomes active; the time then stays. A
change of the beats per turn converts every pending item, and those already due act at this edge (R96). -/
def State.acquireFirst (s : State) (l : Nat) (f : BeatFrame) : State :=
  let m := s.linkTime f
  let was := s.glb.rTbu
  let B := s.bpt
  let conv : Stamp → Stamp := fun x => Stamp.add f.bpt m.at_ (Stamp.to B s.now x)
  let s1 := s.tbuMode .acquiring
  let s2 := if was && decide (f.bpt ≠ B) then (s1.mapStamps conv id conv).takeUp m else s1.takeStill m
  let s3 := if was && decide (s2.tbu.active ≠ l) then s2.tbuEvent 1 else s2
  let s4 := { s3 with
    glb := { s3.glb with rTbu := true }
    tbu := { s3.tbu with bptM1 := f.bpt - 1, active := l, acqStep := 1, acqRun := 0, held := true, slew := 0, mismatch := false, hist := [(f.refTime, m.beats f.bpt)], revertRun := 0 } }
  if was then s4 else s4.armStamps

/-- Step 3 of R692: the period is measured and the second frame's time is taken up. -/
def State.acquireSecond (s : State) (l : Nat) (f : BeatFrame) : State :=
  let m := s.linkTime f
  let h := s.tbu.hist ++ [(f.refTime, m.beats f.bpt)]
  match histPeriod h with
  | none => s.acquireFirst l f
  | some p =>
    if f.bpt ≠ s.bpt then s.acquireFirst l f
    else (s.takeUp m).modTbu (fun t => { t with acqStep := 2, acqRun := 0, held := false, hist := h, period := p })

/-- The time of a frame less the TBU's time at its edge, in phase units (R94, R103). -/
def State.frameOffset (s : State) (f : BeatFrame) : Int :=
  (s.linkTime f).units f.bpt - Moment.units s.bpt ⟨s.now, f.phase⟩

/-- The difference by which a frame is judged: while the TBU slews, from the time that it slews towards (R89, R94; log entry 54). -/
def State.frameDiff (s : State) (f : BeatFrame) : Int := s.frameOffset f + s.tbu.slew

/-- A difference within ±2 phase units. -/
def within2 (d : Int) : Bool := decide (-2 ≤ d) && decide (d ≤ 2)

/-- A frame is consistent (R89). -/
def State.consistent (s : State) (f : BeatFrame) : Bool := decide (f.bpt = s.bpt) && within2 (s.frameDiff f)

/-- A judged frame of link `l` (R89): three consistent frames in a row make a link good, three inconsistent ones fail it. -/
def State.judge (s : State) (l : Nat) (ok : Bool) : State :=
  if ok then
    s.modTbu (fun t => t.modLink l (fun k => { k with badRun := 0, goodRun := min 3 (k.goodRun + 1), good := k.good || decide (3 ≤ k.goodRun + 1) }))
  else
    let s1 := s.modTbu (fun t => t.modLink l (fun k => { k with goodRun := 0, badRun := k.badRun + 1 }))
    if 3 ≤ (s1.tbu.link l).badRun then s1.failLink l else s1

/-- REVERT (R92): the primary link becomes active again after 1,024 consecutive consistent frames while the other is active. -/
def State.revertCount (s : State) (l : Nat) (ok : Bool) : State :=
  if l ≠ s.lk.primary ∨ s.tbu.active = l then s
  else
    let n := if ok then s.tbu.revertRun + 1 else 0
    if s.lk.revert && decide (1024 ≤ n) then s.switchTo l else s.modTbu (fun t => { t with revertRun := n })

/-- CAL captures the difference of the next BEAT frame on the active link (R103), and its argument with it (log entry 68). -/
def State.calCapture (s : State) (l : Nat) (f : BeatFrame) : State :=
  match s.tbu.calPend with
  | some a => if l = s.tbu.active then s.modTbu (fun t => { t with calPend := none, calId := a % 4096, calOff := (s.frameOffset f % 2 ^ 24).toNat }) else s
  | none => s

/-- A time within ±2 units of the TBU's that lies in the next beat is reached by trimming (R91). -/
def State.trim (s : State) (f : BeatFrame) : State :=
  let m := s.linkTime f
  if s.tbu.slew = 0 ∧ Stamp.le m.at_ s.now = false then s.takeUp m else s

/-- A frame of link `l` judged in HOLDOVER, where every enabled link has failed: three consistent ones in a row make the link good
again, three inconsistent ones failed (R89). -/
def State.judgeHeld (s : State) (l : Nat) (ok : Bool) : State :=
  s.modTbu (fun t => t.modLink l (fun k =>
    if ok then { k with badRun := 0, goodRun := min 3 (k.goodRun + 1), good := k.good || decide (3 ≤ k.goodRun + 1) }
    else { k with goodRun := 0, badRun := min 3 (k.badRun + 1), good := k.good && decide (k.badRun + 1 < 3) }))

/-- A frame in HOLDOVER (R90, R94): the third in a row with the same difference ends it. -/
def State.holdoverFrame (s : State) (l : Nat) (f : BeatFrame) : State :=
  let k := s.tbu.link l
  let d := s.frameDiff f
  let run := if f.bpt ≠ s.bpt then 0 else if 0 < k.diffRun ∧ within2 (d - k.diff) then k.diffRun + 1 else 1
  let base := if run ≤ 1 then d else k.diff
  let s1 := (s.judgeHeld l (s.consistent f)).modTbu (fun t => t.modLink l (fun k => { k with diffRun := run, diff := base }))
  if run < 3 ∨ s1.tbu.mismatch then s1
  else if d < -(256 * 256) then
    ((s1.modTbu (fun t => { t with mismatch := true })).tbuEvent 2).record 11 0 unitTbu none none none 3
  else
    let s2 := s1.modTbu (fun t => (t.modLink l (fun k => { k with good := true, goodRun := 3, badRun := 0, diffRun := 0 })))
    let s3 := if s2.tbu.active ≠ l then s2.switchTo l else s2
    let m := s3.linkTime f
    let s4 := s3.modTbu (fun t => { t with hist := [(f.refTime, m.beats f.bpt)] })
    if 0 ≤ d then (s4.takeUp m).tbuMode .locked
    else (s4.modTbu (fun t => { t with slew := (-d).toNat })).tbuMode .locked

/-- A frame in ACQUIRING after step 3, or in LOCKED (R89 to R92, R692 step 4). -/
def State.runningFrame (s : State) (l : Nat) (f : BeatFrame) : State :=
  let ok := s.consistent f
  let act := decide (l = s.tbu.active)
  let m := s.linkTime f
  let s1 := s.judge l ok
  let s2 := if act && ok then (s1.addHist f.refTime (m.beats f.bpt)).trim f else s1
  let s3 := s2.revertCount l ok
  if s3.tbu.mode = .acquiring ∧ act = true then
    if ok then
      let n := s3.tbu.acqRun + 1
      let s4 := s3.modTbu (fun t => { t with acqRun := n })
      if 3 ≤ n then s4.tbuMode .locked else s4
    else if f.bpt = s3.bpt then
      (s3.takeUp m).modTbu (fun t => { t with acqRun := 0, hist := [(f.refTime, m.beats f.bpt)] })
    else s3.acquireFirst l f
  else s3

/-- A BEAT frame arrives on link `l`. -/
def State.beatFrame (s : State) (l : Nat) (f : BeatFrame) : State :=
  let s0 := (s.modTbu (fun t => t.modLink l (fun k => { k with crcRun := 0, heard := true, lastEdge := s.tbu.edges, m := f.m }))).calCapture l f
  match s0.tbu.mode with
  | .none => s0.acquireFirst l f
  | .acquiring =>
    if s0.tbu.acqStep = 0 then s0.acquireFirst l f
    else if s0.tbu.acqStep = 1 then (if l = s0.tbu.active then s0.acquireSecond l f else s0)
    else s0.runningFrame l f
  | .locked => s0.runningFrame l f
  | .holdover => s0.holdoverFrame l f

/-- The BEAT frame that two blocks carry, with what the TBU measures at its marked edge (R83 to R87). -/
def execBeatFrame (link : Nat) (x : RxBeat) (s : State) : Res :=
  .next (match rxBlocks x.blocks x.mark with
    | .beat f => if s.receives link then s.beatFrame link f else s
    | _ => s)

/-- A beat edge that the TBU generates itself, in LOCKED, HOLDOVER or ACQUIRING with a measured period: one beat more; a slew step
lengthens the beat that ends by one phase unit (R87, R93, R94). -/
def State.beatEdge (s : State) : State :=
  if !s.ticking then s
  else
    let n := Stamp.add s.bpt s.now 1
    s.modTbu (fun t => { t with turn := n.turn, beat := n.beat, phase := 0, edges := t.edges + 1, noAct := false, slew := t.slew - 1 })

def execBeatEdge (s : State) : Res := .next s.beatEdge

/-- A frame whose CRC is right breaks a run of failures on link `l` (R89). -/
def State.crcClean (s : State) (l : Nat) : State := s.modTbu (fun t => t.modLink l (fun k => { k with crcRun := 0 }))

/-- An IDLE frame on link `l` (R86). -/
def execIdleFrame (f : RxBlocks) (s : State) : Res :=
  .next (if s.receives f.link ∧ rxBlocks f.blocks ⟨0, 0⟩ = .idle then s.crcClean f.link else s)

/-! ### Discarded blocks and frames (R84, R85) -/

/-- What the receiver of link `l` discards: blocks and frames count in BADFRAME, or in CRC; eight CRC failures in a row fail the link
(R89). A frame that fails a range check has passed its CRC. -/
def State.discard (s : State) (l : Nat) (b : Blocks) : State :=
  match rxBlocks b ⟨0, 0⟩ with
  | .bad 2 => s.tbuBad.tbuBad
  | .bad _ => if crcOk (blocksOctets b) ∧ blockSync b.first = 2 ∧ blockSync b.second = 1 then (s.crcClean l).tbuBad else s.tbuBad
  | .crc =>
    let s1 := (s.modTbu (fun t => t.modLink l (fun k => { k with crcRun := k.crcRun + 1 }))).tbuCrc
    if 8 ≤ (s1.tbu.link l).crcRun then (s1.crcClean l).failLink l else s1
  | _ => s

def execDiscardedFrame (link : Nat) (b : Blocks) (s : State) : Res := .next (if s.receives link then s.discard link b else s)

/-! ### Commands (R98 to R103) -/

/-- TURN_RESET at an execute stamp of turn `T` (R102): the turns are renumbered, and every due stamp, and every stamp that the DDU
and the DOL hold, keeps its distance. -/
def State.turnReset (s : State) (T : Int) : State :=
  if !s.lk.acceptReset then s.tbuDrop
  else
    let f : Stamp → Stamp := fun x => ⟨x.turn - T, x.beat⟩
    let s1 := s.mapStamps f f id
    (s1.modTbu (fun t => { t with turn := t.turn - T, hist := t.hist.map (fun h => (h.1, h.2 - T * s.bpt)) })).tbuEvent 7

/-- A command executes (R100); an argument where the table has zero is not looked at, and QUIET_END sets its event bit with no window
open too (log entry 68). -/
def State.runCmd (s : State) (c : PendCmd) : State :=
  match c.code with
  | 1 => (s.modTbu (fun t => { t with quiet := some ⟨if c.arg = 0 then none else some (s.due (s.after c.due.at_ c.arg))⟩ })).tbuEvent 3
  | 2 => (s.modTbu (fun t => { t with quiet := none })).tbuEvent 4
  | 3 => (s.modTbu (fun t => { t with throttle := true })).tbuEvent 5
  | 4 => (s.modTbu (fun t => { t with throttle := false })).tbuEvent 6
  | 5 => s.turnReset c.due.at_.turn
  | 6 => (((s.modTbu (fun t => { t with acqStep := 0, acqRun := 0, mismatch := false, slew := 0 })).tbuMode .acquiring).tbuEvent 8)
  | _ => (s.modTbu (fun t => { t with calPend := some c.arg })).tbuEvent 9

/-- A COMMAND frame arrives on link `l` (R98, R99). One that is discarded takes no place among the last 16 (R99; log entry 68 for those
that CMDDROP counts). -/
def State.commandFrame (s : State) (l : Nat) (f : CmdFrame) : State :=
    let s0 := s.crcClean l
    if s0.tbu.seqs.contains f.seq then s0
    else if !(s0.beatOk f.beat) then s0.tbuBad
    else if f.code = 0 ∨ 7 < f.code then s0.tbuBad
    else if f.code = 5 ∧ f.beat ≠ 0 then s0.tbuBad
    else if f.code = 5 ∧ !s0.lk.acceptReset then s0.tbuDrop
    else
      let st : Stamp := ⟨f.turn, f.beat⟩
      let c : PendCmd := ⟨f.code, f.arg, s0.due st⟩
      let late := Stamp.le st s0.now
      if f.code = 5 ∧ late then s0.tbuDrop
      else if !late && decide (16 ≤ s0.tbu.cmds.length) then s0.tbuDrop
      else
        let s1 := s0.modTbu (fun t => { t with seqs := (t.seqs ++ [f.seq]).drop ((t.seqs.length + 1) - 16) })
        if late then (s1.runCmd c).tbuLate else s1.modTbu (fun t => { t with cmds := t.cmds ++ [c] })

def execCommandFrame (link : Nat) (b : Blocks) (s : State) : Res :=
  .next (match rxBlocks b ⟨0, 0⟩ with
    | .command f => if s.receives link then s.commandFrame link f else s
    | _ => s)

/-- Whether command `a` executes before `b`, which was accepted later (R99): the earlier stamp, TURN_RESET last at one stamp. -/
def PendCmd.before (a b : PendCmd) : Bool :=
  if a.due.at_ = b.due.at_ then decide (a.code ≠ 5) || decide (b.code = 5) else Stamp.le a.due.at_ b.due.at_

/-- The due command that executes next (R99). -/
def State.nextCmd (s : State) : Option PendCmd :=
  (s.tbu.cmds.filter (fun c => s.isDue c.due)).foldl (fun m c => match m with
    | none => some c
    | some a => if a.before c then some a else some c) none

/-- The command that is due next executes when its code is `code`. -/
def State.cmdRow (s : State) (code : Nat) : State :=
  match s.nextCmd with
  | some c => if c.code = code then (s.modTbu (fun t => { t with cmds := t.cmds.erase c })).runCmd c else s
  | none => s

def execQuietStart (s : State) : Res := .next (s.cmdRow 1)

def execQuietEnd (s : State) : Res := .next (s.cmdRow 2)

def execThrottleOn (s : State) : Res := .next (s.cmdRow 3)

def execThrottleOff (s : State) : Res := .next (s.cmdRow 4)

/-- Whether a lease would expire now (R591). -/
def State.leaseDue (s : State) : LeaseEnd → Bool
  | .beats d => s.isDue d
  | .refCycles _ => false

/-- Whether an item of a unit other than the TBU is due and still to act: TURN_RESET lets every such item act first (R102). -/
def State.itemsDue (s : State) : Bool :=
  s.ctxs.any (fun e => !(s.wedgedFor e.1) && (e.2.alarm.any s.isDue || (decide (s.cluPower (cluOf e.1) = some .run) && e.2.deadline.any s.isDue)))
    || s.cores.any (fun e => s.canRelease e.1 && e.2.relArmed && e.2.relDue.any s.isDue)
    || s.icu.lease.any (fun l => s.leaseDue l.until_)
    || s.rng.fns.any (fun e => e.2.lease.any (fun l => s.leaseDue l.until_))
    || s.eau.profs.any (fun e => e.2.release.any (fun r => s.leaseDue r.2))
    || s.eau.pools.any (fun e => e.2.drain.any (fun r => s.leaseDue r.2.2))
    || s.eau.table.any (fun e => e.2.any (fun e => decide (e.st = .assembling) && e.ended.isNone && s.isDue e.adl))
    || s.ddu.descs.any s.shedNow
    || s.dol.recs.any (fun r => s.isDue r.release)
    || s.ports.any (fun e => e.2.frzLease.any s.leaseDue)
    || s.dmc.lease.any (fun l => s.leaseDue l.until_)
    || (match s.tbu.quiet with | some ⟨some d⟩ => s.isDue d | _ => false)

def execTurnReset (s : State) : Res := .next (if s.itemsDue then s else s.cmdRow 5)

def execResync (s : State) : Res := .next (s.cmdRow 6)

def execCal (s : State) : Res := .next (s.cmdRow 7)

/-- An announced window closes when its announced length has passed (R104). -/
def execQuietWindowExpiry (s : State) : Res :=
  .next (match s.tbu.quiet with
    | some ⟨some d⟩ => if s.isDue d then s.modTbu (fun t => { t with quiet := none }) else s
    | _ => s)

/-! ### Quiet windows (R105) -/

/-- Beats remaining in an announced window. -/
def State.quietRemain (s : State) : Nat :=
  match s.tbu.quiet with
  | some ⟨some d⟩ => (Stamp.to s.bpt s.now d.at_).toNat
  | _ => 0

/-- A window is open that allows an operation of `ns` nanoseconds: unannounced, or with the remaining beats at TBU_PERIOD covering
it; a reference cycle is 10 ns and TBU_PERIOD counts units of 2^-24 of it. -/
def State.quietAllows (s : State) (ns : Nat) : Bool :=
  match s.tbu.quiet with
  | none => false
  | some ⟨none⟩ => true
  | some ⟨some _⟩ => decide (ns * 2 ^ 24 ≤ s.quietRemain * s.tbu.period * 10)

end Sys2Proof.Machine
end

