-- ==== Sys2Proof/Machine/Hpc.lean ====
section
/-!
DEFINITION. The host ports: links (R44, R523, R542), function reset (R541), Bus Master Enable and D3hot (R539, R540), freeze and
unfreeze (R542 to R546), ASPM (R524) and precision time measurement (R547). The requests of the link partner that a command carries bring
the link back to L0 (R524).
-/

namespace Sys2Proof.Machine

open Sys2Proof

/-! ### Function reset (R541) -/

/-- A function's rings disabled, with their indices and the shadow at 0 and the lease ended (R541 step 3). -/
def Rings.disabled (r : Rings) : Rings :=
  { r with tail := [], sqHead := [], cqHead := [], written := [], reserved := [], sq := tmap sqReset (fun _ c => { c with en := false }) r.sq, cqc := tmap {} (fun _ c => { c with en := false }) r.cqc, lease := none, order := [], fetch := [] }

/-- Every ring of tenant `t` is disabled and its unwritten records, held ones too, are discarded; its reads are dropped. -/
def State.disableRings (s : State) (t : Nat) : State :=
  let s1 := s.each [0, 1, 2, 3] (fun s n => s.dropFetch t n true)
  (s1.modRings t Rings.disabled).modPort (portOf t) (fun x => { x with hold := x.hold.filter (fun e => decide (e.1 ≠ t)) })

/-- Function Level Reset of one function (R541). -/
def State.flrOne (s : State) (t : Nat) : State :=
  let s1 := (s.disableRings t).quarantine (portOf t) (fun u => decide (u = t))
  (s1.dropPushes t State.rngDrop).setFn t (s.fnReset t)

/-- The tenants of port `p` that any table of the port knows. -/
def State.knownFns (s : State) (p : Nat) : List Nat :=
  let push := (tkeys s.rng.pushes).map (fun k => k / 2 ^ 24)
  ((tkeys s.fns ++ tkeys s.rng.fns ++ push).filter (fun t => decide (portOf t = p))).eraseDups

/-- Every VF of port `p` is reset (R527). -/
def State.flrVfs (s : State) (p : Nat) : State := s.each ((s.knownFns p).filter (fun t => decide (t % 1024 ≠ 0))) State.flrOne

/-- Every function of port `p` is reset. -/
def State.flrPort (s : State) (p : Nat) : State := (s.flrVfs p).flrOne (1024 * p)

/-- Function Level Reset of function `t`; of a PF, with every VF (R541 step 1). -/
def State.flr (s : State) (t : Nat) : State := if t % 1024 = 0 then s.flrPort (portOf t) else s.flrOne t

def execFunctionLevelReset (tenant : Nat) (s : State) : Res := .next (if s.fnExists tenant then (s.linkTlp (portOf tenant)).flr tenant else s)

/-- VF Enable clears: every VF is reset and has no function (R527). -/
def State.vfClear (s : State) (p : Nat) : State := (s.flrVfs p).modFn (1024 * p) (fun f => { f with vfEn := false })

def execVfEnableClear (port : Nat) (s : State) : Res := .next (if s.portPresent port then (s.linkTlp port).vfClear port else s)

/-! ### Bus Master Enable and D-states (R539, R540) -/

/-- The reads of a function that stops issuing requests are to be discarded and counted in LATECPL. -/
def State.stopReads (s : State) (t : Nat) : State := s.each [0, 1, 2, 3] (fun s n => s.dropFetch t n true)

/-- A function that may issue requests again writes its waiting records and messages (R422, R535, R539). -/
def State.resumeFn (s : State) (t : Nat) : State := (s.drainFn t).msixFlushAll t

/-- Bus Master Enable of function `t` is written. -/
def State.setBme (s : State) (t : Nat) (b : Bool) : State :=
  let s1 := s.modFn t (fun f => { f with bme := b })
  if b then s1.resumeFn t else s1.stopReads t

def execBusMasterEnableClear (tenant : Nat) (s : State) : Res := .next (if s.fnExists tenant then (s.linkTlp (portOf tenant)).setBme tenant false else s)

def execBusMasterEnableSet (tenant : Nat) (s : State) : Res := .next (if s.fnExists tenant then (s.linkTlp (portOf tenant)).setBme tenant true else s)

/-- The power state of function `t` is written (R540). -/
def State.setD3 (s : State) (t : Nat) (b : Bool) : State :=
  let s1 := s.modFn t (fun f => { f with d3 := b })
  if b then s1.stopReads t else s1.resumeFn t

def execD3hotEntry (tenant : Nat) (s : State) : Res := .next (if s.fnExists tenant then (s.linkTlp (portOf tenant)).setD3 tenant true else s)

def execD0Return (tenant : Nat) (s : State) : Res := .next (if s.fnExists tenant then (s.linkTlp (portOf tenant)).setD3 tenant false else s)

/-! ### Links -/

/-- Whether the link of port `p` can train: the PHY passed, the port is enabled and no port of the link is held in reset; power
is in RUN (R44, R630). -/
def State.canTrain (s : State) (p : Nat) : Bool :=
  (s.linkPorts p).all (fun q => s.portPresent q && (s.port q).phyOk && (s.port q).enabled && !(s.port q).perst && !(s.port q).linkUp)
    && decide (s.pmu.dev = .run)

/-- A speed and a width of R521. -/
def State.linkShape (s : State) (p speed width : Nat) : Bool :=
  decide (1 ≤ speed ∧ speed ≤ 5) && ([1, 2, 4, 8].contains width || ((s.port p).merged && decide (width = 16)))

/-- The link of port `p` has trained (R44, R549); HP0_WAKE_N is released when port 0 reaches L0 (R612). -/
def State.linkTrained (s : State) (p speed width : Nat) : State :=
  let s1 := s.each (s.linkPorts p) (fun s q =>
    let s1 := s.modPort q (fun x => { x with linkUp := true, lpower := .l0, speed := speed, width := width })
    { s1 with glb := { s1.glb with rHost := putBit s1.glb.rHost q true } }.raise (323 + 4 * q))
  if (s1.port 0).linkUp then { s1 with pmu := { s1.pmu with wakeN := false } } else s1

def execLinkUp (port speed width : Nat) (s : State) : Res :=
  .next (if s.canTrain port && s.linkShape port speed width then s.linkTrained port speed width else s)

/-- The link of port `p` goes down: LINKUP and GLB_READY.HOSTPORT clear, source 323 + 4p (R44, R549). -/
def State.linkGone (s : State) (p : Nat) : State :=
  s.each (s.linkPorts p) (fun s q =>
    if (s.port q).linkUp then
      let s1 := s.modPort q (fun x => { x with linkUp := false, speed := 0, width := 0 })
      { s1 with glb := { s1.glb with rHost := putBit s1.glb.rHost q false } }.raise (323 + 4 * q)
    else s)

/-- Every function of the link of port `p` is reset, and the ICU and DRAM leases that its ports hold are broken (R542, R593). -/
def State.linkReset (s : State) (p : Nat) : State :=
  s.each (s.linkPorts p) (fun s q => (s.flrPort q).breakOwned (fun o => decide (o = 512 + q)))

/-- The link is lost (R542): orderly from L2, where its functions are reset; else both ports of the link freeze. -/
def State.linkLost (s : State) (p : Nat) : State :=
  if !(s.port p).linkUp then s
  else if (s.port p).lpower = .l2 then (s.linkGone p).linkReset p
  else
    let s1 := (s.linkGone p).freezeLink p 0
    s1.each (s1.linkPorts p) (fun s q => s.breakOwned (fun o => decide (o = 512 + q)))

def execLinkDown (port : Nat) (s : State) : Res := .next (s.linkLost port)

/-- Hot reset, link disable or orderly power-down (R542): every function of the link is reset and the link is down, without a
freeze. -/
def State.hotReset (s : State) (p : Nat) : State := if (s.port p).linkUp then (s.linkGone p).linkReset p else s

def execHotReset (port : Nat) (s : State) : Res := .next (s.hotReset port)

def execHostPortPerstN (port : Nat) (asserted : Bool) (s : State) : Res :=
  .next (if !(s.portPresent port) then s
    else
      let s1 := if asserted then s.linkLost port else s
      s1.modPort port (fun x => { x with perst := asserted }))

/-- No request outstanding, nothing to send, nothing partly read (R524). -/
def State.portIdle (s : State) (p : Nat) : Bool :=
  (s.linkPorts p).all (fun q => (s.port q).reads.isEmpty && (s.port q).hold.isEmpty && !(s.port q).ptmBusy
    && (s.ringFns q).all (fun t => (s.rings t).fetch.isEmpty))

def execAspmL1Entry (port : Nat) (s : State) : Res :=
  .next (if (s.port port).linkUp && decide ((s.port port).lpower = .l0) && (s.fn (s.linkFn0 port)).aspm && s.portIdle port then
      s.each (s.linkPorts port) (fun s q => s.modPort q (fun x => { x with lpower := .l1 }))
    else s)

/-! ### Freeze and unfreeze (R542 to R546) -/

def execFreeze (port cause : Nat) (s : State) : Res :=
  .next (if s.portPresent port && decide (1 ≤ cause ∧ cause ≤ 6) && decide (s.pmu.dev = .run) then s.fatalAer port cause else s)

def execQuarantineEnd (port : Nat) (s : State) : Res :=
  .next (s.modPort port (fun x => { x with quar := [], reads := x.reads.filter (fun r => r.live || !(x.quar.contains r.tag)) }))

/-- The freeze lease of port `p` ends by lapse or break: HPC_FRZ.LEASE sets (R545). -/
def State.frzLapse (s : State) (p : Nat) : State :=
  match (s.port p).frzLease with
  | some _ => s.modPort p (fun x => { x with frzLease := none, lapsed := true })
  | none => s

def execFreezeLeaseExpiry (port : Nat) (s : State) : Res :=
  .next (match (s.port port).frzLease with
    | some l => if s.leaseOver l then s.frzLapse port else s
    | none => s)

/-- A held record of a function that may not send goes back to the head of its ring's records (R539). -/
def State.rehold (s : State) (e : Nat × Nat × List Octet × Bool) : State :=
  let n := (e.2.2.1.getD 15 0).toNat % 8
  let d := s.fresh
  d.2.modRings e.1 (fun r => r.setSlots n (⟨d.1, e.2.1, some (some (e.2.2.1, e.2.2.2))⟩ :: r.slots n))

/-- One port of an unfrozen link (R546): the held records are written while FROZEN still keeps their messages pending, so that the
messages follow them. -/
def State.unfreezeOne (s : State) (p : Nat) (drop : Bool) : State :=
  let s1 := if drop then s.each (s.ringFns p) State.disableRings else s
  let held := (s1.port p).hold
  let s2 := s1.modPort p (fun x => { x with hold := [] })
  let s3 := held.foldl (fun (s : State) e => if s.fnSends e.1 then s.putRecord e.1 e.2.1 e.2.2.1 e.2.2.2 else s) s2
  let s4 := (held.filter (fun e => !(s3.fnSends e.1))).foldr (fun e (s : State) => s.rehold e) s3
  let s5 := s4.modPort p (fun x => { x with frozen := false, frzLease := none, lapsed := false })
  s5.each (s5.knownFns p) (fun s t => s.msixFlushAll t)

/-- A GO write to HPC_UNFREEZE of port `p` (R546). -/
def State.unfreeze (s : State) (p : Nat) (drop : Bool) : State :=
  if (s.port p).frozen && (s.port p).linkUp then s.each (s.linkPorts p) (fun s q => s.unfreezeOne q drop) else s

def execHpcUnfreezeGo (port : Nat) (s : State) : Res := .next (s.unfreeze port false)

def execHpcUnfreezeDrop (port : Nat) (s : State) : Res := .next (s.unfreeze port true)

/-! ### Precision time measurement (R547) -/

/-- A dialog of port `p` is called for. -/
def State.ptmStart (s : State) (p : Nat) : State :=
  let x := s.port p
  if x.ptmValid || x.ptmBusy then s
  else if (s.fn (s.linkFn0 p)).ptmEn then (s.modPort p (fun x => { x with ptmBusy := true })).linkTlp p
  else s.modPort p (fun x => { x with ptmErr := true })

def execPtmDialog (port : Nat) (s : State) : Res := .next (if s.portPresent port then s.ptmStart port else s)

def execPtmPeriod (port : Nat) (s : State) : Res :=
  .next (if (s.port port).ptmPeriod ≠ 0 ∧ (s.fn (s.linkFn0 port)).ptmEn = true then s.ptmStart port else s)

/-- The full stamp of the local instant, whose phase the response measures; 0 while TBU is not ready. -/
def State.ptmStampAt (s : State) (phase : Nat) : DWord :=
  if s.glb.rTbu then BitVec.ofNat 72 ((s.tbu.turn % 2 ^ 48).toNat * 2 ^ 24 + s.tbu.beat % 65536 * 256 + phase % 256) else 0

def execPtmResponse (port masterTime phase : Nat) (s : State) : Res :=
  .next (if (s.port port).ptmBusy && (s.port port).linkUp then
      (s.modPort port (fun x => { x with ptmBusy := false, ptmValid := true, ptmErr := false, ptmTime := masterTime % 2 ^ 64, ptmStamp := s.ptmStampAt phase })).raise (322 + 4 * port)
    else s)

def execPtmTimeout (port : Nat) (s : State) : Res :=
  .next (if (s.port port).ptmBusy then s.modPort port (fun x => { x with ptmBusy := false, ptmErr := true }) else s)

end Sys2Proof.Machine
end

