-- ==== Sys2Proof/Machine/ConfigSpace.lean ====
section
/-!
DEFINITION. The configuration space of a function: header, capability list and the fields the spec names (R521 to R532), the BARs
(R531, R532), the routing IDs (R526), and the MSI-X table with its pending bits (R534). Field places that the spec leaves to PCI
Express, and the values of registers that it does not name, are log entry 69.
-/

namespace Sys2Proof.Machine

open Sys2Proof

/-! ### Routing IDs (R526) -/

/-- The function number of tenant `t` on its link, counted from the link's first routing ID. -/
def State.routingOffset (s : State) (t : Nat) : Nat :=
  let n := t % 1024
  if !(s.port (portOf t)).merged then n
  else if portOf t % 2 = 0 then (if n = 0 then 0 else n + 1)
  else if n = 0 then 1 else n + 1024

/-- The tenant with the routing ID `off` on the link of port `p`, the inverse of R526's table. -/
def State.routed (s : State) (p off : Nat) : Nat :=
  if !(s.port p).merged then 1024 * p + off
  else
    let lo := 2 * (p / 2)
    if off = 0 then 1024 * lo
    else if off = 1 then 1024 * (lo + 1)
    else if off ≤ 1024 then 1024 * lo + (off - 1)
    else 1024 * (lo + 1) + (off - 1024)

/-- First VF Offset of the physical function of port `p`; VF Stride is 1. -/
def State.firstVf (s : State) (p : Nat) : Nat := if !(s.port p).merged then 1 else if p % 2 = 0 then 2 else 1024

/-! ### Windows -/

/-- The octets of BAR pair `i`: 0 to 2 of the function, 3 to 5 of its VFs (R531, R532). -/
def Fn.barOctets (f : Fn) (i : Nat) : Nat :=
  match i with
  | 0 => 2 ^ 22
  | 1 => 2 ^ 20 * 2 ^ f.barSize
  | 2 => 2 ^ 16
  | 4 => 2 ^ 20 * 2 ^ f.vfBarSize
  | _ => 2 ^ 12

/-- BAR pair `i` as 64 bits: a 64-bit memory BAR, prefetchable for the apertures, aligned to its size (R531). -/
def Fn.barPair (f : Fn) (i : Nat) : Nat :=
  let a := tget 0 f.bars i
  a - a % f.barOctets i + 4 + (if i % 3 = 1 then 8 else 0)

/-- The address of the window of BAR pair `i`. -/
def Fn.barBase (f : Fn) (i : Nat) : Nat := let a := tget 0 f.bars i; a - a % f.barOctets i

/-- What the octet at offset `o` of the window of pair `k` (0, 1 or 2) of function `t` is (R531): the register window or the doorbell
page, the carriage aperture, or the MSI-X table and its pending bits. -/
def windowAt (t k o : Nat) : RegAddr :=
  let pba := if t % 1024 = 0 then 0x8000 else 0x800
  match k with
  | 0 => if t % 1024 = 0 then .bar0 (o / 8) else .page t (o / 8)
  | 1 => .aperture t o
  | _ => if o < pba then .msix t (o / 16) (o % 16 / 4) else .pba t ((o - pba) / 4)

/-- The window of the physical function of port `q` and of its VFs that memory address `a` lies in, as they stand (R531 to R533): the
function, and what the octet is. -/
def State.windowOf (s : State) (q a : Nat) : Option (Nat × RegAddr) :=
  let f := s.fn (1024 * q)
  (List.range 6).findSome? (fun i =>
    let b := f.barBase i
    let w := f.barOctets i
    if a < b then none
    else if i < 3 then (if a < b + w then some (1024 * q, windowAt (1024 * q) i (a - b)) else none)
    else if f.vfEn && decide (a < b + w * f.numVfs) then
      let t := 1024 * q + 1 + (a - b) / w
      some (t, windowAt t (i - 3) ((a - b) % w))
    else none)

/-- The part of a register word that an access of 8 octets (`full`) or of 4 at memory address `a` covers (R35). -/
def partAt (a : Nat) (p : Part) : Part :=
  match p with
  | .full => if a % 8 = 0 then .full else .other
  | .low => if a % 8 = 0 then .low else if a % 8 = 4 then .high else .other
  | .high => if a % 8 = 0 then .low else if a % 8 = 4 then .high else .other
  | .other => .other

/-- Where a request of port `p` for memory address `a` goes: the port of the function whose window takes it, what it reaches, and the
part of it; a request of 4 octets is one whole access of the MSI-X structures. -/
def State.decodeMem (s : State) (p a : Nat) (part : Part) : Option (Nat × RegAddr × Part) :=
  (s.linkPorts p).findSome? (fun q =>
    match s.windowOf q a with
    | some (t, w) => if s.pageOpen t then some (q, w, partAt a part) else none
    | none => none)

/-- A change of the window of the aperture discards the partly received carriages of the functions `ts` (R533). -/
def State.split (s : State) (ts : List Nat) : State := s.each ts (fun s t => s.dropPushes t State.rngSplit)

/-- The VFs of port `p` that the tables know. -/
def State.vfsOf (s : State) (p : Nat) : List Nat := (s.knownFns p).filter (fun t => decide (t % 1024 ≠ 0))

/-! ### Capability structures (R529) -/

/-- A structure of the configuration space: its offset, its ID, its version, the functions that hold it. -/
structure CapRow where
  off  : Nat
  id   : Nat
  ver  : Nat
  kind : Nat
deriving DecidableEq, Repr

/-- The table of R529; `kind` is 0 for PF and VF, 1 for PF, 2 for function 0 of the link. -/
def capRows : List CapRow :=
  [⟨0x40, 0x01, 0, 1⟩, ⟨0x50, 0x11, 0, 0⟩, ⟨0x60, 0x10, 0, 0⟩, ⟨0x100, 0x0001, 2, 0⟩, ⟨0x150, 0x000E, 1, 0⟩,
   ⟨0x160, 0x0010, 1, 1⟩, ⟨0x1A0, 0x0015, 1, 1⟩, ⟨0x1B0, 0x0024, 1, 1⟩, ⟨0x1C0, 0x001F, 1, 2⟩, ⟨0x1D0, 0x0019, 1, 2⟩,
   ⟨0x200, 0x0026, 1, 2⟩, ⟨0x240, 0x002A, 1, 2⟩, ⟨0x280, 0x0027, 1, 2⟩]

/-- The structures of function `t`, in order. -/
def State.caps (s : State) (t : Nat) : List CapRow :=
  capRows.filter (fun c => match c.kind with
    | 0 => true
    | 1 => decide (t % 1024 = 0)
    | _ => decide (t = s.linkFn0 (portOf t)))

/-- The offset of the structure that follows `c` in function `t`: the list below 0x100 and the one from 0x100 on end apart. -/
def State.nextCap (s : State) (t : Nat) (c : CapRow) : Nat :=
  ((s.caps t).filter (fun d => decide (c.off < d.off) && (decide (0x100 ≤ c.off) || decide (d.off < 0x100)))).head?.elim 0 (·.off)

/-- The first two or four octets of a structure. -/
def State.capHead (s : State) (t : Nat) (c : CapRow) : Nat :=
  if c.off < 0x100 then c.id + 256 * s.nextCap t c else c.id + 65536 * c.ver + 2 ^ 20 * s.nextCap t c

/-! ### Reading -/

/-- Device ID of the variant (R528). -/
def deviceId : Config.Variant → Nat
  | .c36x128 => 0xC128
  | .c36x96 => 0xC096
  | .c36x64 => 0xC064

/-- Subsystem Vendor ID and Subsystem ID (R528, R643). -/
def State.subsystem (s : State) : Nat :=
  if s.ownerNat 8 4 = 0 then 0x1F3C + 65536 * deviceId s.hw.variant else s.ownerNat 8 4

/-- The header of function `t` (R528). -/
def State.cfgHeader (s : State) (t n : Nat) : Nat :=
  let f := s.fn t
  let pf := decide (t % 1024 = 0)
  if n = 0 then (if pf then 0x1F3C + 65536 * deviceId s.hw.variant else 2 ^ 32 - 1)
  else if n = 1 then 2 * b2n (pf && f.memEn) + 4 * b2n f.bme + 2 ^ 10 * b2n pf + 2 ^ 20
  else if n = 2 then 1 + 2 ^ 24 * 0x12
  else if n = 3 then (if pf && (s.port (portOf t)).merged && decide (t = s.linkFn0 (portOf t)) then 2 ^ 23 else 0)
  else if 4 ≤ n ∧ n < 10 then (if pf then f.barPair ((n - 4) / 2) / 2 ^ (32 * (n % 2)) % 2 ^ 32 else 0)
  else if n = 11 then s.subsystem
  else if n = 13 then ((s.caps t).head?.elim 0 (·.off))
  else 0

/-- The registers of PCI Power Management, MSI-X and PCI Express (R521, R530, R534, R540). -/
def State.cfgLow (s : State) (t n : Nat) : Nat :=
  let f := s.fn t
  let pf := decide (t % 1024 = 0)
  let x := s.port (portOf t)
  if n = 0x40 / 4 then 2 ^ 16 * 3
  else if n = 0x44 / 4 then 3 * b2n f.d3 + 8
  else if n = 0x50 / 4 then 2 ^ 16 * (msixSize t - 1) + 2 ^ 30 * b2n f.fmask + 2 ^ 31 * b2n f.msixEn
  else if n = 0x54 / 4 then 4
  else if n = 0x58 / 4 then (if pf then 0x8004 else 0x804)
  else if n = 0x60 / 4 then 2 ^ 16 * 2
  else if n = 0x64 / 4 then 2 + 2 ^ 5 + 2 ^ 15 + 2 ^ 28
  else if n = 0x68 / 4 then 2 ^ 5 * f.mps + 2 ^ 12 * f.mrrs
  else if n = 0x6C / 4 then 5 + 2 ^ 4 * (if x.merged then 16 else 8) + 2 ^ 11 + 2 ^ 15 * 3 + 2 ^ 22 + 2 ^ 24 * portOf t
  else if n = 0x70 / 4 then 2 * b2n f.aspm + 2 ^ 16 * (x.speed + 2 ^ 4 * x.width)
  else if n = 0x84 / 4 then 2 ^ 16 + 2 ^ 17
  else if n = 0x88 / 4 then 2 ^ 12 * b2n f.tag10
  else if n = 0x8C / 4 then 0x3E
  else if n = 0x90 / 4 then 5
  else 0

/-- The registers of the extended structures (R525, R526, R530, R532, R547). -/
def State.cfgHigh (s : State) (t n : Nat) : Nat :=
  let f := s.fn t
  if n = 0x104 / 4 then f.aerUnc
  else if n = 0x108 / 4 then f.aerMask
  else if n = 0x10C / 4 then f.aerSev
  else if n = 0x110 / 4 then f.aerCor
  else if n = 0x114 / 4 then f.aerCorMask
  else if n = 0x154 / 4 then (if (s.port (portOf t)).merged && decide (t = s.linkFn0 (portOf t)) then 256 else 0)
  else if t % 1024 ≠ 0 then 0
  else if n = 0x168 / 4 then b2n f.vfEn
  else if n = 0x16C / 4 then 1023 + 65536 * 1023
  else if n = 0x170 / 4 then f.numVfs
  else if n = 0x174 / 4 then s.firstVf (portOf t) + 65536
  else if n = 0x178 / 4 then 65536 * 0xC13F
  else if n = 0x17C / 4 then 1
  else if n = 0x180 / 4 then 1
  else if 0x184 / 4 ≤ n ∧ n < 0x19C / 4 then f.barPair (3 + (n - 0x184 / 4) / 2) / 2 ^ (32 * ((n - 0x184 / 4) % 2)) % 2 ^ 32
  else if n = 0x1A4 / 4 then 0x001FFFF0
  else if n = 0x1A8 / 4 then 2 + 2 ^ 5 + 2 ^ 8 * f.barSize
  else if n = 0x1B4 / 4 then 0x001FFFF0
  else if n = 0x1B8 / 4 then 2 + 2 ^ 5 + 2 ^ 8 * f.vfBarSize
  else if t ≠ s.linkFn0 (portOf t) then 0
  else if n = 0x1C4 / 4 then 1
  else if n = 0x1C8 / 4 then b2n f.ptmEn
  else 0

/-- The 4 octets at offset 4n of the configuration space of function `t`; all ones where there is none. -/
def State.cfgRead (s : State) (t n : Nat) : Nat :=
  if !(s.fnExists t) then 2 ^ 32 - 1
  else
    let head := match (s.caps t).find? (fun c => decide (c.off = 4 * n)) with
      | some c => s.capHead t c
      | none => 0
    if n < 16 then s.cfgHeader t n
    else if t % 1024 ≠ 0 ∧ n < 20 then 0
    else if n < 64 then head + s.cfgLow t n
    else head + s.cfgHigh t n

/-! ### Writing -/

/-- Memory Space Enable of a physical function (R533). -/
def State.setMemEn (s : State) (t : Nat) (b : Bool) : State :=
  if (s.fn t).memEn = b then s else (s.split (s.knownFns (portOf t))).modFn t (fun x => { x with memEn := b })

/-- BAR pair `i` of physical function `t` takes a new address (R531, R533). -/
def State.setBar (s : State) (t i a : Nat) : State :=
  let f := s.fn t
  let v := a % 2 ^ 64 - a % 2 ^ 64 % f.barOctets i
  if tget 0 f.bars i = v then s
  else (s.split (if i = 1 then [t] else if i = 4 then s.vfsOf (portOf t) else [])).modFn t (fun x => { x with bars := tset 0 x.bars i v })

/-- Half `h` (0 low, 1 high) of BAR pair `i` is written. -/
def State.setBarHalf (s : State) (t i h v : Nat) : State :=
  let a := tget 0 (s.fn t).bars i
  s.setBar t i (if h = 0 then a / 2 ^ 32 * 2 ^ 32 + v % 2 ^ 32 else v % 2 ^ 32 * 2 ^ 32 + a % 2 ^ 32)

/-- BAR Size of BAR2, of the function or of its VFs (R532, R533); an encoding above 16 is not one. -/
def State.setBarSize (s : State) (t v : Nat) : State :=
  if 16 < v ∨ (s.fn t).barSize = v then s else (s.split [t]).modFn t (fun x => { x with barSize := v })
def State.setVfBarSize (s : State) (t v : Nat) : State :=
  if 16 < v ∨ (s.fn t).vfBarSize = v then s else (s.split (s.vfsOf (portOf t))).modFn t (fun x => { x with vfBarSize := v })

/-- NumVFs, which is not written while VF Enable is 1, and VF Enable (R525, R527). -/
def State.setNumVfs (s : State) (t v : Nat) : State :=
  if (s.fn t).vfEn then s else s.modFn t (fun x => { x with numVfs := min v 1023 })
def State.setVfEn (s : State) (t : Nat) (b : Bool) : State :=
  if (s.fn t).vfEn = b then s else if b then s.modFn t (fun x => { x with vfEn := true }) else s.vfClear (portOf t)

/-- A write of the header and of the structures below 0x100 (R521, R524, R528, R530, R534, R540, R541). -/
def State.cfgWriteLow (s : State) (t n v : Nat) : State :=
  let pf := decide (t % 1024 = 0)
  if n = 1 then
    let s1 := if pf then s.setMemEn t (bit v 1) else s
    if (s1.fn t).bme = bit v 2 then s1 else s1.setBme t (bit v 2)
  else if 4 ≤ n ∧ n < 10 then (if pf then s.setBarHalf t ((n - 4) / 2) (n % 2) v else s)
  else if n = 0x44 / 4 then
    (if !pf ∨ (bits v 1 0 ≠ 0 ∧ bits v 1 0 ≠ 3) ∨ (s.fn t).d3 = decide (bits v 1 0 = 3) then s else s.setD3 t (decide (bits v 1 0 = 3)))
  else if n = 0x50 / 4 then (s.modFn t (fun x => { x with fmask := bit v 30, msixEn := bit v 31 })).msixFlushAll t
  else if n = 0x68 / 4 then
    let s1 := if pf then s.modFn t (fun x => { x with mps := if bits v 7 5 ≤ 2 then bits v 7 5 else x.mps, mrrs := if bits v 14 12 ≤ 5 then bits v 14 12 else x.mrrs }) else s
    if bit v 15 then s1.flr t else s1
  else if n = 0x70 / 4 then (if pf then s.modFn t (fun x => { x with aspm := bit v 1 }) else s)
  else if n = 0x88 / 4 then (if pf then s.modFn t (fun x => { x with tag10 := bit v 12 }) else s)
  else s

/-- A write of the extended structures (R525, R532, R542, R547). -/
def State.cfgWriteHigh (s : State) (t n v : Nat) : State :=
  if n = 0x104 / 4 then s.modFn t (fun x => { x with aerUnc := clearBits x.aerUnc v })
  else if n = 0x108 / 4 then s.modFn t (fun x => { x with aerMask := v % 2 ^ 32 })
  else if n = 0x10C / 4 then s.modFn t (fun x => { x with aerSev := v % 2 ^ 32 })
  else if n = 0x110 / 4 then s.modFn t (fun x => { x with aerCor := clearBits x.aerCor v })
  else if n = 0x114 / 4 then s.modFn t (fun x => { x with aerCorMask := v % 2 ^ 32 })
  else if t % 1024 ≠ 0 then s
  else if n = 0x168 / 4 then s.setVfEn t (bit v 0)
  else if n = 0x170 / 4 then s.setNumVfs t (v % 65536)
  else if 0x184 / 4 ≤ n ∧ n < 0x19C / 4 then s.setBarHalf t (3 + (n - 0x184 / 4) / 2) ((n - 0x184 / 4) % 2) v
  else if n = 0x1A8 / 4 then s.setBarSize t (bits v 13 8)
  else if n = 0x1B8 / 4 then s.setVfBarSize t (bits v 13 8)
  else if n = 0x1C8 / 4 ∧ t = s.linkFn0 (portOf t) then s.modFn t (fun x => { x with ptmEn := bit v 0 })
  else s

/-- Where a write of two of the four octets finds the other two: W1C and WO bits of those are not written (R35's way). -/
def State.cfgKept (s : State) (t n : Nat) : Nat :=
  if n = 0x104 / 4 ∨ n = 0x110 / 4 then 0 else s.cfgRead t n

/-- A write of the configuration space of function `t` at offset 4n. -/
def State.cfgWrite (s : State) (t n : Nat) (p : Part) (v : Nat) : State :=
  if !(s.fnExists t) then s
  else
    let old := s.cfgKept t n
    let w := match p with
      | .low => old / 65536 * 65536 + v % 65536
      | .high => v % 65536 * 65536 + old % 65536
      | _ => v % 2 ^ 32
    if n < 64 then s.cfgWriteLow t n w else s.cfgWriteHigh t n w

/-! ### MSI-X (R534) -/

/-- A write of quarter `q` (4 octets) of MSI-X entry `v` of function `t` (R534, R536). -/
def State.msixWrite (s : State) (t v q w : Nat) : State :=
  if !(s.pageOpen t) then s.urWrite t
  else if msixSize t ≤ v then s
  else
    let lo := w % 2 ^ 32
    let s1 := s.modFn t (fun f =>
      let m := f.vec v
      f.setVec v (match q with
        | 0 => { m with addrLo := lo }
        | 1 => { m with addrHi := lo }
        | 2 => { m with data := lo }
        | _ => { m with mask := bit lo 0 }))
    s1.msixFlush t v

/-- A read of quarter `q` of MSI-X entry `v` of function `t`. -/
def State.msixRead (s : State) (t v q : Nat) : Nat :=
  let m := (s.fn t).vec v
  if msixSize t ≤ v then 0
  else match q with
    | 0 => m.addrLo
    | 1 => m.addrHi
    | 2 => m.data
    | _ => b2n m.mask

/-- The 32 pending bits at offset 4n of the PBA of function `t` (R534). -/
def State.pbaRead (s : State) (t n : Nat) : Nat :=
  ((List.range 32).filter (fun i => ((s.fn t).vec (32 * n + i)).pend)).foldl (fun (m : Nat) i => m + 2 ^ i) 0

end Sys2Proof.Machine
end

