-- ==== Sys2Proof/Machine/Dmc.lean ====
section
/-!
DEFINITION. The DRAM controller: refresh (R562, R563), retraining (R565, R566), the frequency change and its lease (R567 to R570),
scrubbing and write back (R571, R573).
-/

namespace Sys2Proof.Machine

open Sys2Proof

/-- Channel `c` holds slots and serves requests. -/
def State.chanRuns (s : State) (c : Nat) : Bool := (s.chan c).active && decide ((s.chan c).st = .running)

/-! ### Refresh -/

/-- A per-bank refresh is performed (R562): the bank is precharged, and the refreshes that it had postponed are made good. -/
def State.refreshBank (s : State) (c b : Nat) : State :=
  s.modChan c (fun x => { x with postponed := tset 0 x.postponed b 0, openRow := tset none x.openRow b none })

/-- A per-bank refresh falls due (R562): it is performed, or a bank with a request queued postpones it, up to eight times, as a free value
says. -/
def State.refreshDue (s : State) (c b : Nat) : State :=
  if (s.chan c).wq.any (fun l => decide ((s.place l).bank = b)) && decide (tget 0 (s.chan c).postponed b < 8) then
    let d := s.draw 2
    if d.1 = 1 then d.2.modChan c (fun x => { x with postponed := tset 0 x.postponed b (tget 0 x.postponed b + 1) }) else d.2.refreshBank c b
  else s.refreshBank c b

def execPerBankRefresh (channel bank : Nat) (s : State) : Res :=
  .next (if s.chanRuns channel && decide (bank < 32) then s.refreshDue channel bank else s)

def execMr4Read (channel mult : Nat) (s : State) : Res :=
  .next (if s.chanRuns channel then s.modChan channel (fun x => { x with mult := mult }) else s)

def execNeighbourRefresh (channel bank : Nat) (s : State) : Res :=
  .next (if s.chanRuns channel then s.rhPerform channel bank else s)

/-- The oldest write has waited WMAX reference cycles (R555): it is served first, and a drain that this forces is counted. -/
def execWriteAgeExpiry (channel : Nat) (s : State) : Res :=
  .next (if s.chanRuns channel && !(s.chan channel).wq.isEmpty then
      let d := if (s.chan channel).drain then ((s.chan channel).forced, false) else bump 511 (s.chan channel).forced
      let s1 := s.modChan channel (fun x => { x.startDrain with aged := true, forced := d.1 })
      if d.2 then s1.raise (336 + 4 * channel) else s1
    else s)

/-! ### Retraining (R565, R566) -/

/-- Channel `c` is offlined (R566): its slots are lost to every reader, the writes that it had queued are discarded with their records,
and the slot map does not change. -/
def State.chanOffline (s : State) (c : Nat) : State :=
  let pos := s.activeChans.idxOf c
  let queued := (s.chan c).wq
  let s1 := s.modChan c (fun x => { x with st := .offline, lastFail := true, pauseDue := false, wback := [], neigh := [], openRow := [], wq := [], drain := false, aged := false })
  let s2 := { s1 with glb := { s1.glb with rDram := putBit s1.glb.rDram c false }, mem := { s1.mem with gone := s1.mem.gone ++ [pos] } }
  queued.foldl (fun (s : State) l => s.noteOne none (.gone l)) ((s2.raise (338 + 4 * c)).record 7 2 (unitDmc c) none none none c)

/-- A pause taken now is taken in a quiet window (R565). -/
def State.pauseInWindow (s : State) (c : Nat) : Bool := (s.dmcLk c).quiet && s.glb.rTbu && s.quietAllows 1000

/-- A pause of channel `c` that succeeds. -/
def State.pauseTaken (s : State) (c : Nat) : State :=
  s.modChan c (fun x => { x with pauseDue := false, lastTimer := !(s.pauseInWindow c) })

def execRetrainingPauseDue (channel : Nat) (s : State) : Res :=
  .next (if s.chanRuns channel then s.modChan channel (fun x => { x with pauseDue := true }) else s)

def execRetrainingPause (channel : Nat) (first second : Bool) (s : State) : Res :=
  .next (if !(s.chanRuns channel) || !(s.chan channel).pauseDue || s.dmc.busy then s
    else if first || second then s.pauseTaken channel
    else (s.pauseTaken channel).chanOffline channel)

/-! ### Scrubbing and write back (R571, R573) -/

/-- The line of slot number `q` of channel `c` (R553). -/
def State.chanLine (s : State) (c q : Nat) : Nat := q * s.activeChans.length + s.activeChans.idxOf c

/-- A scrub read of the next slot of channel `c` (R573): an uncorrectable slot is recorded and stays as it is, and one beneath
a scratch bank is not read (R383). -/
def State.scrub (s : State) (c : Nat) (found : ScrubFind) : State :=
  let q := (s.chan c).scrubPos
  let l := s.chanLine c q
  let next := fun (s : State) => s.modChan c (fun x => { x with scrubPos := (q + 1) % max 1 x.slots })
  let u := match found with
    | .clean => s.mem.dramUp l
    | .corrected y => some (((s.mem.dramUp l).map (·.1)).getD false, y)
    | .uncorrectable => some (true, 0)
  let m := s.mem.dropUps l Upset.isDram
  let m1 := match u with
    | some e => { m with upsets := m.upsets ++ [(l, .dram e.1 e.2)] }
    | none => m
  let s0 := (next { s with mem := m1 }).noteOne none (.read l)
  if s.mem.inScratch l then next s
  else match u with
  | some (true, _) => s0.noteOne none (.dramLost l)
  | some (false, y) => if (s.mem.home l).bad then s0.noteOne none (.poisonRead l) else s0.noteOne none (.dramCorrected l y)
  | none => if (s.mem.home l).bad then s0.noteOne none (.poisonRead l) else s0

def execScrubRead (channel : Nat) (found : ScrubFind) (s : State) : Res :=
  .next (if s.chanRuns channel && (s.dmcLk channel).scrubEn then s.scrub channel found else s)

/-- The oldest corrected slot that waits is written back (R571): an ordinary write, after which the slot holds no error. -/
def execEccWriteback (channel : Nat) (s : State) : Res :=
  .next (match (s.chan channel).wback with
    | [] => s
    | l :: rest =>
      if s.chanRuns channel then (s.modChan channel (fun x => { x with wback := rest })).onMem (fun m => (m.dropUps l Upset.isDram).note (.write l)) else s)

/-! ### The maintenance lease and the frequency change (R567 to R570) -/

/-- The requester that holds the maintenance lease. -/
def State.dmcHolds (s : State) (r : Requester) : Bool :=
  match s.dmc.lease with
  | some l => decide (l.owner = reqCode r)
  | none => false

/-- ACQUIRE (R567 step 1). -/
def State.dmcAcquire (s : State) (r : Requester) : State :=
  match s.dmc.lease with
  | some _ => s
  | none =>
    let saved := s.activeChans.map (fun c => (c, (s.chan c).tsa, (s.chan c).tsb))
    let l : MaintLease := { owner := reqCode r, saved := saved, target := s.dmc.target, quiet := s.dmc.quiet, until_ := s.leaseFor s.lk.maintLen, committed := false }
    { s with dmc := { s.dmc with lease := some l } }

/-- COMMIT (R567 step 3). -/
def State.dmcCommit (s : State) (r : Requester) : State :=
  match s.dmc.lease with
  | some l =>
    if l.owner = reqCode r ∧ l.committed = false then { s with dmc := { s.dmc with lease := some { l with committed := true }, busy := true } }
    else s
  | none => s

/-- ABORT before COMMIT: the lease ends with nothing changed (R567). -/
def State.dmcAbort (s : State) (r : Requester) : State :=
  match s.dmc.lease with
  | some l =>
    if l.owner = reqCode r ∧ l.committed = false then
      let s1 := s.tsetRestore l.saved
      { s1 with dmc := { s1.dmc with lease := none, target := l.target, quiet := l.quiet } }
    else s
  | none => s

def execDmcLeaseExpiry (s : State) : Res :=
  .next (match s.dmc.lease with
    | some l => if !l.committed && s.leaseOver l.until_ then s.dmcBreak else s
    | none => s)

/-- Entry to and exit from self-refresh, with every queued write and the pending neighbour refreshes of step 4 performed (R567, R570). -/
def State.chanRefresh (s : State) (c : Nat) : State :=
  let s := s.serveAll c
  let s1 := (tkeys (s.chan c).neigh).foldl (fun (s : State) b =>
    (List.range (tget [] (s.chan c).neigh b).length).foldl (fun (s : State) _ => s.rhPerform c b) s) s
  s1.modChan c (fun x => { x with postponed := [], openRow := [] })

/-- Steps 4 to 8 of R567, with R568: `failNew` are the channels whose pause fails at the new rate, `failOld` those that fail at
the old rate as well. -/
def State.changeRate (s : State) (failNew failOld : List Nat) : State :=
  let chans := s.activeChans.filter (fun c => decide ((s.chan c).st = .running))
  let s1 := s.each chans State.chanRefresh
  let bad := chans.filter (fun c => failNew.contains c || decide (4 < s.dmc.target))
  let s2 := s1.each chans State.pauseTaken
  let s3 := match bad with
    | [] => s2.each chans (fun s c => s.modChan c (fun x => { x with tset := !x.tset, rate := s.dmc.target }))
    | c :: _ =>
      let dead := bad.filter (fun c => failOld.contains c)
      (s2.record 7 0 (unitDmc c) none none none c).each dead State.chanOffline
  ({ s3 with dmc := { s3.dmc with busy := false, fail := !bad.isEmpty, lease := none } }).raise 339

def execFrequencyChange (failNew failOld : List Nat) (s : State) : Res :=
  .next (if !s.dmc.busy then s
    else if s.dmc.quiet && s.glb.rTbu && !(s.quietAllows 25000) then s
    else s.changeRate failNew failOld)

end Sys2Proof.Machine
end

