-- ==== Sys2Proof/Machine/Service.lean ====
section
/-!
DEFINITION. The service core: the carriages that it carries out itself (R414) other than POWER, the loading of microcode (R402 to
R407), and the breaking of leases (R593, R594).
-/

namespace Sys2Proof.Machine

open Sys2Proof

/-- The critical carriage at the head of the service core's queue is carried out by `f` when it satisfies `sel`, after the carriages
before it that go on to the EAU. -/
def State.svcRow (s0 : State) (sel : Carriage → Bool) (f : State → Carriage → State) : State :=
  let s := s0.handOver
  match s.rng.svcQ with
  | [] => s
  | c :: rest => if s.svcIdle && sel c then f { s with rng := { s.rng with svcQ := rest } } c else s

/-! ### DEVID_SET, RELEASE_CORE, KEY_ROLL (R49, R414, R440) -/

/-- Carry out DEVID_SET. -/
def State.devidCarriage (s : State) (c : Carriage) : State :=
  let s1 := s.keepDevid
  { s1 with bsu := { s1.bsu with devid := c.body 16 2 } }.complete c 0 []

def execDevidSet (s : State) : Res := .next (s.svcRow (fun c => decide (c.op = 0x13)) State.devidCarriage)

/-- The cores that a RELEASE_CORE mask releases. -/
def State.hostCores (s : State) (mask : Nat) : List Nat :=
  (List.range 128).filter (fun k => mask.testBit k && decide (s.condOf k = 3) && s.canRelease k)

/-- Carry out RELEASE_CORE. -/
def State.releaseCarriage (s : State) (c : Carriage) : State :=
  let mask := c.body 16 16
  if 2 ^ (8 * Config.clusters s.hw.variant) ≤ mask then s.complete c 2 []
  else
    let ks := s.hostCores mask
    (s.each ks State.releaseOne).complete c 0 (octetsLe 1 ks.length)

def execReleaseCore (s : State) : Res := .next (s.svcRow (fun c => decide (c.op = 0x25)) State.releaseCarriage)

/-- Carry out KEY_ROLL. -/
def State.keyRollCarriage (s : State) (c : Carriage) : State :=
  let t := c.body 16 2
  match (s.keyRec c.tenant).key with
  | none => s.complete c 3 []
  | some k =>
    match kwUnwrap k c.data with
    | none => s.complete c 3 []
    | some new =>
      let r := s.keyRec t
      let zero := decide (c.body 18 1 = 1) && decide (t ≠ 0)
      let r1 : KeyRec := if zero then { key := some new, last := 0, ceiling := 0 } else { r with key := some new }
      (s.setKey t r1).complete c 0 []

def execKeyRoll (s : State) : Res := .next (s.svcRow (fun c => decide (c.op = 0x23)) State.keyRollCarriage)

/-! ### What TENANT_KILL stops (R259, R415, R593) -/

/-- Write the dead mark of tenant `t`. -/
def State.setDead (s : State) (t : Nat) (b : Bool) : State := { s with bsu := { s.bsu with dead := tset false s.bsu.dead t b } }

/-- The leases that the kill of tenant `t` breaks (R593). -/
def State.killLeases (s : State) (t : Nat) : State :=
  let s1 := s.ringBreak t
  let s2 := s1.each ((s1.eau.profs.filter (fun e => e.2.owned && decide (e.2.owner = t))).map (·.1)) State.profBreak
  let s3 := s2.each ((s2.eau.pools.filter (fun e => e.2.owned && decide (e.2.owner = t))).map (·.1)) State.poolBreak
  s3.breakOwned (fun o => decide (o < 512) && decide ((s3.ctx o).pcc.tenant = t))

/-- Fetch from the rings of tenant `t` stops: what is partly read is discarded (R415). -/
def State.killFetches (s : State) (t : Nat) : State := s.each [0, 1, 2, 3] (fun s n => s.dropFetch t n false)

/-! ### Xarex images (R402, R407) -/

/-- A parsed Xarex image. -/
structure Xarex where
  key    : Nat
  ver    : Nat
  minrom : Nat
  table  : List Nat
  words  : List Nat
deriving DecidableEq, Repr

/-- The ROM revision, MC_VERSION.ROM (R408). -/
def romRev : Nat := 1

/-- The entry of a table is in the form of R407. -/
def xEntryOk (patch : Bool) (e : Nat) : Bool := if patch then decide (e < 2 ^ 25) else decide (e < 2 ^ 36) && decide (e % 4 = 0)

/-- Header, length and digest of an image of the given kind (R407). -/
def parseXarex (patch : Bool) (d : List Octet) : Option Xarex :=
  let ver := hNat d 8 2
  let nw := hNat d 10 2
  let ne := hNat d 12 2
  let n := 8 * ne + 16 * nw
  let total := 96 + n + (if patch then 384 else 0)
  let bodyOs := (d.drop 96).take n
  let table := (pieces 8 ne bodyOs).map leNat
  let words := (pieces 16 nw (bodyOs.drop (8 * ne))).map leNat
  let ok := decide (hNat d 0 4 = 0x31585258) && decide (hNat d 4 2 = 1) && decide (hNat d 6 1 = if patch then 1 else 2)
    && (if patch then decide (hNat d 7 1 ≤ 3) else decide (hNat d 7 1 = 0))
    && decide (1 ≤ ver) && (patch || decide (ver ≤ 4095))
    && decide (1 ≤ nw) && decide (nw ≤ if patch then 1024 else 512)
    && (if patch then decide (ne ≤ 64) else decide (ne = 64))
    && decide (hNat d 16 4 = d.length) && decide (d.length = total) && decide (hNat d 20 28 = 0)
    && table.all (xEntryOk patch) && words.all (fun w => decide (w < 2 ^ 120))
    && decide (sha384 bodyOs = (d.drop 48).take 48)
  if ok then some ⟨hNat d 7 1, ver, hNat d 14 2, table, words⟩ else none

/-- A public key hashes to the given fuse (R636). -/
def hashesTo (pub : List Octet) (h : Option (List Octet)) : Bool :=
  match h with
  | some x => decide (sha384 pub = x)
  | none => false

/-- The vendor half of a signature block verifies over octets 0 to 95 of a header, under unrevoked vendor key `k` (R635, R636). -/
def State.vendorSigOk (s : State) (k : Nat) (block header : List Octet) : Bool :=
  let pub := block.take 96
  hashesTo pub (s.bsu.fuses.vendor.getD k none) && !(s.bsu.fuses.revoked.testBit k)
    && ecdsaOk pub ((block.drop 96).take 96) (header.take 96)

/-- Halves of a core of one kind: patch or customer. -/
def Core.pair (c : Core) (patch : Bool) : Half × Half := if patch then (c.p0, c.p1) else (c.h0, c.h1)

/-- The cores of ready clusters, offlined ones among them: they take a load (R404). -/
def State.loadCores (s : State) : List Nat := (List.range (8 * Config.clusters s.hw.variant)).filter (fun k => s.cluReady (k / 8))

/-- The VERSION of the active patch image of core `k`, MC_VERSION.PATCH (R408). -/
def Core.patchVer (c : Core) : Nat := if c.p1.st = .active then c.p1.ver else c.p0.ver

/-- The VERSION of the active patch image: the highest that a core runs, or that of the secure flash when no cluster is ready. -/
def State.patchVer (s : State) : Nat :=
  match s.loadCores with
  | [] => (s.bsu.flash.patch.map (·.1)).getD 0
  | ks => ks.foldl (fun m k => max m (s.core k).patchVer) 0

/-- The status of an image under R402, in the order of its table, or the image. -/
def State.checkImage (s : State) (patch : Bool) (d : List Octet) : Except Nat Xarex :=
  match parseXarex patch d with
  | none => .error 2
  | some x =>
    if !patch && !(custImageOk x.words x.table) then .error 2
    else if patch && !(s.vendorSigOk x.key (d.drop (d.length - 384)) d) then .error 3
    else if patch && decide (x.ver ≤ s.patchVer) then .error 4
    else if romRev < x.minrom then .error 8
    else .ok x

/-! ### Breaking leases on request (R594) -/

/-- Break the lease of the given KIND and INDEX. -/
def State.leaseBreak (s : State) (kind index : Nat) : State :=
  match kind with
  | 0 => s.icuBreak
  | 1 => s.ringBreak index
  | 2 => s.profBreak index
  | 3 => s.poolBreak index
  | 4 => s.dmcBreak
  | 5 => s.frzLapse index
  | _ => s

/-- The requested break is made, once no critical carriage is being carried out (R595). -/
def State.breakDue (s : State) : State :=
  match s.bsu.brk with
  | some (kind, index) =>
    if s.bsu.job.isNone && s.pmu.job.isNone then ({ s with bsu := { s.bsu with brk := none } }).leaseBreak kind index else s
  | none => s

/-- A write to BSU_LEASEBRK with GO (R594): ignored while BUSY; else KIND and INDEX as written, and the break, which waits for the
critical carriage in progress (R595). -/
def State.leaseGo (s : State) (kind index : Nat) : State :=
  if s.bsu.brk.isSome then s
  else ({ s with bsu := { s.bsu with brkKind := kind, brkIndex := index, brk := some (kind, index) } }).breakDue

/-! ### Loading (R404, R406) -/

/-- Write both halves of one kind. -/
def Core.setPair (c : Core) (patch : Bool) (a b : Half) : Core := if patch then { c with p0 := a, p1 := b } else { c with h0 := a, h1 := b }

/-- The half that a load writes: the one that is not active (R404). -/
def Core.spare (c : Core) (patch : Bool) : Nat := if (c.pair patch).1.st = .active then 1 else 0

/-- Which half of one kind is active. -/
def Core.activeOf (c : Core) (patch : Bool) : Nat := if (c.pair patch).2.st = .active then 1 else 0

/-- Step 3: LOADPEND sets, and the retired half is closed. -/
def Core.loadStart (patch : Bool) (c : Core) : Core :=
  let p := c.pair patch
  let c1 := if c.spare patch = 0 then c.setPair patch { p.1 with st := .closed } p.2 else c.setPair patch p.1 { p.2 with st := .closed }
  { c1 with loadPend := true }

/-- An image written into a half: its load generation rises by 1 (R394). -/
def Half.write (h : Half) (ver : Nat) (words table : List Nat) : Half :=
  { st := .active, gen := (h.gen + 1) % 2 ^ 21, ver := ver, words := words, table := table }

/-- Steps 5 and 6: the image is written and the halves flip. -/
def Core.flip (patch : Bool) (ver : Nat) (words table : List Nat) (c : Core) : Core :=
  let p := c.pair patch
  let c1 := if c.spare patch = 0 then c.setPair patch (p.1.write ver words table) { p.2 with st := .retired }
    else c.setPair patch { p.1 with st := .retired } (p.2.write ver words table)
  { c1 with loadPend := false }

/-- Whether a customer routine of core `k` runs in the half that a load of customer microcode writes (R404 step 4). -/
def State.halfBusy (s : State) (k : Nat) (patch : Bool) : Bool :=
  !patch && !(tget false s.ras.coreOff k) && [0, 1, 2, 3].any (fun i => match (s.ctx (4 * k + i)).routine with
    | some r => decide (r.half = (s.core k).spare false)
    | none => false)

/-- Step 7: every core has flipped; the image goes to secure flash and the carriage completes. -/
def State.loadFinish (s : State) : State :=
  match s.bsu.job with
  | none => s
  | some j =>
    if !j.left.isEmpty then s
    else
      let img := some (j.ver, j.words, j.table)
      let fl := if j.patch then { s.bsu.flash with patch := img } else { s.bsu.flash with custom := img }
      ({ s with bsu := { s.bsu with job := none, flash := fl } }.complete j.c 0 (octetsLe 2 j.ver)).breakDue

/-- INFO of a critical carriage that ends with `st`: its tenant's last accepted counter after REPLAY, else zero (R420). -/
def State.endInfo (s : State) (c : Carriage) (st : Nat) : List Octet := if st = 4 then octetsLe 7 (s.keyRec c.tenant).last else []

/-- The sizes of the host reads for `n` octets from address `a`, each at most `m` octets and within 4 KiB (R537). -/
def readSizes (m : Nat) : Nat → Nat → Nat → List (Nat × Nat)
  | 0, _, _ => []
  | fuel + 1, a, n =>
    let k := min n (min m (4096 - a % 4096))
    if k = 0 then [] else (a, k) :: readSizes m fuel (a + k) (n - k)

/-- The service core reads IMAGE_LEN octets from IMAGE through the host port of carriage `c`, one request at a time (R414, R537); a read
that times out is recorded as a carriage's (R538). -/
def State.readImage (s : State) (c : Carriage) (image : ImageRead) : State :=
  let p := portOf c.tenant
  let n := c.body 32 4
  let g := (s.freeTag p).getD 0
  let all := readSizes (128 * 2 ^ (s.fn c.tenant).mrrs) (n / 64 + 2) (c.body 24 8) n
  let asked := match image with
    | .octets _ => all
    | .timeout => all.take 1
  let s1 := asked.foldl (fun (s : State) r => s.emit (.read p g c.tenant r.1 r.2)) (s.linkTlp p)
  match image with
  | .octets _ => s1
  | .timeout => s1.aerError c.tenant aerTimeout

/-- Carry out PATCH_LOAD or DECODE_LOAD with what the read of the image brought (R402, R404, R414). -/
def State.loadCarriage (patch : Bool) (image : ImageRead) (s0 : State) (c : Carriage) : State :=
  let s := s0.readImage c image
  match image with
  | .timeout => s.complete c 10 []
  | .octets d =>
    if d.length ≠ c.body 32 4 ∨ d.take 96 ≠ c.data then s.complete c 2 []
    else match s.checkImage patch d with
      | .error st => s.complete c st (s.endInfo c st)
      | .ok x =>
        let ks := s.loadCores
        let s1 := s.each ks (fun s k => s.modCore k (Core.loadStart patch))
        let j : LoadJob := { c := c, patch := patch, ver := x.ver, words := x.words, table := x.table, left := ks, before := ks.map (fun k => (k, (s.core k).pair patch)) }
        ({ s1 with bsu := { s1.bsu with job := some j } }).loadFinish

def execPatchLoad (image : ImageRead) (s : State) : Res :=
  .next (s.svcRow (fun c => decide (c.op = 0x21)) (State.loadCarriage true image))

def execDecodeLoad (image : ImageRead) (s : State) : Res :=
  .next (s.svcRow (fun c => decide (c.op = 0x22)) (State.loadCarriage false image))

/-- Core `k` no longer takes part in the load in progress. -/
def State.loadLeave (s : State) (k : Nat) : State :=
  match s.bsu.job with
  | none => s
  | some j => ({ s with bsu := { s.bsu with job := some { j with left := j.left.filter (· ≠ k) } } }).loadFinish

def execMicrocodeFlip (core : Nat) (s : State) : Res :=
  .next (match s.bsu.job with
    | none => s
    | some j =>
      if !(j.left.contains core) || s.halfBusy core j.patch then s
      else (s.modCore core (Core.flip j.patch j.ver j.words j.table)).loadLeave core)

/-- The half that a cluster's power-up loads with the active image of the secure flash, or leaves empty (R387, R406). -/
def Half.powerUp (h : Half) (image : Option (Nat × List Nat × List Nat)) : Half :=
  match image with
  | some (v, w, t) => h.write v w t
  | none => { st := .active, gen := h.gen }

/-- Core `k` as its cluster's power-up leaves it: P0 and H0 active, P1 and H1 closed, nothing released (R387, R406, R649). -/
def State.loadCore (s : State) (k : Nat) : State :=
  let f := s.bsu.flash
  s.modCore k (fun c =>
    { p0 := c.p0.powerUp f.patch, p1 := { gen := c.p1.gen }, h0 := c.h0.powerUp (if Config.decode s.hw.variant then f.custom else none), h1 := { gen := c.h1.gen } })

/-- Firmware writes BSU_WDOG: the period starts again; the expiry itself is a command (log entry 3). -/
def execBsuWdogWrite (s : State) : Res := .next s

end Sys2Proof.Machine
end

