-- ==== Sys2Proof/Machine/RasOff.lean ====
section
/-!
DEFINITION. What clusters and cores go through as a whole: wake (R607), the steps that take a cluster off (R608), the offlining of
cores and clusters (R364, R662), the hardware errors that strike, RESTART (R292), and TENANT_KILL.
-/

namespace Sys2Proof.Machine

open Sys2Proof

/-- The contexts of cluster `k` (R188). -/
def ctxsOf (k : Nat) : List Nat := (List.range 32).map (fun i => 32 * k + i)

/-- Reference cycles pass: the residency counters of the present states advance by one free amount (R619, log entry 5). -/
def State.elapse (s : State) : State :=
  let d := s.draw (2 ^ 72)
  let p := d.2.pmu
  let up := fun (n : Nat) => (n + d.1) % 2 ^ 72
  let dev := match p.dev with | .run => some 0 | .peat => some 1 | .ash => some 2 | _ => none
  let cl := if p.dev = .run then p.clus.foldl (fun (t : Tbl Nat) e => match e.2 with
    | some st => let j := 3 * e.1 + (match st with | .run => 0 | .ember => 1 | .off => 2)
                 tset 0 t j (up (tget 0 t j))
    | none => t) p.resCl else p.resCl
  match dev with
  | some i => { d.2 with pmu := { p with resDev := p.resDev.set i (up (p.resDev.getD i 0)), resCl := cl } }
  | none => s

/-- A cluster changes state; PMU raises source 401 (R624). When its clocks run again its crossing is no longer wedged (R622). -/
def State.setClu (s : State) (k : Nat) (p : CluPower) : State :=
  if s.cluPower k = some p then s
  else
    let s1 := s.elapse
    let s2 := { s1 with pmu := { s1.pmu with clus := tset none s1.pmu.clus k (some p) } }
    let s3 := if p = .run then { s2 with glb := { s2.glb with cdcWedged := tset false s2.glb.cdcWedged k false } } else s2
    s3.raise 401

/-! ### RESTART (R292) -/

/-- The restart itself. -/
def State.restartNow (s : State) (n : Nat) : State :=
  let s1 := ((s.returnHeld n).clearStack n).freeCoaches n
  let v := (s1.rel (coreOf n)).vec
  s1.modCtx n (fun c => { c with pcc := rootCap v, k := [(0, rootCap 0)], esc := {}, evc := {}, alarm := none, alarmPending := false, deadline := none, dl := false, run := .run, restartPend := false, pendRet := none, routine := none, bkskip := false, early := none })

/-! ### Wake (R607) -/

/-- A blocked TAKE or WAIT of context `n` ends on a pending alarm (R181, R185), unless an exception at the boundary comes first. -/
def State.alarmEnds (s : State) (n : Nat) : State :=
  let c := s.ctx n
  if !c.alarmPending || s.boundaryDue n then s
  else match c.run with
    | .take a _ len => s.takeAlarm n a len
    | .wait len => (s.modCtx n (fun c => { c with alarmPending := false, run := .run })).retireTo n (c.pcc.cursor + word len)
    | _ => s

/-- A cluster of power state EMBER wakes: its waiting TAKEs join the waiting order at the back, and the RESTARTs that a thermal
hold kept take effect, and pending alarms end their waits (R607, R665). -/
def State.cluRun (s : State) (k : Nat) : State :=
  let s1 := s.setClu k .run
  let takes := (ctxsOf k).filter (fun n => match (s1.ctx n).run with | .take _ _ _ => !(s1.ddu.waiting.contains n) | _ => false)
  let s2 := { s1 with ddu := { s1.ddu with waiting := s1.ddu.waiting ++ takes } }
  let s3 := s2.each ((ctxsOf k).filter (fun n => (s2.ctx n).restartPend)) State.restartNow
  s3.each (ctxsOf k) State.alarmEnds

/-- A wake event for cluster `k`: it wakes from EMBER, unless a thermal trip holds it. -/
def State.cluWake (s : State) (k : Nat) : State :=
  if s.cluPower k = some .ember ∧ (tget none s.pmu.hold k).isNone then s.cluRun k else s

/-- A write of 1 to RESTART of context `n` (R292, R607, R662, R665). -/
def State.restart (s : State) (n : Nat) : State :=
  if (s.ctx n).run ≠ .wedged ∨ tget false s.ras.coreOff (coreOf n) = true then s
  else if s.cluReady (cluOf n) = false ∨ (tget none s.pmu.hold (cluOf n)).isSome = true then s.modCtx n (fun c => { c with restartPend := true })
  else (s.cluWake (cluOf n)).restartNow n

/-! ### OFF (R608) -/

/-- The lines that the L2 of cluster `k` holds. -/
def Mem.l2Lines (m : Mem) (k : Nat) : List Nat :=
  (m.l2.filter (fun e => decide (e.1 / 4096 = k))).flatMap (fun e => e.2.filterMap (fun w => w.2.map (·.line)))

/-- Step 1: the L2 is written to the system cache and invalidated, with its snoop-filter entries. -/
def State.cluFlush (s : State) (k : Nat) : State :=
  s.onMem (fun m => (m.l2Lines k).foldl (fun (m : Mem) l => m.l2Lose ⟨m.scAgentService, k⟩ k l) m)

/-- What a core that has lost its power keeps: the load generations of its halves (R394). -/
def Core.cold (c : Core) : Core := { p0 := { st := .active, gen := c.p0.gen }, p1 := { gen := c.p1.gen }, h0 := { st := .active, gen := c.h0.gen }, h1 := { gen := c.h1.gen } }

/-- Steps 1 to 5 of R608. -/
def State.cluOff (s : State) (k : Nat) : State :=
  let s1 := s.cluFlush k
  let s2 := s1.each (ctxsOf k) (fun s n => ((s.leaveWaiting n).freeCoaches n).returnHeld n)
  let s3 := s2.breakOwned (fun o => decide (o < 512) && decide (o / 32 = k))
  let s4 := { s3 with
    glb := { s3.glb with rClu := putBit s3.glb.rClu k false }
    ctxs := tkeep (fun n => decide (n / 32 ≠ k)) s3.ctxs
    cores := tmap {} (fun i c => if i / 8 = k then c.cold else c) s3.cores
    preds := tkeep (fun j => decide (j / 8 ≠ k)) s3.preds }
  (s4.each (coresOf k) State.loadLeave).setClu k .off

/-! ### Offlining (R364, R662) -/

/-- Cluster `k` is offlined (R662): its stacks leave service (R309), then the steps of R608; a record of class 8. -/
def State.cluOffline (s : State) (k : Nat) : State :=
  let s1 := s.each (ctxsOf k) (fun s n => (s.returnHeld n).clearStack n)
  let s2 := s1.cluOff k
  let s3 := { s2 with ras := { s2.ras with cluOff := tset false s2.ras.cluOff k true }, pmu := { s2.pmu with hold := tset none s2.pmu.hold k none } }
  s3.record 8 2 k none none none k

/-- Core `k` is offlined (R364, R388, R662): the entries of its merging buffer drain, their parity checked, and a record of class 4 is
written for each error that stops it. -/
def State.coreDown (s : State) (k : Nat) : State :=
  let s1 := s.drainCore k
  let why := (s1.core k).stop
  let s2 := { s1.modCore k (fun c => { c with stop := [] }) with ras := { s1.ras with coreOff := tset false s1.ras.coreOff k true } }
  let s3 := s2.each [0, 1, 2, 3] (fun s i => ((s.leaveWaiting (4 * k + i)).freeCoaches (4 * k + i)).returnHeld (4 * k + i))
  let s4 := s3.breakOwned (fun o => decide (o < 512) && decide (coreOf o = k))
  let s5 := (why.foldl (fun (s : State) ctx => s.record 4 2 (k / 8) ctx none none k) s4)
  if (coresOf (k / 8)).all (fun j => tget false s5.ras.coreOff j) then s5.cluOffline (k / 8) else s5

/-- Every core that is still to be offlined is. -/
def State.stopCores (s : State) : State :=
  if s.cores.all (fun e => e.2.stop.isEmpty) then s else s.each ((s.cores.filter (fun e => !e.2.stop.isEmpty)).map (·.1)) State.coreDown

/-! ### Hardware errors as they strike -/

/-- The copy that an upset strikes exists: a line in a cache, a slot of a channel that no queued write is about to replace, or a link with
link ECC. -/
def State.struck (s : State) (l : Nat) (u : Upset) : Bool :=
  let m := s.mem
  match u with
  | .l1 k i => holds (m.getL1 k l i) l
  | .l2 cl _ => (m.l2State cl l).isSome
  | .sys _ _ => m.inScratch l || holds (tget [] m.sys (sysKey l)) l
  | .dram _ _ => decide (l < m.pop) && !(m.isGone l) && !((s.chan (s.chanOf l)).wq.contains l)
  | .link => decide (l < m.pop) && !(m.isGone l) && (s.chan (s.chanOf l)).lecc

/-- An uncorrectable error in the state or tag store of set `set` of the L2 of cluster `k` (R662): the lines of the set whose dirty state was
lost are written poisoned, and the cluster is offlined. -/
def State.tagsLost (s : State) (k set : Nat) : State :=
  let dirty := (tget [] s.mem.l2 (k * 4096 + set)).filterMap (fun e => e.2.bind (fun w => if w.st = Mesi.m then some w.line else none))
  ({ s with mem := dirty.foldl (fun (m : Mem) l => m.poisonLine l) s.mem }).cluOffline k

/-- A hardware error strikes. -/
def State.strikeOne (s : State) (x : Strike) : State :=
  match x with
  | .line l u => if s.struck l u && !(s.mem.hasUp l u) then { s with mem := { s.mem with upsets := s.mem.upsets ++ [(l, u)] } } else s
  | .entry core idx => s.modCore core (fun c => { c with merge := c.merge.modify idx (fun e => { e with bad := true }) })
  | .micro core a d =>
    if a < 18432 ∨ (a < 19456 ∧ Config.decode s.hw.variant = true) then s.modCore core (fun c => { c with badMicro := c.badMicro ++ [(a, d)] }) else s
  | .tags k set => if s.cluPower k = some .run ∨ s.cluPower k = some .ember then s.tagsLost k set else s
  | .table t e => { s with ras := { s.ras with tbl := tset .none s.ras.tbl t e } }

/-- The hardware errors that an instruction meets as it runs strike (log entry 29). -/
def State.strike (s : State) (xs : List Strike) : State := xs.foldl State.strikeOne s

/-- The microword at micro-address `a` is read by core `k` (R388): a single-bit error is corrected, counted and recorded, and written back
but in the ROM; after a double-bit error the core is still to be offlined. -/
def State.readMicro (s : State) (k a : Nat) : State :=
  let c := s.core k
  if c.badMicro.contains (a, true) then s.modCore k (fun c => { c with stop := c.stop ++ [none] })
  else if c.badMicro.contains (a, false) then
    (s.modCore k (fun c => { c with
      corr := satInc 131071 c.corr
      badMicro := if a < 16384 then c.badMicro else c.badMicro.filter (fun e => decide (e.1 ≠ a)) })).record 2 0 (k / 8) none none none 3
  else s

/-! ### TENANT_KILL (R259 to R264, R415, R477, R593) -/

/-- Every store of a running cluster's cores becomes visible (R262 step 4). -/
def State.drainRunning (s : State) : State :=
  (s.each ((tkeys s.cores).filter (fun k => decide (s.cluPower (k / 8) = some .run))) State.drainCore).stopCores

/-- Carry out TENANT_KILL without REVIVE. -/
def State.killCarriage (s : State) (c : Carriage) : State :=
  let t := c.body 16 2
  if s.dead t then s.complete c 0 []
  else (((((s.setDead t true).drainRunning).eauKill t).killLeases t).killFetches t).complete c 0 []

/-- Carry out TENANT_KILL with REVIVE. -/
def State.reviveCarriage (s : State) (c : Carriage) : State :=
  let t := c.body 16 2
  if !(s.dead t) then s.complete c 0 [] else ((s.setDead t false).eauRevive t).complete c 0 []

def execTenantKill (s : State) : Res :=
  .next (s.svcRow (fun c => decide (c.op = 0x24) && decide (c.body 18 1 = 0)) State.killCarriage)

def execTenantRevive (s : State) : Res :=
  .next (s.svcRow (fun c => decide (c.op = 0x24) && decide (c.body 18 1 = 1)) State.reviveCarriage)

end Sys2Proof.Machine
end

