-- ==== Sys2Proof/Machine/RegRead.lean ====
section
/-!
DEFINITION. Reading the register space (R32 to R38): the current value of every register word, and what a read itself changes
(R25, R110, R320, R619).
-/

namespace Sys2Proof.Machine

open Sys2Proof

/-- The unit that holds a register word, with its instance and the word's number within it (R32). -/
inductive RegUnit where
  | glb (i : Nat)
  | tbu (i : Nat)
  | eau (i : Nat)
  | ddu (i : Nat)
  | dol (i : Nat)
  | rng (i : Nat)
  | hpc (p i : Nat)
  | icu (i : Nat)
  | dmc (c i : Nat)
  | pmu (i : Nat)
  | bsu (i : Nat)
  | ras (i : Nat)
  | clu (k i : Nat)
  | none
deriving DecidableEq, Repr

/-- The place of register word `n`: BAR0 octet offset 8n (R32). -/
def regUnit (n : Nat) : RegUnit :=
  if n < 0x2000 then .glb n
  else if n < 0x4000 then .tbu (n - 0x2000)
  else if n < 0x6000 then .eau (n - 0x4000)
  else if n < 0x8000 then .ddu (n - 0x6000)
  else if n < 0xA000 then .dol (n - 0x8000)
  else if n < 0xC000 then .rng (n - 0xA000)
  else if n < 0xE000 then .hpc ((n - 0xC000) / 0x800) (n % 0x800)
  else if n < 0x10000 then .icu (n - 0xE000)
  else if n < 0x12000 then .dmc ((n - 0x10000) / 0x200) (n % 0x200)
  else if n < 0x14000 then .pmu (n - 0x12000)
  else if n < 0x16000 then .bsu (n - 0x14000)
  else if n < 0x18000 then .ras (n - 0x16000)
  else if n < 0x20000 then .none
  else if n < 0x40000 then .clu ((n - 0x20000) / 0x2000) (n % 0x2000)
  else .none

/-- The crossing group of a unit (R623). -/
def RegUnit.group : RegUnit → Option Nat
  | .tbu _ => some 36
  | .eau _ => some 37
  | .ddu _ => some 38
  | .dol _ => some 39
  | .rng _ => some 40
  | .hpc p _ => some (16 + p)
  | .icu _ => some 41
  | .dmc c _ => some (20 + c)
  | .pmu _ => some 42
  | .bsu _ => some 43
  | .ras _ => some 44
  | .clu k _ => some k
  | _ => Option.none

/-- Whether an access to register word `n` gets the error response: its crossing group is wedged (R622), or its cluster is in OFF
(R608). -/
def State.regDenied (s : State) (n : Nat) : Bool :=
  let u := regUnit n
  (match u.group with
    | some g => tget false s.glb.cdcWedged g
    | Option.none => false)
  || (match u with
    | .clu k _ => decide (s.cluPower k = some .off)
    | _ => false)

/-- `n` bits set. -/
def ones (n : Nat) : Nat := 2 ^ n - 1

/-- A word from fields: value and lowest bit. -/
def pack (l : List (Nat × Nat)) : Nat := l.foldl (fun (a : Nat) e => a + e.1 * 2 ^ e.2) 0

/-- A word of Boolean bits. -/
def packBits (n : Nat) (f : Nat → Bool) : Nat := (List.range n).foldl (fun (a : Nat) i => a + b2n (f i) * 2 ^ i) 0

/-- OWNER of a lease: 1,023 when none is held (R323). -/
def ownerCode (o : Option Nat) : Nat := o.getD 1023

/-! ### Units -/

/-- GLB (R38 to R48, R623, R653). -/
def State.glbPeek (s : State) (i : Nat) : Nat :=
  let v := s.hw.variant
  let g := s.glb
  let b := s.bsu
  if i = 0 then pack [(0o2641, 24), (Config.part v, 12), (1, 4), (s.hw.grade, 0)]
  else if i = 1 then pack [(ones (Config.ports v), 32), (ones (Config.channels v), 16), (ones (Config.clusters v), 0)]
  else if i = 2 then pack [(if Config.tenants v = 4096 then 12 else 11, 10), (b2n (Config.decode v), 9), (Config.atab v, 4), (ones (Config.lanes v), 0)]
  else if i = 3 then pack [(g.rHost, 32), (g.rDram, 16), (g.rClu, 0)]
  else if i = 4 then pack [(g.rLanes, 5), (b2n g.rDdu, 4), (b2n g.rIcu, 3), (b2n g.rTbu, 2), (b2n g.rEau, 1)]
  else if i = 5 then b2n g.locked
  else if i = 6 then b.devid
  else if i = 7 then pack [(b2n b.recovery, 32), (b.bootMode, 30), (b2n b.slot, 29), (b2n b.tie, 28), (b.verda, 25), (b.verdb, 22), (b.vkey, 20), (b.okey, 18), (b2n b.ownerSig, 17), (b2n b.warm, 16), (b.bootCode, 0)]
  else if i = 8 then s.lk.fabLimit
  else if 64 ≤ i ∧ i < 109 then
    let k := i - 64
    pack [(b2n (tget false g.cdcWedged k), 35), (b2n (tget false g.cdcOverrun k), 34), (b2n (tget true g.cdcMode k), 33), (tget 0 g.cdcResets k, 9), (tget 0 g.cdcTimeouts k, 0)]
  else 0

/-- TBU_STATUS.STATE (R109). -/
def TbuMode.code : TbuMode → Nat
  | .none => 0 | .acquiring => 1 | .locked => 2 | .holdover => 3

/-- TBU (R107 to R114). TBU_NOW_HI is the current value; the latch is the reader's. -/
def State.tbuPeek (s : State) (i : Nat) : Nat :=
  let t := s.tbu
  let now := if s.glb.rTbu then s.nowFull.toNat else 0
  match i with
  | 0 => pack [(b2n s.lk.acceptReset, 4), (b2n s.lk.revert, 3), (s.lk.primary, 2), (b2n s.lk.enLink1, 1), (b2n s.lk.enLink0, 0)]
  | 1 => pack [(b2n (decide (t.slew ≠ 0)), 8), (b2n t.mismatch, 7), (b2n t.throttle, 6), (b2n t.quiet.isSome, 5), (b2n (t.link1.good && s.lk.enLink1), 4), (b2n (t.link0.good && s.lk.enLink0), 3), (t.active, 2), (t.mode.code, 0)]
  | 2 => now % 2 ^ 36
  | 3 => now / 2 ^ 36
  | 4 => t.period
  | 5 => t.bptM1
  | 6 => s.lk.delay
  | 7 => match t.quiet with
    | none => 0
    | some q => pack [(1, 35), (b2n q.until_.isSome, 34), (min s.quietRemain (2 ^ 24 - 1), 0)]
  | 8 => t.event
  | 9 => t.irqen
  | 10 => pack [(t.lateCmd, 27), (t.cmdDrop, 18), (t.badFrame, 9), (t.crc, 0)]
  | 11 => pack [(t.calId, 24), (t.calOff, 0)]
  | _ => 0

/-- EAU (R482 to R487), as requester `code` reads it. -/
def State.eauPeek (s : State) (code i : Nat) : Nat :=
  let e := s.eau
  if i = 0 then s.lk.eauLease
  else if i = 1 then pack [(b2n (decide (4096 ≤ e.closeQ.length)), 13), (e.closeQ.length, 0)]
  else if i = 2 then pack [(b2n s.lk.saveEn, 35), (s.lk.saveLine, 0)]
  else if i = 3 then e.event
  else if i = 4 then e.irqen
  else if i = 5 then tget 0 e.usesel code
  else if i = 6 then (s.charged (tget 0 e.usesel code)).1
  else if i = 7 then (s.charged (tget 0 e.usesel code)).2
  else if 16 ≤ i ∧ i ≤ 26 then tget 0 e.cnt (i - 16)
  else if 1024 ≤ i ∧ i < 2048 then
    let p := s.prof (i - 1024)
    pack [(b2n p.rec_.en, 35), (b2n p.release.isSome, 34), (b2n (p.susp || p.bad), 33), (b2n p.owned, 24), (p.owner, 12), (p.rec_.pool, 0)]
  else if 4096 ≤ i ∧ i < 8192 then
    let q := s.pool (i - 4096)
    pack [(b2n q.rec_.en, 35), (b2n q.drain.isSome, 34), (q.owner, 18), (q.free, 0)]
  else 0

/-- The serve set of class `n` as a 64-bit number (R493, R516). -/
def State.serveMask (s : State) (n : Nat) : Nat := (s.dduCtl n).serve.getD (2 ^ n)

/-- DDU (R515 to R517). -/
def State.dduPeek (s : State) (i : Nat) : Nat :=
  let d := s.ddu
  if i = 0 then pack [(d.waiting.length, 17), (d.descs.length, 0)]
  else if 1 ≤ i ∧ i ≤ 3 then tget 0 d.cnt (i - 1)
  else if 64 ≤ i ∧ i < 320 then
    let n := (i - 64) / 4
    match i % 4 with
    | 0 => pack [((s.dduCtl n).grace, 12), ((s.dduCtl n).lane, 9), ((s.dduCtl n).share, 0)]
    | 1 => s.serveMask n % 2 ^ 32
    | 2 => s.serveMask n / 2 ^ 32
    | _ => pack [(tget 0 d.credit n, 17), ((d.descs.filter (fun x => decide (x.ev.cls = n))).length, 0)]
  else 0

/-- DOL (R518 to R520); absent on a part without lanes (R5, R514). -/
def State.dolPeek (s : State) (i : Nat) : Nat :=
  if Config.lanes s.hw.variant = 0 then 0
  else if i = 0 then pack [(s.lk.laneEn, 21), (s.lk.lat, 0)]
  else if i = 1 then s.dol.recs.length
  else if 4 ≤ i ∧ i < 8 then (tget 0 s.lk.dflt (i - 4)).toNat
  else if 8 ≤ i ∧ i < 14 then tget 0 s.dol.cnt (i - 8)
  else 0

/-- RNG (R431, R441). -/
def State.rngPeek (s : State) (i : Nat) : Nat :=
  let r := s.rng
  if i = 0 then s.lk.rngLease
  else if i = 1 then pack [(b2n s.lk.mbEn, 35), (s.lk.mbLine, 0)]
  else if i = 2 then pack [(r.badidx, 27), (r.stop, 18), (r.auth, 9), (r.replay, 0)]
  else if i = 3 then pack [(r.drop, 27), (r.crit, 18), (r.split, 9), (r.cdrop, 0)]
  else if 4096 ≤ i ∧ i < 6144 ∧ s.portPresent ((i - 4096) / 512) = true then s.pageRead (1024 * ((i - 4096) / 512)) (i % 512)
  else 0

/-- HPC of port `p` (R548, R549). -/
def State.hpcPeek (s : State) (p i : Nat) : Nat :=
  let x := s.port p
  if !(s.portPresent p) then 0
  else match i with
    | 0 => s.frzLen p
    | 1 => pack [(b2n x.frozen, 35), (b2n x.merged, 34), (b2n x.linkUp, 33), (b2n x.recovery, 32), (x.speed, 29), (x.width, 24), (x.hold.length, 0)]
    | 3 => pack [(b2n x.lapsed, 35), (x.cause, 0)]
    | 4 => pack [(x.recdrop, 27), (x.latecpl, 18), (x.ur, 9), (x.freezes, 0)]
    | 5 => pack [(x.ptmPeriod, 4), (b2n x.ptmErr, 2), (b2n x.ptmValid, 1)]
    | 6 => x.ptmTime % 2 ^ 36
    | 7 => x.ptmTime / 2 ^ 36
    | 8 => x.ptmStamp.toNat % 2 ^ 36
    | 9 => x.ptmStamp.toNat / 2 ^ 36
    | _ => 0

/-- ICU (R318 to R326). GATED reads 0, because a read restarts the clock. -/
def State.icuPeek (s : State) (i : Nat) : Nat :=
  let c := s.icu
  let e := s.icuShown
  let live := s.src (match c.lease with | some l => l.src | none => c.source)
  if i = 0 then b2n s.lk.gateEn
  else if i = 1 then pack [(c.ctxTok, 14), (c.srcTok, 1)]
  else if i = 2 then pack [(b2n c.lease.isSome, 35), (c.source, 0)]
  else if i = 3 then e.vec.toNat
  else if i = 4 then
    pack [(e.pri, 28), (e.tset, 20), (b2n e.level, 19), (b2n e.wake, 18), (b2n e.ovf, 16), (e.count, 12), (b2n e.inserv, 11), (b2n (if c.lease.isSome then e.line else live.line), 10), (e.inctx, 0)]
  else if i = 5 then pack [(ownerCode (c.lease.map (·.owner)), 26), (c.broken, 16), (s.lk.icuLease, 0)]
  else if i = 6 then pack [(c.lost, 18), (c.returned, 0)]
  else if 256 ≤ i ∧ i < 512 then packBits 32 (fun j => (s.src (32 * (i - 256) + j)).pending)
  else if 1024 ≤ i ∧ i < 5120 then tget 0 c.tset (i - 1024)
  else 0

/-- DMC_STATUS.STATE (R576). -/
def ChanState.code : ChanState → Nat
  | .off => 0 | .training => 1 | .running => 2 | .paused => 3 | .selfref => 4 | .offline => 5

/-- DMC of channel `c` (R575 to R577). -/
def State.dmcPeek (s : State) (c i : Nat) : Nat :=
  let x := s.chan c
  let k := s.dmcLk c
  let d := s.dmc
  if Config.channels s.hw.variant ≤ c then 0
  else if i = 0 then pack [(x.nch, 5), (b2n x.active, 4), (b2n x.lecc, 3), (x.ranks - 1, 2), (x.density, 0)]
  else if i = 1 then pack [(x.st.code, 33), (b2n x.tset, 32), (x.rate, 29), (b2n x.drain, 28), (x.wq.length, 7)]
  else if i = 2 then pack [(k.wmax, 20), (k.wmHi, 7), (k.wmLo, 0)]
  else if i = 3 then pack [(b2n k.rhEn, 35), (k.rhK, 0)]
  else if i = 4 then pack [(k.period, 24), (k.slack, 12), (b2n k.quiet, 11), (b2n x.lastTimer, 1), (b2n x.lastFail, 0)]
  else if i = 5 then pack [(b2n k.scrubEn, 35), (k.scrubPeriod, 0)]
  else if i = 6 then pack [(x.uncorr, 27), (x.poisonrd, 18), (x.link, 9), (x.corr, 0)]
  else if i = 7 then pack [(x.rhref, 18), (x.rhdrop, 9), (x.forced, 0)]
  else if i = 8 ∧ c = 0 then pack [(b2n d.lease.isSome, 35), (b2n d.broken, 31), (ownerCode (d.lease.map (·.owner)), 21), (s.lk.maintLen, 0)]
  else if i = 9 ∧ c = 0 then pack [(b2n d.busy, 35), (b2n d.fail, 34), (b2n d.quiet, 33), (d.target, 0)]
  else if 16 ≤ i ∧ i < 21 then (x.tsa.getD (i - 16) 0).toNat
  else if 24 ≤ i ∧ i < 29 then (x.tsb.getD (i - 24) 0).toNat
  else 0

/-- PWR_STATE (R617). -/
def State.pwrState (s : State) : Nat :=
  match s.pmu.dev with
  | .peat => 2
  | .ash => 3
  | .run =>
    let ks := (List.range (Config.clusters s.hw.variant)).filter (fun k => s.cluPresent k)
    if ks.all (fun k => decide (s.cluPower k = some .ember) || decide (s.cluPower k = some .off)) then 1 else 0
  | _ => 0

/-- PMU_CLSTATE of cluster `k` (R624). -/
def State.cluCode (s : State) (k : Nat) : Nat :=
  match s.cluPower k with
  | some .ember => 1
  | some .off => 2
  | _ => 0

/-- The residency counter that PMU words `i` and `i + 1` hold, when `i` is a low word (R619, R624). -/
def State.resCounter (s : State) (i : Nat) : Nat :=
  if i < 22 then s.pmu.resDev.getD ((i - 16) / 2) 0 else tget 0 s.pmu.resCl (3 * ((i - 32) / 6) + (i - 32) % 6 / 2)

/-- Whether PMU word `i` belongs to a residency counter of a present domain. -/
def State.isRes (s : State) (i : Nat) : Bool :=
  decide (16 ≤ i ∧ i < 22) || (decide (32 ≤ i) && decide (i < 32 + 6 * Config.clusters s.hw.variant))

/-- PMU (R624), with the current value of the residency counters. -/
def State.pmuPeek (s : State) (i : Nat) : Nat :=
  let p := s.pmu
  match i with
  | 0 => s.lk.qwait
  | 1 => pack [(b2n p.job.isSome, 3), (b2n p.regLp, 2), (s.pwrState, 0)]
  | 2 => p.retainA
  | 3 => p.retainS
  | 4 => pack [(b2n p.wakeStampEn, 17), (b2n p.wakePerst, 16), (p.wakeGpio, 0)]
  | 5 => pack [(p.wakePol, 16), (p.wakeLevel, 0)]
  | 6 => p.wakeStamp.toNat
  | 7 => pack [(p.causeFrom, 34), (p.causeGpio, 4), (b2n p.causeBrown, 3), (b2n p.causeStamp, 2), (b2n p.causePerst, 0)]
  | 8 => p.cloff
  | 9 => (List.range (Config.clusters s.hw.variant)).foldl (fun (a : Nat) k => a + s.cluCode k * 4 ^ k) 0
  | _ => if s.isRes i then (if i % 2 = 0 then s.resCounter i % 2 ^ 36 else s.resCounter (i - 1) / 2 ^ 36) else 0

/-- BSU (R252, R265, R594, R654). -/
def State.bsuPeek (s : State) (i : Nat) : Nat :=
  let b := s.bsu
  if i = 1 then b.imgver
  else if i = 2 then b.minverReg
  else if i = 3 then b.fuseReg
  else if i = 32 then b.roottab
  else if i = 40 then pack [(b2n b.brk.isSome, 35), (b.brkKind, 13), (b.brkIndex, 0)]
  else if 128 ≤ i ∧ i < 256 then packBits 32 (fun j => s.dead (32 * (i - 128) + j))
  else 0

/-- RAS (chapter 21). -/
def State.rasPeek (s : State) (i : Nat) : Nat :=
  let r := s.ras
  if i = 0 then pack [(b2n r.en, 35), (s.lk.rasSize, 16), (s.lk.talert, 0)]
  else if i = 1 then s.lk.rasLine
  else if i = 2 then r.prod
  else if i = 3 then r.cons
  else if i = 4 then r.lost
  else if i = 5 then r.next
  else if i = 6 then r.fatalSeq
  else if i = 7 then r.fatals
  else if 8 ≤ i ∧ i < 15 then (r.last.getD (i - 8) 0).toNat
  else if 32 ≤ i ∧ i < 36 then packBits 32 (fun j => tget false r.coreOff (32 * (i - 32) + j))
  else if i = 36 then packBits 16 (fun k => tget false r.cluOff k)
  else 0

/-- CLU of cluster `k` (R211, R290, R408, R647). -/
def State.cluPeek (s : State) (k i : Nat) : Nat :=
  let c := s.core (8 * k + i % 8)
  let r := s.rel (8 * k + i % 8)
  if Config.clusters s.hw.variant ≤ k then 0
  else if 32 ≤ i ∧ i < 40 then pack [(b2n c.predBusy, 2), (b2n c.predOff, 0)]
  else if 48 ≤ i ∧ i < 56 then
    let ph := if c.p1.st = .active then 1 else 0
    let dh := if c.h1.st = .active then 1 else 0
    pack [(dh, 33), (ph, 32), ((if ph = 1 then c.p1 else c.p0).ver, 16), ((if dh = 1 then c.h1 else c.h0).ver, 4), (romRev, 0)]
  else if 56 ≤ i ∧ i < 64 then pack [(b2n c.loadPend, 17), (c.corr, 0)]
  else if 64 ≤ i ∧ i < 72 then r.vec.toNat
  else if 72 ≤ i ∧ i < 80 then pack [(b2n c.released, 35), (r.cond, 0)]
  else if 80 ≤ i ∧ i < 88 then r.arg.toNat
  else if 128 ≤ i ∧ i < 192 then
    let x := s.ctx (32 * k + (i - 128) / 2)
    if i % 2 = 0 then pack [(b2n (decide (x.run = .wedged)), 35), (b2n x.wEret, 33), (x.wCause, 24), (x.wReason, 20), (x.wCount, 0)]
    else x.wAddr.toNat
  else 0

/-- The current value of register word `n` as requester `code` reads it. -/
def State.regPeek (s : State) (code n : Nat) : Nat :=
  match regUnit n with
  | .glb i => s.glbPeek i
  | .tbu i => s.tbuPeek i
  | .eau i => s.eauPeek code i
  | .ddu i => s.dduPeek i
  | .dol i => s.dolPeek i
  | .rng i => s.rngPeek i
  | .hpc p i => s.hpcPeek p i
  | .icu i => s.icuPeek i
  | .dmc c i => s.dmcPeek c i
  | .pmu i => s.pmuPeek i
  | .bsu i => s.bsuPeek i
  | .ras i => s.rasPeek i
  | .clu k i => s.cluPeek k i
  | .none => 0

/-! ### What a read changes -/

/-- The RC fields of a register word are cleared (R21, R25). -/
def State.rcClear (s : State) (n : Nat) : State :=
  match regUnit n with
  | .glb i => if 64 ≤ i ∧ i < 109 then { s with glb := { s.glb with cdcResets := tset 0 s.glb.cdcResets (i - 64) 0, cdcTimeouts := tset 0 s.glb.cdcTimeouts (i - 64) 0 } } else s
  | .tbu i => if i = 10 then s.modTbu (fun t => { t with lateCmd := 0, cmdDrop := 0, badFrame := 0, crc := 0 }) else s
  | .eau i => if 16 ≤ i ∧ i ≤ 26 then { s with eau := { s.eau with cnt := tset 0 s.eau.cnt (i - 16) 0 } } else s
  | .ddu i => if 1 ≤ i ∧ i ≤ 3 then { s with ddu := { s.ddu with cnt := tset 0 s.ddu.cnt (i - 1) 0 } } else s
  | .dol i => if 8 ≤ i ∧ i < 14 then { s with dol := { s.dol with cnt := tset 0 s.dol.cnt (i - 8) 0 } } else s
  | .rng i =>
    if i = 2 then { s with rng := { s.rng with badidx := 0, stop := 0, auth := 0, replay := 0 } }
    else if i = 3 then { s with rng := { s.rng with drop := 0, crit := 0, split := 0, cdrop := 0 } }
    else s
  | .hpc p i =>
    if !(s.portPresent p) then s
    else if i = 4 then s.modPort p (fun x => { x with recdrop := 0, latecpl := 0, ur := 0, freezes := 0 })
    else if i = 5 then s.modPort p (fun x => { x with ptmValid := false })
    else s
  | .icu i =>
    if i = 5 then { s with icu := { s.icu with broken := 0 } }
    else if i = 6 then { s with icu := { s.icu with lost := 0, returned := 0 } }
    else s
  | .dmc c i =>
    if Config.channels s.hw.variant ≤ c then s
    else if i = 6 then s.modChan c (fun x => { x with uncorr := 0, poisonrd := 0, link := 0, corr := 0 })
    else if i = 7 then s.modChan c (fun x => { x with rhref := 0, rhdrop := 0, forced := 0 })
    else s
  | .ras i => if i = 4 then { s with ras := { s.ras with lost := 0 } } else s
  | .clu k i => if 56 ≤ i ∧ i < 64 then s.modCore (8 * k + i % 8) (fun c => { c with corr := 0 }) else s
  | _ => s

/-- The value of a word with its latch: TBU_NOW_HI and the high words of the residency counters return what the requester's read
of the low word latched (R110, R619). -/
def State.latched (s : State) (code n : Nat) : Nat × State :=
  match regUnit n with
  | .tbu 2 =>
    let s1 := s.elapsePhase
    let full := if s1.glb.rTbu then s1.nowFull.toNat else 0
    (full % 2 ^ 36, s1.modTbu (fun t => { t with latch := tset none t.latch code (some (word (full / 2 ^ 36))) }))
  | .tbu 3 =>
    match tget none s.tbu.latch code with
    | some w => (w.toNat, s.modTbu (fun t => { t with latch := tset none t.latch code none }))
    | none => (s.elapsePhase.tbuPeek 3, s.elapsePhase)
  | .pmu i =>
    if !(s.isRes i) then (s.pmuPeek i, s)
    else if i % 2 = 0 then
      let s1 := s.elapse
      let v := s1.resCounter i
      (v % 2 ^ 36, { s1 with pmu := { s1.pmu with latch := tset none s1.pmu.latch code (some (i, word (v / 2 ^ 36))) } })
    else match tget none s.pmu.latch code with
      | some (j, w) => if j + 1 = i then (w.toNat, { s with pmu := { s.pmu with latch := tset none s.pmu.latch code none } }) else (s.elapse.pmuPeek i, s.elapse)
      | none => (s.elapse.pmuPeek i, s.elapse)
  | .icu 1 => let s1 := s.icuRestart; (s1.icuPeek 1, s1)
  | _ => (s.regPeek code n, s)

/-- The part of a word that a read returns (R35). -/
def partOf (p : Part) (v : Nat) : Word :=
  match p with
  | .full => word v
  | .low => word (v % 2 ^ 32)
  | .high => word (v / 2 ^ 32)
  | .other => 0

/-- A read of register word `n` by `r` (R21, R25, R35). -/
def State.regRead (s : State) (r : Requester) (n : Nat) (p : Part) : Word × State :=
  let d := s.latched (reqCode r) n
  (partOf p d.1, if p = .high then d.2 else d.2.rcClear n)

end Sys2Proof.Machine
end

