-- ==== Sys2Proof/Machine/RegWrite.lean ====
section
/-!
DEFINITION. Writing the register space (R21 to R23, R32 to R38): the effect of a write on every register word, by unit. A word
takes `nw`, its current value with the written part replaced, in its RW and LK fields, and `act`, the written bits alone, in its
WO, W1C and W1S fields.
-/

namespace Sys2Proof.Machine

open Sys2Proof

/-- The bits of a word that a part covers (R35). -/
def partMask : Part → Nat
  | .full => 2 ^ 36 - 1
  | .low => 2 ^ 32 - 1
  | .high => 15 * 2 ^ 32
  | .other => 0

/-- The written bits, at their places in the word (R35). -/
def partBits (p : Part) (v : Nat) : Nat :=
  match p with
  | .full => v % 2 ^ 36
  | .low => v % 2 ^ 32
  | .high => v % 16 * 2 ^ 32
  | .other => 0

/-- A write in progress: its requester, and the two values. -/
structure RegWr where
  r   : Requester
  nw  : Nat
  act : Nat
deriving DecidableEq, Repr

/-- Change the LK fields, unless GLB_LOCK holds them (R21, R45). -/
def State.modLk (s : State) (f : Lk → Lk) : State := if s.glb.locked then s else { s with lk := f s.lk }

/-! ### Units -/

/-- A write of GLB (R45, R623). -/
def State.glbPut (s : State) (i : Nat) (w : RegWr) : State :=
  if i = 5 then (if bit w.act 0 then { s with glb := { s.glb with locked := true } } else s)
  else if i = 8 then s.modLk (fun k => { k with fabLimit := max 1024 (bits w.nw 20 0) })
  else if 64 ≤ i ∧ i < 109 then
    let k := i - 64
    { s with glb := { s.glb with
      cdcMode := tset true s.glb.cdcMode k (bit w.nw 33)
      cdcOverrun := tset false s.glb.cdcOverrun k (tget false s.glb.cdcOverrun k && !(bit w.act 34)) } }
  else s

/-- A write of TBU (R108, R111, R112); a disabled link fails (R89), and a new primary link has delivered no frames yet (R92). -/
def State.tbuPut (s : State) (i : Nat) (w : RegWr) : State :=
  match i with
  | 0 =>
    let s1 := s.modLk (fun k => { k with acceptReset := bit w.nw 4, revert := bit w.nw 3, primary := bits w.nw 2 2, enLink1 := bit w.nw 1, enLink0 := bit w.nw 0 })
    let s1 := if s1.lk.primary = s.lk.primary then s1 else s1.modTbu (fun t => { t with revertRun := 0 })
    let s2 := if s.lk.enLink0 && !s1.lk.enLink0 then s1.failLink 0 else s1
    if s.lk.enLink1 && !s1.lk.enLink1 then s2.failLink 1 else s2
  | 6 => s.modLk (fun k => { k with delay := bits w.nw 23 0 })
  | 8 => (s.modTbu (fun t => { t with event := clearBits t.event w.act })).tbuLine
  | 9 => (s.modTbu (fun t => { t with irqen := bits w.nw 10 0 })).tbuLine
  | _ => s

/-- A write of EAU (R482 to R486). -/
def State.eauPut (s : State) (i : Nat) (w : RegWr) : State :=
  match i with
  | 0 => s.modLk (fun k => { k with eauLease := bits w.nw 23 0 })
  | 2 => s.modLk (fun k => { k with saveEn := bit w.nw 35, saveLine := bits w.nw 31 0 })
  | 3 => { s with eau := { s.eau with event := clearBits s.eau.event w.act } }.eauLine
  | 4 => { s with eau := { s.eau with irqen := bits w.nw 3 0 } }.eauLine
  | 5 => { s with eau := { s.eau with usesel := tset 0 s.eau.usesel (reqCode w.r) (bits w.nw 11 0) } }
  | _ => s

/-- The serve set of class `n` with one half replaced; the reset set is not listed (R516). -/
def State.servePut (s : State) (n m : Nat) : State :=
  s.modLk (fun k => { k with ddu := tmod {} k.ddu n (fun c => { c with serve := if m = 2 ^ n then none else some m }) })

/-- A write of DDU (R515, R516). A new GRACE schedules the shedding of the queued events of its class anew. -/
def State.dduPut (s : State) (i : Nat) (w : RegWr) : State :=
  if 64 ≤ i ∧ i < 320 then
    let n := (i - 64) / 4
    match i % 4 with
    | 0 =>
      let s1 := s.modLk (fun k => { k with ddu := tmod {} k.ddu n (fun c => { c with grace := bits w.nw 35 12, lane := bits w.nw 11 9, share := bits w.nw 8 0 }) })
      if (s1.dduCtl n).grace = (s.dduCtl n).grace then s1
      else { s1 with ddu := { s1.ddu with descs := s1.ddu.descs.map (fun d => if d.ev.cls = n then { d with edge := s1.tbu.edges } else d) } }
    | 1 => s.servePut n (s.serveMask n / 2 ^ 32 * 2 ^ 32 + bits w.nw 31 0)
    | 2 => s.servePut n (bits w.nw 31 0 * 2 ^ 32 + s.serveMask n % 2 ^ 32)
    | _ => s
  else s

/-- A write of DOL (R518, R519); a lane's ready bit follows its enable (R44). -/
def State.dolPut (s : State) (i : Nat) (w : RegWr) : State :=
  let v := s.hw.variant
  if Config.lanes v = 0 then s
  else if i = 0 then
    let s1 := s.modLk (fun k => { k with laneEn := bits w.nw 24 21 &&& ones (Config.lanes v), lat := max 1 (min 1048576 (bits w.nw 20 0)) })
    if s1.glb.rDdu && !s1.entering then { s1 with glb := { s1.glb with rLanes := s1.lk.laneEn } } else s1
  else if 4 ≤ i ∧ i < 4 + Config.lanes v then s.modLk (fun k => { k with dflt := tset 0 k.dflt (i - 4) (word w.nw) })
  else s

/-- A write of RNG (R431, R441); `p` is the part written, because the words of a doorbell page have 32 bits. -/
def State.rngPut (s : State) (i : Nat) (p : Part) (w : RegWr) : State :=
  if i = 0 then s.modLk (fun k => { k with rngLease := bits w.nw 15 0 })
  else if i = 1 then s.modLk (fun k => { k with mbEn := bit w.nw 35, mbLine := bits w.nw 31 0 })
  else if 4096 ≤ i ∧ i < 6144 ∧ s.portPresent ((i - 4096) / 512) = true ∧ p ≠ .high then
    s.pageWrite (1024 * ((i - 4096) / 512)) (i % 512) (w.act % 2 ^ 32)
  else s

/-- A write of HPC of port `p` (R548, R549). -/
def State.hpcPut (s : State) (p i : Nat) (w : RegWr) : State :=
  if !(s.portPresent p) then s
  else match i with
    | 0 => s.modLk (fun k => { k with frzLease := tset 65536 k.frzLease p (bits w.nw 23 0) })
    | 2 => if bit w.act 0 then s.unfreeze p (bit w.act 1) else s
    | 3 => s.modPort p (fun x => { x with cause := clearBits x.cause (bits w.act 6 0) })
    | 5 =>
      let s1 := s.modPort p (fun x => { x with ptmPeriod := bits w.nw 19 4 })
      if bit w.act 0 then s1.ptmStart p else s1
    | _ => s

/-- Exactly one of three command bits, or none, is written: its number (R321, R576). -/
def oneOf (act : Nat) : Option (Option Nat) :=
  match [34, 33, 32].filter (fun b => bit act b) with
  | [] => some none
  | [b] => some (some b)
  | _ => none

/-- A write of ICU_EDIT (R316, R321); one with more than one command is ignored. -/
def State.icuEdit (s : State) (w : RegWr) : State :=
  match oneOf w.act with
  | some (some 34) => s.icuAcquire w.r (bits w.act 28 16)
  | some (some 33) => s.icuCommit w.r
  | some (some _) => s.icuAbort w.r
  | _ => s

/-- A write of the shadow by the holder (R316 step 3, R322). -/
def State.icuShadow (s : State) (r : Requester) (f : IcuLease → IcuLease) : State :=
  match s.icu.lease with
  | some l => if l.owner = reqCode r then { s with icu := { s.icu with lease := some (f l) } } else s
  | none => s

/-- A write of ICU (R318 to R326). -/
def State.icuPut (s : State) (i : Nat) (w : RegWr) : State :=
  if i = 0 then s.modLk (fun k => { k with gateEn := bit w.nw 0 })
  else if i = 2 then s.icuEdit w
  else if i = 3 then s.icuShadow w.r (fun l => { l with shadow := { l.shadow with vec := word w.nw } })
  else if i = 4 then s.icuShadow w.r (fun l => { l with
    shadow := { l.shadow with pri := bits w.nw 35 28, tset := bits w.nw 27 20, level := bit w.nw 19, wake := bit w.nw 18 }
    clrcnt := l.clrcnt || bit w.act 17
    clrovf := l.clrovf || (bit w.act 16 && l.shadow.ovf) })
  else if i = 5 then s.modLk (fun k => { k with icuLease := bits w.nw 15 0 })
  else if 1024 ≤ i ∧ i < 5120 ∧ i % 16 < Config.clusters s.hw.variant then
    { s with icu := { s.icu with tset := tset 0 s.icu.tset (i - 1024) (bits w.nw 31 0) } }
  else s

/-- Change the LK fields of a channel. -/
def State.modDmcLk (s : State) (c : Nat) (f : DmcLk → DmcLk) : State :=
  s.modLk (fun k => { k with dmc := tmod {} k.dmc c f })

/-- A write of a timing set: by the holder of the lease, before COMMIT, while the set is inactive (R577). -/
def State.tsetPut (s : State) (c i : Nat) (w : RegWr) : State :=
  let free := s.dmcHolds w.r && !s.dmc.busy
  if i < 24 then
    if free && (s.chan c).tset then s.modChan c (fun x => { x with tsa := x.tsa.set (i - 16) (word w.nw) }) else s
  else
    if free && !(s.chan c).tset then s.modChan c (fun x => { x with tsb := x.tsb.set (i - 24) (word w.nw) }) else s

/-- A write of DMC_MAINT (R567, R576). -/
def State.maintPut (s : State) (w : RegWr) : State :=
  match oneOf w.act with
  | none => s
  | some cmd =>
    let s1 := s.modLk (fun k => { k with maintLen := bits w.nw 15 0 })
    let s2 := { s1 with dmc := { s1.dmc with broken := s1.dmc.broken && !(bit w.act 31) } }
    match cmd with
    | some 34 => s2.dmcAcquire w.r
    | some 33 => s2.dmcCommit w.r
    | some _ => s2.dmcAbort w.r
    | none => s2

/-- A write of DMC of channel `c` (R575 to R577). -/
def State.dmcPut (s : State) (c i : Nat) (w : RegWr) : State :=
  if Config.channels s.hw.variant ≤ c then s
  else if i = 2 then
    let lo := bits w.nw 6 0
    let hi := bits w.nw 13 7
    if hi ≤ lo ∨ 64 < hi then s
    else
      let s1 := s.modDmcLk c (fun k => { k with wmax := bits w.nw 35 20, wmHi := hi, wmLo := lo })
      s1.modChan c (Chan.atMarks (s1.dmcLk c))
  else if i = 3 then s.modDmcLk c (fun k => { k with rhEn := bit w.nw 35, rhK := max 6 (min 16 (bits w.nw 4 0)) })
  else if i = 4 then s.modDmcLk c (fun k => { k with period := max 1 (bits w.nw 35 24), slack := bits w.nw 23 12, quiet := bit w.nw 11 })
  else if i = 5 then s.modDmcLk c (fun k => { k with scrubEn := bit w.nw 35, scrubPeriod := max 1 (bits w.nw 15 0) })
  else if i = 8 ∧ c = 0 then s.maintPut w
  else if i = 9 ∧ c = 0 then
    if s.dmcHolds w.r && !s.dmc.busy then { s with dmc := { s.dmc with quiet := bit w.nw 33, target := bits w.nw 2 0 } } else s
  else if (16 ≤ i ∧ i < 21) ∨ (24 ≤ i ∧ i < 29) then s.tsetPut c i w
  else s

/-- A write of PMU (R624). -/
def State.pmuPut (s : State) (i : Nat) (w : RegWr) : State :=
  let p := s.pmu
  match i with
  | 0 => s.modLk (fun k => { k with qwait := bits w.nw 15 0 })
  | 2 => { s with pmu := { p with retainA := bits w.nw 15 0 } }
  | 3 => { s with pmu := { p with retainS := bits w.nw 31 0 } }
  | 4 => { s with pmu := { p with wakeStampEn := bit w.nw 17, wakePerst := bit w.nw 16, wakeGpio := bits w.nw 15 0 } }
  | 5 => { s with pmu := { p with wakePol := bits w.nw 31 16, wakeLevel := bits w.nw 15 0 } }
  | 6 => { s with pmu := { p with wakeStamp := word w.nw } }
  | 8 => { s with pmu := { p with cloff := bits w.nw 15 0 &&& ones (Config.clusters s.hw.variant) } }
  | _ => s

/-- A write of BSU (R594, R664). -/
def State.bsuPut (s : State) (i : Nat) (w : RegWr) : State :=
  if i = 40 then
    let kind := bits w.nw 15 13
    let index := bits w.nw 12 0
    if bit w.act 34 then s.leaseGo kind index
    else { s with bsu := { s.bsu with brkKind := kind, brkIndex := index } }
  else s

/-- A write of RAS (R658, R665). -/
def State.rasPutReg (s : State) (i : Nat) (w : RegWr) : State :=
  match i with
  | 0 =>
    let size := bits w.nw 20 16
    let s1 := s.modLk (fun k => { k with rasSize := if 4 ≤ size ∧ size ≤ 16 then size else 4, talert := min 105 (bits w.nw 7 0) })
    { s1 with ras := { s1.ras with en := bit w.nw 35 } }
  | 1 => s.modLk (fun k => { k with rasLine := bits w.nw 31 0 })
  | 3 => { s with ras := { s.ras with cons := w.nw } }
  | _ => s

/-- A flush of the predictor of core `k` starts (R211, R212). -/
def State.predFlush (s : State) (k : Nat) : State :=
  let s1 := s.modCore k (fun c => { c with predBusy := true })
  let s2 := { s1 with preds := tset {} s1.preds k {} }
  s2.each [0, 1, 2, 3] (fun s i => s.modCtx (4 * k + i) (fun c => { c with retStack := [], retTop := 0 }))

/-- A write of CLU of cluster `k` (R211, R290, R647). -/
def State.cluPut (s : State) (k i : Nat) (w : RegWr) : State :=
  let j := 8 * k + i % 8
  if Config.clusters s.hw.variant ≤ k then s
  else if 32 ≤ i ∧ i < 40 then
    let s1 := s.modCore j (fun c => { c with predOff := bit w.nw 0 })
    if bit w.act 1 then s1.predFlush j else s1
  else if 64 ≤ i ∧ i < 72 then s.modLk (fun l => { l with release := tmod {} l.release j (fun x => { x with vec := word w.nw }) })
  else if 72 ≤ i ∧ i < 80 then s.modLk (fun l => { l with release := tmod {} l.release j (fun x => { x with cond := bits w.nw 1 0 }) })
  else if 80 ≤ i ∧ i < 88 then s.modLk (fun l => { l with release := tmod {} l.release j (fun x => { x with arg := word w.nw }) })
  else if 128 ≤ i ∧ i < 192 ∧ i % 2 = 0 ∧ bit w.act 34 = true then s.restart (32 * k + (i - 128) / 2)
  else s

/-- A write of part `p` of register word `n` by `r` (R21 to R23, R35). -/
def State.regWrite (s : State) (r : Requester) (n : Nat) (p : Part) (v : Word) : State :=
  let cur := s.regPeek (reqCode r) n
  let act := partBits p v.toNat
  let w : RegWr := { r := r, nw := clearBits cur (partMask p) ||| act, act := act }
  match regUnit n with
  | .glb i => s.glbPut i w
  | .tbu i => s.tbuPut i w
  | .eau i => s.eauPut i w
  | .ddu i => s.dduPut i w
  | .dol i => s.dolPut i w
  | .rng i => s.rngPut i p w
  | .hpc q i => s.hpcPut q i w
  | .icu i => s.icuPut i w
  | .dmc c i => s.dmcPut c i w
  | .pmu i => s.pmuPut i w
  | .bsu i => s.bsuPut i w
  | .ras i => s.rasPutReg i w
  | .clu k i => s.cluPut k i w
  | .none => s

end Sys2Proof.Machine
end

