-- ==== Sys2Proof/Machine/Access.lean ====
section
/-!
DEFINITION. Capability checks and memory accesses of a context: the order of R241, split accesses (R224, R225), poisoned
lines (R64, R660) and the hardware errors an access meets.
-/

namespace Sys2Proof.Machine

open Sys2Proof

/-- A failed access: cause, faulting address, whether the second half of a split access failed, INFO (R274, R275). -/
structure Flt where
  cause : Nat
  data  : Nat
  split : Bool := false
  info  : Nat := 0
deriving DecidableEq, Repr

/-- Permission bits of R235. -/
def permLoad : Nat := 0
def permStore : Nat := 1
def permExec : Nat := 2
def permLoadCap : Nat := 3
def permStoreCap : Nat := 4
def permSeal : Nat := 5
def permUnseal : Nat := 6
def permDevice : Nat := 7
def permTranslate : Nat := 8
def permControl : Nat := 9
def permExcept : Nat := 10
def permCross : Nat := 11

/-- Steps 1 to 6 of R241 for an access of `size` bytes at `ea` with alignment `align`. -/
def State.capSteps (s : State) (k : Cap) (perms : List Nat) (ea size align : Nat) : Option Nat :=
  if !k.tag then some 3
  else if k.otype ≠ 0 then some 5
  else if s.dead k.tenant then some 6
  else if !(perms.all (fun p => k.perm p)) then some 2
  else if !(k.covers ea size) then some 4
  else if ea % align ≠ 0 then some 7
  else none

/-- One line's part of an access: its first virtual byte, its length and the block that covers it. -/
structure Part1 where
  va    : Nat
  len   : Nat
  bn    : Nat
  block : Block
deriving DecidableEq, Repr

/-- The lines an access touches: one part, or two when it crosses a line boundary (R52). -/
def splitAt (ea size : Nat) : List (Nat × Nat) :=
  let room := 48 - ea % 48
  if size ≤ room then [(ea, size)] else [(ea, room), (ea + room, size - room)]

/-- Steps 7 and 8 of R241 for every part, in the order of R224 step 2. -/
def State.blockSteps (s : State) (n : Nat) (k : Cap) (ea size : Nat) : Except Flt (List Part1) :=
  let c := s.ctx n
  let hs := (splitAt ea size).map (fun h => (h, c.findBlock (h.1 / 48)))
  match hs.find? (fun h => h.2.isNone) with
  | some _ => .error { cause := 8, data := ea }
  | none =>
    let parts := hs.filterMap (fun h => h.2.map (fun b => (⟨h.1.1, h.1.2, b.1, b.2⟩ : Part1)))
    match parts.find? (fun p => decide (p.block.typ = 2)) with
    | some _ =>
      if parts.length ≠ 1 ∨ ea % size ≠ 0 then .error { cause := 7, data := ea }
      else if !(k.perm permDevice) then .error { cause := 2, data := ea }
      else .ok parts
    | none => .ok parts

/-- Steps 9 and 10 of R241 for one part: the physical address of its first byte. -/
def State.ownerStep (s : State) (n : Nat) (k : Cap) (p : Part1) : Except Nat Nat × State :=
  if k.tenant ≠ p.block.owner ∧ !(k.perm permCross) then (.error 2, s)
  else s.physOf n p.bn p.block p.va

/-- The error response of R30 to context `n`: an error record and cause 19. -/
def State.errorResponse (s : State) (n pa : Nat) : State := s.record 5 1 (cluOf n) (some n) none (some pa) 0

/-- Whether every byte of a load lies in entries of the context's own merging buffer (R360). -/
def State.forwarded (s : State) (n pa len : Nat) : Bool :=
  let es := (s.core (coreOf n)).merge.filter (fun e => decide (e.ctx = n) && decide (e.line = pa / 48))
  (List.range len).all (fun i => es.any (fun e => (tget none e.bytes (pa % 48 + i)).isSome))

/-- Read `len` bytes of one NORMAL or STREAM part as context `n` sees them (step 11): the line comes into the caches, and a
poisoned line gives cause 19 unless every byte comes from the context's own merging buffer (R64, R360). Cause 0 stands for a parity
error at forwarding: the core stops and nothing is delivered (R364). Before the second half of a split load, stores of other contexts to
its line may become visible (R227). -/
def State.readPart (s : State) (n : Nat) (p : Part1) (pa : Nat) (second : Bool) : Except Nat (List Byte) × State :=
  if s.paKind pa ≠ .dram then (.error 19, s.errorResponse n pa)
  else
    let l := pa / 48
    let s0 := if second then s.showLine n l else s
    match s0.badEntry n pa p.len with
    | some e => (.error 0, s0.dropBad n e.2)
    | none =>
      let f := fun (m : Mem) => m.l1Read (s0.asker n) (coreOf n) l false (decide (p.block.typ = 1))
      let r := if s0.forwarded n pa p.len then (none, s0.onMem f) else s0.access (some n) (cluOf n) l pa f
      match r.1 with
      | some _ => (.error 19, r.2)
      | none => (.ok ((List.range p.len).map (fun i => r.2.seenByte n (pa + i))), r.2)

/-- One part of an access resolved and read. -/
def State.loadPart (s : State) (n : Nat) (k : Cap) (p : Part1) (second : Bool) : Except Nat (Nat × List Byte) × State :=
  match s.ownerStep n k p with
  | (.error c, s1) => (.error c, s1)
  | (.ok pa, s1) =>
    match s1.readPart n p pa second with
    | (.error c, s2) => (.error c, s2)
    | (.ok bs, s2) => (.ok (pa, bs), s2)

/-- The failure of an access part: INFO carries the record number of a machine check (R274, R656). -/
def State.fltOf (s : State) (c data : Nat) (split : Bool) : Flt :=
  { cause := c, data := data, split := split, info := if c = 19 then s.lastSeq else 0 }

/-- What a load delivers: the bytes and the physical address of the first. -/
structure Loaded where
  pa    : Nat
  bytes : List Byte
deriving DecidableEq, Repr

/-- A DEVICE access waits until every earlier access of the context has been performed (R217, R361). -/
def State.deviceReady (s : State) (n : Nat) : State := s.drainCtx n

/-- A read of register space by context `n` (R34): an aligned word of an LDW only (`reg`), else the error response. -/
def State.deviceLoad (s : State) (n : Nat) (k : Cap) (p : Part1) (reg : Bool) : Except Flt Loaded × State :=
  match s.ownerStep n k p with
  | (.error c, s1) => (.error (s1.fltOf c p.va false), s1)
  | (.ok pa, s1) =>
    let s2 := s1.deviceReady n
    if s2.stopping n then (.error { cause := 0, data := 0 }, s2)
    else if reg ∧ s2.paKind pa = .reg ∧ p.len = 4 ∧ s2.regDenied (pa % 2 ^ 40 / 4) = false then
      let r := s2.regRead (.context n) (pa % 2 ^ 40 / 4) .full
      (.ok ⟨pa, wordBytes 4 r.1⟩, r.2)
    else
      let s3 := s2.errorResponse n pa
      (.error (s3.fltOf 19 p.va false), s3)

/-- A load of `size` bytes at `ea` (R241, R224, R225): nothing is delivered when a check of either half fails. -/
def State.load (s : State) (n : Nat) (k : Cap) (perms : List Nat) (ea size align : Nat) (reg : Bool) : Except Flt Loaded × State :=
  match s.capSteps k perms ea size align with
  | some c => (.error { cause := c, data := ea }, s)
  | none =>
    match s.blockSteps n k ea size with
    | .error f => (.error f, s)
    | .ok [p] =>
      if p.block.typ = 2 then s.deviceLoad n k p reg
      else match s.loadPart n k p false with
        | (.error c, s1) => (.error (s1.fltOf c ea false), s1)
        | (.ok r, s1) => (.ok ⟨r.1, r.2⟩, s1)
    | .ok (p :: q :: _) =>
      match s.loadPart n k p false with
      | (.error c, s1) => (.error (s1.fltOf c ea false), s1)
      | (.ok r, s1) =>
        match s1.loadPart n k q true with
        | (.error c, s2) => (.error (s2.fltOf c q.va true), s2)
        | (.ok t, s2) => (.ok ⟨r.1, r.2 ++ t.2⟩, s2)
    | .ok [] => (.error { cause := 8, data := ea }, s)

/-- One part of a store whose first byte is at `ea`: translated, and entered into the merging buffer (R214, R225). -/
def State.storePart (s : State) (n : Nat) (k : Cap) (ea : Nat) (p : Part1) (bs : List Byte) (capW : Bool) : Except Nat Unit × State :=
  match s.ownerStep n k p with
  | (.error c, s1) => (.error c, s1)
  | (.ok pa, s1) =>
    if s1.paKind pa ≠ .dram then (.error 19, s1.errorResponse n pa)
    else
      let ws := if capW then (List.range 4).map (fun i => pa % 48 / 4 + i) else []
      (.ok (), s1.bufferStore n (pa / 48) (pa % 48) bs ws (word ea) (decide (p.block.typ = 1)))

/-- A write of register space by context `n` (R34): an aligned word of an STW only. -/
def State.deviceStore (s : State) (n : Nat) (k : Cap) (p : Part1) (bs : List Byte) (reg : Bool) : Except Flt Unit × State :=
  match s.ownerStep n k p with
  | (.error c, s1) => (.error (s1.fltOf c p.va false), s1)
  | (.ok pa, s1) =>
    let s2 := s1.deviceReady n
    if s2.stopping n then (.error { cause := 0, data := 0 }, s2)
    else if reg ∧ s2.paKind pa = .reg ∧ p.len = 4 ∧ s2.regDenied (pa % 2 ^ 40 / 4) = false then
      (.ok (), s2.regWrite (.context n) (pa % 2 ^ 40 / 4) .full (bytesWord bs))
    else
      let s3 := s2.errorResponse n pa
      (.error (s3.fltOf 19 p.va false), s3)

/-- A store of bytes at `ea` (R241, R224, R225): the first half of a split store stays written when the second faults. -/
def State.store (s : State) (n : Nat) (k : Cap) (perms : List Nat) (ea align : Nat) (bs : List Byte) (capW reg : Bool) : Except Flt Unit × State :=
  match s.capSteps k perms ea bs.length align with
  | some c => (.error { cause := c, data := ea }, s)
  | none =>
    match s.blockSteps n k ea bs.length with
    | .error f => (.error f, s)
    | .ok [p] =>
      if p.block.typ = 2 then s.deviceStore n k p bs reg
      else match s.storePart n k ea p bs capW with
        | (.error c, s1) => (.error (s1.fltOf c ea false), s1)
        | (.ok _, s1) => (.ok (), s1)
    | .ok (p :: q :: _) =>
      match s.storePart n k ea p (bs.take p.len) false with
      | (.error c, s1) => (.error (s1.fltOf c ea false), s1)
      | (.ok _, s1) =>
        match s1.storePart n k ea q (bs.drop p.len) false with
        | (.error c, s2) => (.error (s2.fltOf c q.va true), s2)
        | (.ok _, s2) => (.ok (), s2)
    | .ok [] => (.error { cause := 8, data := ea }, s)

/-- The capability that four words and their tags spell (R231, R232, R61). -/
def capOf (bs : List Byte) (tag : Bool) : Cap :=
  { tag := tag, cursor := bytesWord (bs.take 4), base := bytesWord ((bs.drop 4).take 4), len := bytesWord ((bs.drop 8).take 4), attr := bytesWord ((bs.drop 12).take 4) }

/-- The sixteen bytes of a capability (R231). -/
def Cap.bytes (c : Cap) : List Byte := wordBytes 4 c.cursor ++ wordBytes 4 c.base ++ wordBytes 4 c.len ++ wordBytes 4 c.attr

/-- Whether the four words at `pa` all carry a tag as context `n` sees them (R61). -/
def State.fourTags (s : State) (n pa : Nat) : Bool := (List.range 4).all (fun i => s.seenTag n (pa / 4 + i))

/-- An atomic access of `size` bytes at `ea` (R166, R167, R218): earlier stores become visible first; the old value is
read at the L2 in ownership; `f` gives the new value, or none for a CAS that does not write. -/
def State.atomic (s : State) (n : Nat) (k : Cap) (ea size : Nat) (f : DWord → Option DWord) : Except Flt DWord × State :=
  match s.capSteps k [permLoad, permStore] ea size size with
  | some c => (.error { cause := c, data := ea }, s)
  | none =>
    match s.blockSteps n k ea size with
    | .error e => (.error e, s)
    | .ok [] => (.error { cause := 8, data := ea }, s)
    | .ok (p :: _) =>
      match s.ownerStep n k p with
      | (.error c, s1) => (.error (s1.fltOf c ea false), s1)
      | (.ok pa, s1) =>
        let s2 := s1.drainCtx n
        if s2.stopping n then (.error { cause := 0, data := 0 }, s2)
        else if p.block.typ = 2 ∨ s2.paKind pa ≠ .dram then
          let s3 := s2.errorResponse n pa
          (.error (s3.fltOf 19 ea false), s3)
        else
          let l := pa / 48
          let r := s2.access (some n) (cluOf n) l pa (fun m => m.l2Own (s2.asker n) (cluOf n) l (decide (p.block.typ = 1)))
          match r.1 with
          | some _ => (.error (r.2.fltOf 19 ea false), r.2)
          | none =>
            let old := mkDouble (r.2.mem.word (pa / 4)).data (if size = 8 then (r.2.mem.word (pa / 4 + 1)).data else 0)
            match f old with
            | none => (.ok old, r.2)
            | some v => (.ok old, r.2.onMem (fun m =>
              let m1 := (m.l2Accept (coreOf n) l).put (pa / 4) ⟨lowWord v, false⟩
              if size = 8 then m1.put (pa / 4 + 1) ⟨highWord v, false⟩ else m1))

/-- The line that CLEAN.A or INV.A names, after the checks of R241 with s = 1 (R180); none for a DEVICE block, which has no
cached line. -/
def State.maintLine (s : State) (n : Nat) (k : Cap) (perm ea : Nat) : Except Flt (Option Nat) × State :=
  match s.capSteps k [perm] ea 1 1 with
  | some c => (.error { cause := c, data := ea }, s)
  | none =>
    match s.blockSteps n k ea 1 with
    | .error e => (.error e, s)
    | .ok ps =>
      match ps with
      | p :: _ =>
        if p.block.typ = 2 then (.ok none, s)
        else match s.ownerStep n k p with
          | (.error c, s1) => (.error (s1.fltOf c ea false), s1)
          | (.ok pa, s1) =>
            if s1.paKind pa ≠ .dram then let s2 := s1.errorResponse n pa; (.error (s2.fltOf 19 ea false), s2)
            else (.ok (some (pa / 48)), s1)
      | [] => (.error { cause := 8, data := ea }, s)

end Sys2Proof.Machine
end

