-- ==== Sys2Proof/Machine/Predict.lean ====
section
/-!
DEFINITION. The branch predictor (R206 to R212): its tables, the return stacks, the checkpoints, what a branch leaves in them when it
resolves, and what branches on a wrong path leave.
-/

namespace Sys2Proof.Machine

open Sys2Proof

/-- The predictor tables of core `k`. -/
def State.pred (s : State) (k : Nat) : Pred := tget {} s.preds k

/-- Write the predictor tables of core `k`. -/
def State.setPred (s : State) (k : Nat) (p : Pred) : State := { s with preds := tset {} s.preds k p }

/-- Whether core `k` predicts: PRED_OFF is 0 and no flush is in progress (R210, R212). -/
def Core.predicts (c : Core) : Bool := !c.predOff && !c.predBusy

/-- The target-buffer kinds of R206: conditional, direct, return. -/
def kindCond : Nat := 0
def kindDirect : Nat := 1
def kindReturn : Nat := 2

/-- The pattern-table index of a branch at `addr` (R206). -/
def patternIdx (addr : Word) (h : BitVec 14) : Nat := ((addr.setWidth 14 : BitVec 14) ^^^ h).toNat

/-- A two-bit counter moves towards taken or not taken, and stays at its ends. -/
def moveCounter (c : BitVec 2) (taken : Bool) : BitVec 2 :=
  if taken then (if c = 3 then 3 else c + 1) else (if c = 0 then 0 else c - 1)

/-- The counter at `i` moves. -/
def Pred.move (p : Pred) (i : Nat) (taken : Bool) : Pred :=
  { p with pattern := tset (1 : BitVec 2) p.pattern i (moveCounter (tget (1 : BitVec 2) p.pattern i) taken) }

/-- A taken branch at `addr` enters the target buffer. -/
def Pred.enter (p : Pred) (addr : Nat) (target : Word) (kind : Nat) : Pred :=
  { p with target := tset none p.target (addr % 1024) (some (target, kind)) }

/-- What the branches of a wrong path leave in the tables when they resolve (R208): free values `f` to `f + 63` settle sixteen of them at the
most (log entry 10). -/
def Pred.disturb (p : Pred) (f : Nat) : Pred :=
  (List.range 16).foldl (fun (p : Pred) i =>
    let v := fun (j : Nat) => Config.freeNat (f + 4 * i + j)
    let q := if v 0 % 2 = 1 then p.move (v 1 % 16384) (decide (v 0 / 2 % 2 = 1)) else p
    if v 0 / 4 % 2 = 1 then q.enter (v 2) (word (v 3 % 2 ^ 36)) (v 3 / 2 ^ 36 % 3) else q) p

/-- The instructions of context `n` that are discarded have left what wrong-path branches leave in the predictor of its core (R208). -/
def State.wrongPath (s : State) (n : Nat) : State :=
  let on := (s.core (coreOf n)).predicts
  { s with
    preds := if on then tset {} s.preds (coreOf n) ((s.pred (coreOf n)).disturb s.free) else s.preds
    free := if on then s.free + 64 else s.free }

/-- The address that fetch predicts after the branch at `addr` of context `n`, when it predicts the branch taken (R207). -/
def State.guess (s : State) (n : Nat) (addr : Word) : Option Word :=
  let p := s.pred (coreOf n)
  let c := s.ctx n
  match tget none p.target (addr.toNat % 1024) with
  | none => none
  | some (t, kind) =>
    if kind = kindReturn then tget none c.retStack c.retTop
    else if kind = kindCond then (if 2 ≤ (tget (1 : BitVec 2) p.pattern (patternIdx addr c.history)).toNat then some t else none)
    else some t

/-- A branch takes a checkpoint (R208). -/
def Ctx.takeCheck (c : Ctx) : Ctx := { c with checks := c.checks ++ [⟨c.history, c.retTop, tget none c.retStack c.retTop⟩] }

/-- The checkpoint of the branch that resolves is freed. -/
def Ctx.freeCheck (c : Ctx) : Ctx := { c with checks := c.checks.dropLast }

/-- A misprediction: entries of the return stack may have been overwritten on the wrong path; the history, the top pointer and the top entry
are those of the checkpoint (R208). Free values `f` to `f + 3` settle the entries (log entry 10). -/
def Ctx.restoreCheck (c : Ctx) (f : Nat) : Ctx :=
  match c.checks.getLast? with
  | none => c
  | some k =>
    let st := (List.range 4).foldl (fun (t : Tbl (Option Word)) i =>
      let v := Config.freeNat (f + i)
      if v % 2 = 1 then tset none t (v / 2 % 16) (some (word (v / 32 % 2 ^ 36))) else t) c.retStack
    { c with history := k.history, retTop := k.top, retStack := tset none st k.top k.entry, early := none }

/-- The history with the outcome of a conditional branch shifted in (R206). -/
def shiftHistory (h : BitVec 14) (taken : Bool) : BitVec 14 := (h <<< 1) ||| (if taken then 1 else 0)

/-- What a branch is to the predictor: its address and the next one, whether it is conditional, whether its target comes from a
register, whether it is taken, its target and its target-buffer kind. -/
structure Branch where
  addr   : Word
  next   : Word
  cond   : Bool
  reg    : Bool
  taken  : Bool
  target : Word
  kind   : Nat
deriving DecidableEq, Repr

/-- Whether the prediction `g` of a branch is wrong (R207, R208). The core corrects the target of a direct branch before it resolves. -/
def Branch.missed (b : Branch) (g : Option Word) : Bool :=
  if b.reg then decide (g.getD b.next ≠ (if b.taken then b.target else b.next))
  else b.cond && decide (g.isSome ≠ b.taken)

/-- A branch of context `n` is fetched, takes its checkpoint where it needs one, and resolves (R207, R208; log entry 10): after a
misprediction the context is restored from the checkpoint; the pattern table and the target buffer are updated. -/
def State.resolveBranch (s : State) (n : Nat) (b : Branch) : State :=
  let k := coreOf n
  if !(s.core k).predicts then s
  else
    let g := s.guess n b.addr
    let h := (s.ctx n).history
    let checked := b.cond || b.reg
    let s1 := if checked then s.modCtx n (fun c => { c.takeCheck with history := if b.cond then shiftHistory h g.isSome else h }) else s
    let s2 := if b.missed g then
        let w := s1.wrongPath n
        { w with free := w.free + 4 }.modCtx n (fun c =>
          let r := c.restoreCheck w.free
          { r with history := if b.cond then shiftHistory r.history b.taken else r.history })
      else s1
    let s3 := if checked then s2.modCtx n Ctx.freeCheck else s2
    let p := s3.pred k
    let p1 := if b.cond then p.move (patternIdx b.addr h) b.taken else p
    s3.setPred k (if b.taken then p1.enter b.addr.toNat b.target b.kind else p1)

/-- CALL and CALL.R push the return stack: 16 entries, an overflow overwrites the oldest (R206). -/
def State.pushReturn (s : State) (n : Nat) (ret : Word) : State :=
  if (s.core (coreOf n)).predicts then
    s.modCtx n (fun c => let t := (c.retTop + 1) % 16; { c with retTop := t, retStack := tset none c.retStack t (some ret) })
  else s

/-- RET pops the return stack (R206). -/
def State.popReturn (s : State) (n : Nat) : State :=
  if (s.core (coreOf n)).predicts then s.modCtx n (fun c => { c with retTop := (c.retTop + 15) % 16 }) else s

end Sys2Proof.Machine
end

