-- ==== Sys2Proof/Machine/Exceptions.lean ====
section
/-!
DEFINITION. Taking an exception, returning from one, and the wedged state (R266 to R292).
-/

namespace Sys2Proof.Machine

open Sys2Proof

/-- What an exception entry reports (R274 to R277). `ops` are the G registers of the operand fields A, B and C of the
instruction at FAULT_ADDR. -/
structure Exc where
  cause  : Nat
  fault  : Word
  resume : Word
  data   : Nat := 0
  imp    : Bool := false
  mt     : Bool := false
  split  : Bool := false
  async  : Bool := false
  bkskip : Bool := false
  trap   : Nat := 0
  orig   : Nat := 0
  ops    : List (Option GReg) := []
  micro  : Micro := {}
  info   : Nat := 0
  intr   : Option Delivery := none
deriving DecidableEq, Repr

/-- The word of system register 0 (R155). -/
def Ctx.flagsWord (c : Ctx) : Word :=
  word (b2n c.dl * 16 + b2n c.n * 8 + b2n c.z * 4 + b2n c.c * 2 + b2n c.v)

/-- Context `n` with system register 0 written; DL is left unchanged (R155, R281 step 4). -/
def Ctx.setFlags (c : Ctx) (w : Word) : Ctx :=
  { c with n := w.getLsbD 3, z := w.getLsbD 2, c := w.getLsbD 1, v := w.getLsbD 0 }

/-- The CAUSE word of a frame (R275). -/
def Exc.causeWord (e : Exc) : Word :=
  word (b2n e.bkskip * 2 ^ 23 + b2n e.async * 2 ^ 22 + b2n e.split * 2 ^ 21 + b2n e.intr.isSome * 2 ^ 20
    + b2n e.mt * 2 ^ 18 + b2n e.imp * 2 ^ 17 + e.trap * 2 ^ 12 + e.orig * 2 ^ 6
    + (if e.intr.isSome then 0 else e.cause))

/-- The operand field `i` (0 A, 1 B, 2 C) of the instruction at FAULT_ADDR, valid when IMP or MT is 1 (R276). -/
def Exc.opField (e : Exc) (i : Nat) : Option GReg := if e.imp || e.mt then (e.ops.getD i none) else none

/-- The OPREG word (R276). -/
def Exc.opreg (e : Exc) : Word :=
  let f := fun i sh => match e.opField i with | some r => (32 + r.toNat) * 2 ^ sh | none => 0
  word (f 0 12 + f 1 6 + f 2 0)

/-- The 20 plain words of a frame, words 16 to 35 (R274). -/
def Exc.plain (e : Exc) (c : Ctx) (stamp : Word) : List Word :=
  let op := fun i => match e.opField i with | some r => c.gget r | none => 0
  let t := fun i => if e.mt then e.micro.t.getD i 0 else 0
  [e.causeWord, c.flagsWord, e.fault, e.resume, word e.data, op 0, op 1, op 2, e.opreg,
   (if e.mt then word (e.micro.gen * 2 ^ 15 + e.micro.mpc) else 0),
   t 0, t 1, t 2, t 3, t 4, t 5, t 6, t 7,
   word (match e.intr with | some d => d.src | none => e.info), stamp]

/-- The 36 frame words as bytes (R274). -/
def Exc.frame (e : Exc) (c : Ctx) (stamp : Word) : List Byte :=
  ({ c.pcc with cursor := e.fault } : Cap).bytes ++ (c.kget 0).bytes ++ (c.kget 14).bytes ++ (c.kget 15).bytes
    ++ (e.plain c stamp).flatMap (wordBytes 4)

/-- The words of the frame that carry a tag (R256, R274): the capability words of tagged registers. -/
def Exc.frameTags (c : Ctx) : List Nat :=
  let w := fun (k : Cap) (i : Nat) => if k.tag then [i, i + 1, i + 2, i + 3] else []
  w c.pcc 0 ++ w (c.kget 0) 4 ++ w (c.kget 14) 8 ++ w (c.kget 15) 12

/-- One frame line through ESC: its physical line and whether its block is STREAM, or the REASON of R291 that fails. A push (`own`) asks
for the line with ownership, an ERET for reading. -/
def State.frameLine (s : State) (n : Nat) (own : Bool) (va : Nat) : Except Nat (Nat × Bool) × State :=
  let c := s.ctx n
  match c.findBlock (va / 48) with
  | none => (.error 6, s)
  | some b =>
    if b.2.typ = 2 then (.error 7, s)
    else if c.esc.tenant ≠ b.2.owner ∧ !(c.esc.perm permCross) then (.error 8, s)
    else match s.physOf n b.1 b.2 va with
      | (.error x, s1) => (.error (if x = 19 then 10 else 9), s1)
      | (.ok pa, s1) =>
        if s1.paKind pa ≠ .dram then (.error 10, s1.errorResponse n pa)
        else
          let l := pa / 48
          let stream := decide (b.2.typ = 1)
          let r := s1.access (some n) (cluOf n) l pa (fun m =>
            if own then m.l2Own (s1.asker n) (cluOf n) l stream else m.l1Read (s1.asker n) (coreOf n) l false stream)
          match r.1 with
          | some _ => (.error 10, r.2)
          | none => (.ok (l, stream), r.2)

/-- The lines of a frame at `va`, three of them, or the lowest REASON that any of them fails. -/
def State.frameLines (s : State) (n : Nat) (own : Bool) : List Nat → Except Nat (List (Nat × Bool)) × State
  | [] => (.ok [], s)
  | va :: t =>
    let r := s.frameLine n own va
    let q := r.2.frameLines n own t
    match r.1, q.1 with
    | .ok x, .ok xs => (.ok (x :: xs), q.2)
    | .error a, .error b => (.error (min a b), q.2)
    | .error a, .ok _ => (.error a, q.2)
    | .ok _, .error b => (.error b, q.2)

/-- The requirements 1 to 5 of R291 on ESC for a frame at `lo`, which ends at `hi`. -/
def State.escReason (s : State) (esc : Cap) (lo hi : Int) : Option Nat :=
  if !esc.tag then some 1
  else if s.dead esc.tenant then some 2
  else if !([permLoad, permStore, permLoadCap, permStoreCap].all (fun p => esc.perm p)) then some 3
  else if esc.cursor.toNat % 48 ≠ 0 then some 4
  else if lo < esc.base.toNat ∨ ((min (esc.base.toNat + esc.len.toNat) (2 ^ 36) : Nat) : Int) < hi then some 5
  else none

/-- All requirements on ESC for a frame at `lo` (R255, R273): its three lines, or the REASON of R291. -/
def State.frameAt (s : State) (n : Nat) (own : Bool) (lo : Int) : Except Nat (List (Nat × Bool)) × State :=
  match s.escReason (s.ctx n).esc lo (lo + 144) with
  | some r => (.error r, s)
  | none => s.frameLines n own [lo.toNat, lo.toNat + 48, lo.toNat + 96]

/-- A context enters WEDGED (R288, R290): its record is written, held deliveries return and source 16 is raised. -/
def State.wedge (s : State) (n reason cause : Nat) (addr : Word) (eret : Bool) : State :=
  let s1 := s.returnHeld n
  let s2 := s1.modCtx n (fun c => { c with
    run := .wedged
    longOps := []
    routine := none
    pendRet := none
    bkskip := false
    early := none
    wEret := eret
    wCause := cause
    wReason := reason
    wCount := satInc 255 c.wCount
    wAddr := addr })
  s2.raise 16

/-- Write the frame into the merging buffer, line by line, as capability and word stores (R256, R269 step 3). Its entries keep the cause
and the address that a wedge record would hold should a frame write fail. -/
def State.pushFrame (s : State) (n : Nat) (lines : List (Nat × Bool)) (bs : List Byte) (tags : List Nat) (va : Nat) (why : Nat × Word) : State :=
  (lines.zipIdx).foldl (fun s e =>
    let i := e.2
    s.bufferStore n e.1.1 0 ((bs.drop (48 * i)).take 48)
      ((tags.filter (fun w => decide (w / 12 = i))).map (fun w => w % 12)) (word (va + 48 * i)) e.1.2 (some why)) s

/-- The handler's PCC (R258, R268): EVC with CURSOR at the vector and OTYPE 0. -/
def handlerPcc (evc : Cap) (e : Exc) : Cap :=
  { (evc.withOtype 0) with cursor := match e.intr with
    | some d => d.vec
    | none => evc.base + word (16 * e.cause) }

/-- The cause that a wedge record holds for an entry: 0 for an interrupt (R290). -/
def Exc.wedgeCause (e : Exc) : Nat := if e.intr.isSome then 0 else e.cause

/-- What an entry leaves of what waited: an asynchronous machine check is taken once (R280), and the stores of the context become eligible
to drain (R361). -/
def State.entryBegins (s : State) (n : Nat) (e : Exc) : State :=
  (s.makeEligible n).modCtx n (fun c => { c with pendAsync := if e.async then c.pendAsync.drop 1 else c.pendAsync })

/-- Enter an exception, steps 2 to 6 of R269: the frame is pushed and the handler entered, or the context wedges. A core that is still to
be offlined pushes no frame (R364). -/
def State.enter (s : State) (n : Nat) (e : Exc) : State :=
  if s.stopping n then s
  else
    let c := s.ctx n
    let lo : Int := (c.esc.cursor.toNat : Int) - 144
    let r := (s.entryBegins n e).frameAt n true lo
    match r.1 with
    | .error x => r.2.wedge n x e.wedgeCause e.fault false
    | .ok lines =>
      if r.2.dead c.evc.tenant then r.2.wedge n 11 e.wedgeCause e.fault false
      else
        let s1 := r.2.pushFrame n lines (e.frame c s.nowShort) (Exc.frameTags c) lo.toNat (e.wedgeCause, e.fault)
        (s1.wrongPath n).modCtx n (fun c => { c with
          esc := { c.esc with cursor := word lo.toNat }
          pcc := handlerPcc c.evc e
          run := .run
          routine := none
          pendRet := none
          bkskip := false
          early := none })

/-- The 144 bytes of a frame and its 36 tags, read through ESC (R281 step 2). -/
def State.readFrame (s : State) (n : Nat) (lines : List (Nat × Bool)) : List Byte × List Bool :=
  (lines.flatMap (fun l => (List.range 48).map (fun i => s.seenByte n (48 * l.1 + i))),
   lines.flatMap (fun l => (List.range 12).map (fun i => s.seenTag n (12 * l.1 + i))))

/-- The frame capability in words 4i to 4i+3 (R257). -/
def frameCap (f : List Byte × List Bool) (i : Nat) : Cap :=
  capOf ((f.1.drop (16 * i)).take 16) (((f.2.drop (4 * i)).take 4).all id)

/-- Frame word `k`. -/
def frameWord (f : List Byte × List Bool) (k : Nat) : Word := bytesWord ((f.1.drop (4 * k)).take 4)

/-- Write the G registers that OPREG marks valid from OPA, OPB and OPC (R281 step 5). -/
def restoreOps (c : Ctx) (f : List Byte × List Bool) : Ctx :=
  let o := (frameWord f 24).toNat
  let one := fun (c : Ctx) (sh k : Nat) =>
    if bit o (sh + 5) then c.gset (BitVec.ofNat 5 (o / 2 ^ sh)) (frameWord f k) else c
  one (one (one c 12 21) 6 22) 0 23

/-- ERET (R281): the context is restored from the frame at ESC; step 7 waits for the next instruction, and RETIRED counts
the ERET (R192). -/
def State.eretNow (s : State) (n : Nat) : State :=
  let c := s.ctx n
  let lo : Int := c.esc.cursor.toNat
  let r := s.frameAt n false lo
  match r.1 with
  | .error x => r.2.wedge n x 0 c.pcc.cursor true
  | .ok lines =>
    let f := r.2.readFrame n lines
    let cause := frameWord f 16
    let imp := cause.getLsbD 17
    let mt := cause.getLsbD 18
    let at_ := if imp || mt then frameWord f 18 else frameWord f 19
    let m := frameWord f 25
    let pend : PendRet := { fault := frameWord f 18, resume := frameWord f 19, imp := imp, mt := mt, opreg := (frameWord f 24).toNat, micro := { mpc := m.toNat % 2 ^ 15, gen := m.toNat / 2 ^ 15, t := (List.range 8).map (fun i => frameWord f (26 + i)) } }
    r.2.modCtx n (fun c =>
      let c1 := (restoreOps (c.setFlags (frameWord f 17)) f)
      let c2 := ((c1.kset 0 (frameCap f 1)).kset 14 (frameCap f 2)).kset 15 (frameCap f 3)
      { c2 with
        pcc := { frameCap f 0 with cursor := at_ }
        esc := { c.esc with cursor := word (lo.toNat + 144) }
        bkskip := cause.getLsbD 23
        pendRet := some pend
        early := none
        retired := c.retired + 1 })

end Sys2Proof.Machine
end

