-- ==== Sys2Proof/Machine/Operands.lean ====
section
/-!
DEFINITION. Operand forms: registers and immediates at the operand width (R121, R142, R143), effective addresses (R162),
the registers an instruction reads and writes (R145, R202), and the well-formedness of decoded operands (R120 to R136).
-/

namespace Sys2Proof.Machine

open Sys2Proof

/-- The number of bits of an operand width (R132, R142). -/
def wbits : Width → Nat
  | .byte => 9
  | .half => 18
  | .word => 36
  | .double => 72

/-- The register above `r` in a pair (R53). -/
def pairHi (r : GReg) : GReg := r + 1

/-- A register, or at width 72 a register pair, as an operand of width `w` (R142, R143). -/
def Ctx.val (c : Ctx) (w : Width) (r : GReg) : BitVec (wbits w) :=
  (mkDouble (c.gget r) (c.gget (pairHi r))).setWidth (wbits w)

/-- Write a result of width `w`: the bits above w are cleared; at width 72 the pair is written (R142, R143). -/
def Ctx.putVal (c : Ctx) (w : Width) (r : GReg) (v : BitVec (wbits w)) : Ctx :=
  let d : DWord := v.setWidth 72
  match w with
  | .double => (c.gset r (lowWord d)).gset (pairHi r) (highWord d)
  | _ => c.gset r (lowWord d)

/-- The second source at width `w` (R121, R143): `zx` says that an immediate is zero-extended. -/
def Ctx.srcVal (c : Ctx) (w : Width) (zx : Bool) (o : Src) : BitVec (wbits w) :=
  let ext := fun (v : Word) => (if zx then v.setWidth 72 else v.signExtend 72 : DWord).setWidth (wbits w)
  match o with
  | .reg r => c.val w r
  | .half i => ext (if zx then i.setWidth 36 else i.signExtend 36)
  | .word i => ext i

/-- The effective address of a load or store (R162). -/
def Ctx.ea (c : Ctx) (b : GReg) (i : Index) : Nat :=
  match i with
  | .disp d => (c.gget b + d.signExtend 36).toNat
  | .reg r => (c.gget b + c.gget r).toNat

/-- The displacement of a branch, sign-extended (R122). -/
def dispWord : Disp → Word
  | .short d => d.signExtend 36
  | .long d => d

/-- The general register of a source, if it is one. -/
def srcRegs : Src → List GReg
  | .reg r => [r]
  | _ => []

/-- The registers of an operand at a width. -/
def atWidth (w : Width) (l : List GReg) : List GReg :=
  match w with
  | .double => l ++ l.map pairHi
  | _ => l

/-- What an instruction reads and writes, as far as it decides which long operations it waits for (R145, R179, R202).
`all` makes it wait for every one. -/
structure Deps where
  rd    : List GReg := []
  wr    : List GReg := []
  flags : Bool := false
  fp    : Bool := false
  kw    : List KReg := []
  mem   : Bool := false
  all   : Bool := false
deriving DecidableEq, Repr

/-- The registers a long operation reads and writes, and whether it touches flags and FPSTAT (R145). -/
def LongKind.deps : LongKind → Deps
  | .mulh o => { rd := o.b :: srcRegs o.src, wr := [o.a], flags := true }
  | .div o => { rd := o.b :: srcRegs o.src, wr := [o.a], flags := true }
  | .rem o => { rd := o.b :: srcRegs o.src, wr := [o.a], flags := true }
  | .fp k o => match k with
    | .fcmp => { rd := [o.b, o.c], flags := true }
    | .fsqrt => { rd := [o.b], wr := [o.a], fp := true }
    | _ => { rd := [o.b, o.c], wr := [o.a], fp := true }
  | .blk k o => match k with
    | .match_ => { rd := [o.a, o.b, o.c], wr := [o.a, o.c], flags := true, kw := [o.auth], mem := true }
    | .move => { rd := [o.a, o.b, o.c], wr := [o.a, o.b, o.c], kw := [o.auth], mem := true }
    | .fill => { rd := [o.a, o.b, o.c], wr := [o.a, o.c], kw := [o.auth], mem := true }

/-- Whether an instruction waits for a long operation in flight (R145, R179, R202). -/
def Deps.waits (d : Deps) (k : LongKind) : Bool :=
  let l := k.deps
  d.all || l.wr.any (fun r => d.rd.contains r || d.wr.contains r) || l.rd.any (fun r => d.wr.contains r)
    || (l.flags && d.flags) || (l.fp && d.fp) || l.kw.any (fun r => d.kw.contains r) || (l.mem && d.mem)

/-- The G registers in the operand fields A, B and C of a long operation (R276). -/
def LongKind.fields : LongKind → List (Option GReg)
  | .mulh o => [some o.a, some o.b, (srcRegs o.src).head?]
  | .div o => [some o.a, some o.b, (srcRegs o.src).head?]
  | .rem o => [some o.a, some o.b, (srcRegs o.src).head?]
  | .fp k o => match k with
    | .fcmp => [none, some o.b, some o.c]
    | .fsqrt => [some o.a, some o.b, none]
    | _ => [some o.a, some o.b, some o.c]
  | .blk _ o => [some o.a, some o.b, some o.c]

end Sys2Proof.Machine
end

