-- ==== Sys2Proof/Machine/Issue.lean ====
section
/-!
DEFINITION. How an instruction command runs: the boundary events, the fetch checks (R140), the condition (R117), the wait
for long operations (R145, R202, R203), the effect, and retirement (R192); and the long operations themselves.
-/

namespace Sys2Proof.Machine

open Sys2Proof

/-! ### Block and pattern instructions (R174 to R178) -/

/-- The bytes of one position: one byte for BLKMOVE, a word for BLKFILL and MATCH (R174 to R176). -/
def blkUnit : BlkKind → Nat
  | .move => 1
  | _ => 4

/-- Progress of a block or pattern instruction: the values of A, B and C, and whether MATCH has found its word. -/
structure BlkProg where
  a     : Word
  b     : Word
  c     : Word
  found : Bool := false
deriving DecidableEq, Repr

/-- One position at progress `p` (R174 to R178): the next progress, or the failed access. -/
def State.blkStep (s : State) (n : Nat) (k : Cap) (kd : BlkKind) (p : BlkProg) : Except Flt BlkProg × State :=
  match kd with
  | .move =>
    match s.load n k [permLoad] p.b.toNat 1 1 false with
    | (.error f, s1) => (.error f, s1)
    | (.ok v, s1) =>
      match s1.store n k [permStore] p.a.toNat 1 v.bytes false false with
      | (.error f, s2) => (.error f, s2)
      | (.ok _, s2) => (.ok { p with a := p.a + 1, b := p.b + 1, c := p.c - 1 }, s2)
  | .fill =>
    match s.store n k [permStore] p.a.toNat 1 (wordBytes 4 p.b) false false with
    | (.error f, s1) => (.error f, s1)
    | (.ok _, s1) => (.ok { p with a := p.a + 4, c := p.c - 4 }, s1)
  | .match_ =>
    match s.load n k [permLoad] p.a.toNat 4 1 false with
    | (.error f, s1) => (.error f, s1)
    | (.ok v, s1) =>
      if bytesWord v.bytes = p.b then (.ok { p with found := true }, s1)
      else (.ok { p with a := p.a + 4, c := p.c - 4 }, s1)

/-- Up to `m` positions: the progress reached and the failure that stopped it, if one did. -/
def State.blkRun (s : State) (n : Nat) (k : Cap) (kd : BlkKind) : Nat → BlkProg → BlkProg × Option Flt × State
  | 0, p => (p, none, s)
  | m + 1, p =>
    if p.found then (p, none, s)
    else match s.blkStep n k kd p with
      | (.error f, s1) => (p, some f, s1)
      | (.ok q, s1) => s1.blkRun n k kd m q

/-- The progress registers written back (R178): A and C, and B for BLKMOVE. -/
def Ctx.putProg (c : Ctx) (kd : BlkKind) (o : BlkOp) (p : BlkProg) : Ctx :=
  let c1 := c.gset o.a p.a
  let c2 := match kd with | .move => c1.gset o.b p.b | _ => c1
  c2.gset o.c p.c

/-! ### Vendor routines (R386, R388, R394, R396, R405) -/

/-- The number by which Config knows the vendor routine of a block or pattern instruction. -/
def blkRoutine : BlkKind → Nat
  | .move => 0
  | .fill => 1
  | .match_ => 2

/-- Patch half `i` of a core (R386). -/
def Core.patch (c : Core) (i : Nat) : Half := if i = 0 then c.p0 else c.p1

/-- The micro-address of the first microword of patch half `i` (R386). -/
def patchBase (i : Nat) : Nat := 16384 + 1024 * i

/-- The active patch half (R387). -/
def Core.activePatch (c : Core) : Nat := if c.p1.st = .active then 1 else 0

/-- The offset in a patch half from which vendor routine `i` runs in place of the ROM: that of an enabled match entry which names its
ROM entry address (R405, R407). -/
def Half.patches (h : Half) (i : Nat) : Option Nat :=
  (h.table.find? (fun e => bit e 24 && decide (bits e 13 0 = Config.vendorStart i % 16384))).map (fun e => bits e 23 14)

/-- The microwords that vendor routine `i` reads as it runs on core `k` (R405): from the active patch half where that replaces it, else
from the ROM. -/
def Core.vendorReads (c : Core) (i a : Nat) : Bool :=
  let b := patchBase c.activePatch
  Config.vendorFetch i a && (match (c.patch c.activePatch).patches i with
    | some _ => decide (b ≤ a) && decide (a < b + 1024)
    | none => decide (a < 16384))

/-- Vendor routine `i` starts on core `k`: the microwords in error that it reads are met (R388; log entry 8). -/
def State.vendorRun (s : State) (k i : Nat) : State :=
  (((s.core k).badMicro.map (·.1)).filter (fun a => (s.core k).vendorReads i a)).foldl (fun (s : State) a =>
    if (s.core k).stop.isEmpty then s.readMicro k a else s) s

/-- The micro-addresses at which patch half `j` holds micro-trap points of routine `i`. -/
def Core.patchPoints (c : Core) (j i : Nat) : List Nat :=
  let h := c.patch j
  ((List.range 1024).filter (fun o => muMtp (h.words.getD o 0) && Config.vendorIn i h.ver o)).map (fun o => patchBase j + o)

/-- The micro-state that the frame of a stopped block or pattern instruction holds: a micro-trap point of its routine, with the load
generation of the half that holds it, and temporaries that are free values (R394; log entry 8). -/
def State.vendorMicro (s : State) (n : Nat) (kd : BlkKind) : Micro × State :=
  let i := blkRoutine kd
  let c := s.core (coreOf n)
  let r := (List.range 8).foldl (fun (e : List Word × State) _ => let d := e.2.draw (2 ^ 36); (e.1 ++ [word d.1], d.2)) ([], s)
  match (c.patch c.activePatch).patches i with
  | none => ({ mpc := Config.vendorPoint i % 16384, gen := 0, t := r.1 }, r.2)
  | some _ =>
    match c.patchPoints c.activePatch i with
    | [] => ({}, r.2)
    | p :: ps => let d := r.2.draw (ps.length + 1)
                 ({ mpc := (p :: ps).getD d.1 p, gen := (c.patch c.activePatch).gen, t := r.1 }, d.2)

/-- A micro-address of patch half `j` passes the check of R284 for routine `i` (R396). -/
def Core.patchCheck (c : Core) (i j : Nat) (m : Micro) : Bool :=
  let h := c.patch j
  decide (h.st ≠ .closed) && (h.patches i).isSome && decide (m.gen = h.gen) && (c.patchPoints j i).contains m.mpc

/-- A vendor micro-address passes the check of R284 for a block or pattern instruction (R396; log entry 8): in the ROM, or in the active
or the retired patch half with its load generation. -/
def vendorCheck (c : Core) (kd : BlkKind) (m : Micro) : Bool :=
  let i := blkRoutine kd
  (decide (m.mpc < 16384) && (decide (m.mpc = Config.vendorPoint i % 16384) || Config.vendorMtp i m.mpc))
    || c.patchCheck i 0 m || c.patchCheck i 1 m

/-- Run up to `m` positions of a block or pattern instruction at `addr` and write its progress registers. The exception is
cause 14 with the cause of the failing step in ORIG (R178), or cause 7 before any access (R175, R176). -/
def State.blkGo (s : State) (n : Nat) (addr : Word) (kd : BlkKind) (o : BlkOp) (m : Nat) : Option Exc × State :=
  let c := s.ctx n
  let ops := [some o.a, some o.b, some o.c]
  if kd ≠ .move ∧ ((c.gget o.a).toNat % 4 ≠ 0 ∨ (c.gget o.c).toNat % 4 ≠ 0) then
    (some { cause := 7, fault := addr, resume := 0, imp := true, ops := ops }, s)
  else
    let total := (c.gget o.c).toNat / blkUnit kd
    let r := s.blkRun n (c.kget o.auth) kd (min m total) ⟨c.gget o.a, c.gget o.b, c.gget o.c, false⟩
    let s1 := r.2.2.modCtx n (fun c => c.putProg kd o r.1)
    match r.2.1 with
    | some f =>
      let v := s1.vendorMicro n kd
      (some { cause := 14, fault := addr, resume := 0, data := f.data, imp := true, mt := true, orig := f.cause, ops := ops, micro := v.1 }, v.2)
    | none =>
      if kd = .match_ ∧ (r.1.found ∨ total ≤ m) then (none, s1.modCtx n (fun c => { c with z := r.1.found })) else (none, s1)

/-! ### Long operations (R145, R146) -/

/-- Write a quotient, remainder or high product with its flags (R150, R144). -/
def Ctx.putAlu (c : Ctx) (k : AluK) (o : AluOp) : Ctx :=
  let b := c.val o.wid o.b
  let x := c.srcVal o.wid k.zeroExt o.src
  (c.putVal o.wid o.a (aluRes k o.u b x)).withNzcv (aluFlags k o.u b x)

/-- Complete a long operation of context `n`: its destinations are written, or it raises its exception and writes none of
them (R146, R151, R160). -/
def State.runLong (s : State) (n : Nat) (op : LongOp) : Option Exc × State :=
  let c := s.ctx n
  let exc : Nat → Exc := fun x => { cause := x, fault := op.addr, resume := 0, imp := true, ops := op.kind.fields }
  let dv : AluK → AluOp → Option Exc × State := fun k o =>
    if c.srcVal o.wid false o.src = 0 then (some (exc 12), s) else (none, s.setCtx n (c.putAlu k o))
  match op.kind with
  | .mulh o => (none, s.setCtx n (c.putAlu .mulh o))
  | .div o => dv .div o
  | .rem o => dv .rem o
  | .fp k o =>
    match k with
    | .fcmp => (none, s.setCtx n (c.withNzcv (fpCmp (fpUnpack (c.gget o.b)) (fpUnpack (c.gget o.c)))))
    | _ =>
      let r := fpRes k o.rnd (c.gget o.b) (c.gget o.c)
      let c1 := { c with fpstat := c.fpstat ||| r.stat }
      match r.res with
      | some v => (none, s.setCtx n (c1.gset o.a v))
      | none => (some (exc 13), s.setCtx n c1)
  | .blk k o => s.blkGo n op.addr k o (2 ^ 36)

/-- Complete the oldest long operation in flight. When it raises its exception a later one is discarded, and the resume
address is the later one's, or `next` (R205). -/
def State.finishHead (s : State) (n : Nat) (next : Word) : Option Exc × State :=
  match (s.ctx n).longOps with
  | [] => (none, s)
  | op :: rest =>
    let s1 := s.modCtx n (fun c => { c with longOps := rest })
    match s1.runLong n op with
    | (none, s2) => (none, s2.modCtx n Ctx.count)
    | (some e, s2) =>
      let resume := match rest with | q :: _ => q.addr | [] => next
      (some { e with resume := resume }, s2.modCtx n (fun c => { c with longOps := [] }))

/-- Complete every long operation in flight, in order (R279). -/
def State.settleAll (s : State) (n : Nat) (next : Word) : Option Exc × State :=
  match s.finishHead n next with
  | (some e, s1) => (some e, s1)
  | (none, s1) => s1.finishHead n next

/-- Complete the long operations that an instruction waits for: one that runs alone (R204, R281 step 7), the earlier of two always (R203),
then any that conflicts (R145, R202). -/
def State.settleFor (s : State) (n : Nat) (next : Word) (d : Deps) : Option Exc × State :=
  if (s.ctx n).longOps.any (·.alone) then s.settleAll n next
  else
    let r := if 2 ≤ (s.ctx n).longOps.length then s.finishHead n next else (none, s)
    match r with
    | (some e, s1) => (some e, s1)
    | (none, s1) => if (s1.ctx n).longOps.any (fun op => d.waits op.kind) then s1.finishHead n next else (none, s1)

/-- Take exception `e`, after the long operations in flight have completed or one of them is reported in its place
(R269 step 1, R279). -/
def State.takeExc (s : State) (n : Nat) (e : Exc) : State :=
  match s.settleAll n (s.ctx n).pcc.cursor with
  | (some x, s1) => s1.enter n x
  | (none, s1) => s1.enter n e

/-! ### Fetch (R140) -/

/-- The byte at virtual address `a` is fetched through block `b`, once it is translated: the error response, or the line in the L1I
(R140 step 2). -/
def fetchLine (n : Nat) (b : Block) (r : Except Nat Nat × State) : Except (Nat × Nat) Unit × State :=
  match r with
  | (.error x, s1) => (.error (x, if x = 19 then s1.lastSeq else 0), s1)
  | (.ok pa, s1) =>
    if s1.paKind pa ≠ .dram then let s2 := s1.errorResponse n pa; (.error (19, s2.lastSeq), s2)
    else
      let a := s1.access (some n) (cluOf n) (pa / 48) pa (fun m => m.l1Read (s1.asker n) (coreOf n) (pa / 48) true (decide (b.typ = 1)))
      match a.1 with
      | some q => (.error (19, q), a.2)
      | none => (.ok (), a.2)

/-- The byte at virtual address `a` is fetched under the block registers `c` holds; `old` says that they are contents before the
context's last write of one (R140 step 2, R332). -/
def State.fetchUnder (s : State) (n : Nat) (c : Ctx) (old : Bool) (a : Nat) : Except (Nat × Nat) Unit × State :=
  match c.findBlock (a / 48) with
  | none => (.error (8, 0), s)
  | some b =>
    if b.2.typ = 2 then (.error (11, 0), s)
    else fetchLine n b.2 (if old then s.physOld n b.1 b.2 a else s.physOf n b.1 b.2 a)

/-- The byte at virtual address `a` is fetched: bounds of PCC, translation, DEVICE block, then the access (R140 step 2). Whether a byte
near enough was fetched before the last write of a block register is a free value (R332; log entry 15). -/
def State.fetchByte (s : State) (n : Nat) (a : Nat) : Except (Nat × Nat) Unit × State :=
  let c := s.ctx n
  if !(c.pcc.covers a 1) then (.error (4, 0), s)
  else match c.early with
    | none => s.fetchUnder n c false a
    | some e =>
      if e.lo ≤ a ∧ a < e.hi then
        let d := s.draw 2
        if d.1 = 1 then d.2.fetchUnder n { c with bd := e.bd } true a else d.2.fetchUnder n c false a
      else s.fetchUnder n c false a

/-- The bytes of an instruction of length `m` at `a`, in address order: the failing byte with its cause and INFO. -/
def State.fetchBytes (s : State) (n : Nat) : Nat → Nat → Option (Nat × Nat × Nat) × State
  | 0, _ => (none, s)
  | m + 1, a =>
    match s.fetchByte n (a % 2 ^ 36) with
    | (.error x, s1) => (some (a % 2 ^ 36, x.1, x.2), s1)
    | (.ok _, s1) => s1.fetchBytes n m (a + 1)

/-- The fetch checks on an instruction of `len` bytes at the cursor of PCC (R140 steps 1 and 2, R285). -/
def State.fetch (s : State) (n len : Nat) : Option Exc × State :=
  let c := s.ctx n
  let a := c.pcc.cursor
  if !c.pcc.tag || !(c.pcc.perm permExec) then (some { cause := 18, fault := a, resume := a }, s)
  else if c.bken && decide (c.bkaddr = a) && !c.bkskip then (some { cause := 20, fault := a, resume := a, bkskip := true }, s)
  else match s.fetchBytes n len a.toNat with
    | (some x, s1) => (some { cause := x.2.1, fault := a, resume := a, data := x.1, info := x.2.2 }, s1)
    | (none, s1) => (none, s1)

/-! ### Running an instruction -/

/-- What the effect of an instruction comes to: it retires, it retires and control goes elsewhere, it blocks, it starts a
long operation, it raises an exception, or it has done everything itself (ERET, wedging). -/
inductive Eff where
  | retire (s : State)
  | jump (s : State) (target : Word)
  | blocked (s : State)
  | long (s : State) (k : LongKind)
  | exc (s : State) (e : Exc)
  | whole (s : State)
deriving DecidableEq, Repr

/-- The state that an instruction leaves. -/
def Eff.state : Eff → State
  | .retire s => s
  | .jump s _ => s
  | .blocked s => s
  | .long s _ => s
  | .exc s _ => s
  | .whole s => s

/-- Start a long operation at `addr`: it is in flight and the context goes on behind it (R145); after an ERET with IMP or MT it is alone in
flight (R204, R281 step 7). -/
def State.startLong (s : State) (n : Nat) (addr next : Word) (k : LongKind) : State :=
  s.modCtx n (fun c => { c with
    longOps := c.longOps ++ [⟨addr, k, match c.pendRet with | some p => p.imp || p.mt | none => false⟩]
    pcc := { c.pcc with cursor := c.after next }
    pendRet := none
    bkskip := false })

/-- The prefetched bytes of context `n` are discarded (R200). -/
def State.refetch (s : State) (n : Nat) : State := s.modCtx n (fun c => { c with early := none })

/-- Finish an instruction of `len` bytes at `addr`. When its core is to be offlined, nothing follows (R364, R388). -/
def State.finish (n : Nat) (addr : Word) (len : Nat) (e : Eff) : State :=
  if e.state.stopping n then e.state
  else match e with
    | .retire s => s.retireTo n (addr + word len)
    | .jump s t => (s.refetch n).retireTo n t
    | .blocked s => s
    | .long s k => s.startLong n addr (addr + word len) k
    | .exc s x => s.takeExc n x
    | .whole s => s

/-- An instruction whose vendor routine is number `i` (R388): its effect, unless a microword of the routine stops the core. -/
def vendored (n i : Nat) (f : State → Eff) (s : State) : Eff :=
  let s1 := s.vendorRun (coreOf n) i
  if s1.stopping n then .whole s1 else f s1

/-- A precise exception of the instruction at the cursor (R277). -/
def State.exc (s : State) (n cause : Nat) : Exc :=
  { cause := cause, fault := (s.ctx n).pcc.cursor, resume := (s.ctx n).pcc.cursor }

/-- The exception of a failed access (R277): a data-access fault records its address, the other causes 0. -/
def State.excOf (s : State) (n : Nat) (f : Flt) : Exc :=
  { s.exc n f.cause with data := f.data, split := f.split, info := f.info }

/-- The cause 6 exception of a context whose PCC names a dead tenant (R261). Before step 7 of an ERET its frame is again that of the frame
which the ERET read (log entry 37). -/
def State.deadExc (s : State) (n : Nat) : Exc :=
  let c := s.ctx n
  let pc := c.pcc.cursor
  match c.pendRet with
  | some p =>
    let r := fun sh => if bit p.opreg (sh + 5) then some (BitVec.ofNat 5 (p.opreg / 2 ^ sh)) else none
    { cause := 6, fault := p.fault, resume := p.resume, imp := p.imp, mt := p.mt, bkskip := c.bkskip, ops := [r 12, r 6, r 0], micro := p.micro }
  | none => { cause := 6, fault := pc, resume := pc }

/-- The exception that waits at the boundary before the next instruction: an asynchronous machine check, with the SEQ of its own record
(R280, R274), or cause 6 when PCC names a dead tenant (R261). -/
def State.boundary (s : State) (n : Nat) : Option Exc :=
  let c := s.ctx n
  let pc := c.pcc.cursor
  match c.pendAsync with
  | a :: _ => some { cause := 19, fault := pc, resume := pc, data := a.1.toNat, async := true, info := a.2 }
  | [] => if s.dead c.pcc.tenant then some (s.deadExc n) else none

/-- A context is ready for its next instruction: it may issue, it is running and no customer routine is in progress. -/
def State.atBoundary (s : State) (n : Nat) : Bool :=
  s.mayIssue n && decide ((s.ctx n).run = .run) && (s.ctx n).routine.isNone

/-- A context blocked in TAKE or WAIT is at a boundary: it takes the exception that waits there (R228, R261, R280). -/
def State.blockedExc (s : State) (n : Nat) : State :=
  let blocked := match (s.ctx n).run with | .take _ _ _ => true | .wait _ => true | _ => false
  if s.mayIssue n && blocked then
    match s.boundary n with
    | some e => (s.leaveWaiting n).takeExc n e
    | none => s
  else s

/-- The condition, then the effect. The instruction that ERET runs alone or continues has passed its condition before (R281 step 7). -/
def State.runIf (s : State) (h : Hd) (always : Bool) (body : State → Eff) : State :=
  let c := s.ctx h.ctx
  let pc := c.pcc.cursor
  let again := match c.pendRet with | some p => p.imp || p.mt | none => false
  if !always && !again && !(condHolds h.cond c) then s.retireTo h.ctx (pc + word h.len)
  else State.finish h.ctx pc h.len (body s)

/-- An instruction command at the boundary of its context. -/
def State.issueHere (s : State) (h : Hd) (ok always micro : Bool) (d : Deps) (body : State → Eff) : State :=
  let n := h.ctx
  match s.boundary n with
  | some e => s.takeExc n e
  | none =>
    let d' := if h.cond = 0 then d else { d with flags := true }
    match s.settleFor n (s.ctx n).pcc.cursor d' with
    | (some e, s1) => s1.enter n e
    | (none, s1) =>
      if s1.stopping n then s1
      else match s1.fetch n h.len with
      | (some e, s2) => s2.takeExc n e
      | (none, s2) =>
        if !ok then s2.takeExc n (s2.exc n 1)
        else if (match (s2.ctx n).pendRet with | some p => p.mt && !micro | none => false) then s2.takeExc n (s2.exc n 1)
        else s2.runIf h always body

/-- Run one instruction command. `ok` says whether its operands obey R120 to R136; `always` that it executes whatever its
condition (SEL); `micro` that it can continue from a micro-resume state (R284). A command that meets a context which is
not ready for an instruction changes nothing (log entry 4), but that a blocked context takes the exception at its boundary. The hardware
errors of the command strike first, and cores that they stop are offlined at the end (R364, R388; log entry 29). -/
def State.issue (s : State) (h : Hd) (ok always micro : Bool) (d : Deps) (body : State → Eff) : State :=
  let s1 := s.strike h.strikes
  (if !s1.atBoundary h.ctx then s1.blockedExc h.ctx else s1.issueHere h ok always micro d body).stopCores

end Sys2Proof.Machine
end

