-- ==== Sys2Proof/Machine/Alu.lean ====
section
/-!
DEFINITION. Arithmetic and logic (R150 to R152), the long integer operations (R145), move, compare, count, select and field
(R153), and FP36 (R158 to R161).
-/

namespace Sys2Proof.Machine

open Sys2Proof

/-- What an instruction of classes 1 to 3 reads and writes. -/
def aluDeps (o : AluOp) : Deps :=
  { rd := atWidth o.wid (o.b :: srcRegs o.src), wr := atWidth o.wid [o.a], flags := true }

/-- A := B op src2 with its flags (R150). -/
def aluEff (k : AluK) (n : Nat) (o : AluOp) (s : State) : Eff := .retire (s.setCtx n ((s.ctx n).putAlu k o))

/-- ADD, SUB, AND, OR, XOR. -/
def aluWide (k : AluK) (h : Hd) (o : AluOp) (s : State) : State :=
  s.issue h (h.wf && o.wfWide) false false (aluDeps o) (aluEff k h.ctx o)

/-- SHL, SHR, SAR, ROL, ROR, MUL. -/
def aluNarrow (k : AluK) (h : Hd) (o : AluOp) (s : State) : State :=
  s.issue h (h.wf && o.wfNarrow) false false (aluDeps o) (aluEff k h.ctx o)

/-- MULH, DIV, REM: long operations. -/
def aluLong (k : LongKind) (h : Hd) (o : AluOp) (s : State) : State :=
  s.issue h (h.wf && o.wfSigned) false false (aluDeps o) (fun s => .long s k)

def execAdd (h : Hd) (o : AluOp) (s : State) : Res := .next (aluWide .add h o s)
def execSub (h : Hd) (o : AluOp) (s : State) : Res := .next (aluWide .sub h o s)
def execAnd (h : Hd) (o : AluOp) (s : State) : Res := .next (aluWide .and h o s)
def execOr (h : Hd) (o : AluOp) (s : State) : Res := .next (aluWide .or h o s)
def execXor (h : Hd) (o : AluOp) (s : State) : Res := .next (aluWide .xor h o s)
def execShl (h : Hd) (o : AluOp) (s : State) : Res := .next (aluNarrow .shl h o s)
def execShr (h : Hd) (o : AluOp) (s : State) : Res := .next (aluNarrow .shr h o s)
def execSar (h : Hd) (o : AluOp) (s : State) : Res := .next (aluNarrow .sar h o s)
def execRol (h : Hd) (o : AluOp) (s : State) : Res := .next (aluNarrow .rol h o s)
def execRor (h : Hd) (o : AluOp) (s : State) : Res := .next (aluNarrow .ror h o s)
def execMul (h : Hd) (o : AluOp) (s : State) : Res := .next (aluNarrow .mul h o s)
def execMulh (h : Hd) (o : AluOp) (s : State) : Res := .next (aluLong (.mulh o) h o s)
def execDiv (h : Hd) (o : AluOp) (s : State) : Res := .next (aluLong (.div o) h o s)
def execRem (h : Hd) (o : AluOp) (s : State) : Res := .next (aluLong (.rem o) h o s)

/-! ### FP36 -/

/-- An FP36 instruction: a long operation (R145). -/
def fpLong (k : FpKind) (ok : Bool) (h : Hd) (o : FpOp) (s : State) : State :=
  s.issue h (h.wf && ok) false false (LongKind.fp k o).deps (fun s => .long s (.fp k o))

def execFadd (h : Hd) (o : FpOp) (s : State) : Res := .next (fpLong .fadd true h o s)
def execFsub (h : Hd) (o : FpOp) (s : State) : Res := .next (fpLong .fsub true h o s)
def execFmul (h : Hd) (o : FpOp) (s : State) : Res := .next (fpLong .fmul true h o s)
def execFdiv (h : Hd) (o : FpOp) (s : State) : Res := .next (fpLong .fdiv true h o s)
def execFsqrt (h : Hd) (o : FpOp) (s : State) : Res := .next (fpLong .fsqrt o.wfSqrt h o s)
def execFcmp (h : Hd) (o : FpOp) (s : State) : Res := .next (fpLong .fcmp o.wfCmp h o s)

/-! ### Move, compare, count, select and field (R153) -/

/-- MOV: A := the source at the operand width. -/
def moveEff (n : Nat) (o : MoveOp) (s : State) : Eff :=
  let c := s.ctx n
  .retire (s.setCtx n (c.putVal o.wid o.a (c.srcVal o.wid false o.src)))

/-- CMP and TST: the flags of A op src2. -/
def cmpEff (k : AluK) (n : Nat) (o : MoveOp) (s : State) : Eff :=
  let c := s.ctx n
  .retire (s.setCtx n (c.withNzcv (aluFlags k false (c.val o.wid o.a) (c.srcVal o.wid k.zeroExt o.src))))

/-- POPC and CLZ: A := a count of the source; Z from the result, N := 0 (R153). -/
def countEff (f : (w : Nat) → BitVec w → Nat) (n : Nat) (o : MoveOp) (s : State) : Eff :=
  let c := s.ctx n
  let r := f (wbits o.wid) (c.srcVal o.wid false o.src)
  .retire (s.setCtx n { c.putVal o.wid o.a (BitVec.ofNat _ r) with z := decide (r = 0), n := false })

/-- SEL: A := B when the condition holds, else C. -/
def selEff (h : Hd) (a b x : GReg) (s : State) : Eff :=
  let c := s.ctx h.ctx
  .retire (s.setCtx h.ctx (c.gset a (if condHolds h.cond c then c.gget b else c.gget x)))

/-- FEXT, FEXT.S and FINS: A := a field result; N and Z from A (R153). -/
def fieldEff (f : Word → Word → Word) (n : Nat) (o : FieldOp) (s : State) : Eff :=
  let c := s.ctx n
  let r := f (c.gget o.a) (c.gget o.b)
  .retire (s.setCtx n { c.gset o.a r with n := r.msb, z := decide (r = 0) })

/-- What MOV reads and writes. -/
def moveDeps (o : MoveOp) : Deps := { rd := atWidth o.wid (srcRegs o.src), wr := atWidth o.wid [o.a] }

/-- What CMP and TST read and write. -/
def cmpDeps (o : MoveOp) : Deps := { rd := atWidth o.wid (o.a :: srcRegs o.src), flags := true }

def execMov (h : Hd) (o : MoveOp) (s : State) : Res :=
  .next (s.issue h (h.wf && o.wf) false false (moveDeps o) (moveEff h.ctx o))
def execCmp (h : Hd) (o : MoveOp) (s : State) : Res :=
  .next (s.issue h (h.wf && o.wf) false false (cmpDeps o) (cmpEff .sub h.ctx o))
def execTst (h : Hd) (o : MoveOp) (s : State) : Res :=
  .next (s.issue h (h.wf && o.wf) false false (cmpDeps o) (cmpEff .and h.ctx o))
def execPopc (h : Hd) (o : MoveOp) (s : State) : Res :=
  .next (s.issue h (h.wf && o.wfCount) false false { moveDeps o with flags := true } (countEff (fun _ => popCount) h.ctx o))
def execClz (h : Hd) (o : MoveOp) (s : State) : Res :=
  .next (s.issue h (h.wf && o.wfCount) false false { moveDeps o with flags := true } (countEff (fun _ => leadZeros) h.ctx o))
def execSel (h : Hd) (a b c : GReg) (s : State) : Res :=
  .next (s.issue h h.wf true false { rd := [b, c], wr := [a], flags := true } (selEff h a b c))

/-- What a field instruction reads and writes. -/
def fieldDeps (o : FieldOp) : Deps := { rd := [o.a, o.b], wr := [o.a], flags := true }

def execFext (h : Hd) (o : FieldOp) (s : State) : Res :=
  .next (s.issue h (h.wf && o.wf) false false (fieldDeps o) (fieldEff (fun _ b => fieldGet b o.p.toNat o.w.toNat) h.ctx o))
def execFextS (h : Hd) (o : FieldOp) (s : State) : Res :=
  .next (s.issue h (h.wf && o.wf) false false (fieldDeps o) (fieldEff (fun _ b => fieldGetS b o.p.toNat o.w.toNat) h.ctx o))
def execFins (h : Hd) (o : FieldOp) (s : State) : Res :=
  .next (s.issue h (h.wf && o.wf) false false (fieldDeps o) (fieldEff (fun a b => fieldPut a b o.p.toNat o.w.toNat) h.ctx o))

end Sys2Proof.Machine
end

