-- ==== Sys2Proof/Machine/CapOps.lean ====
section
/-!
DEFINITION. The capability instructions (R168 to R170, R243 to R249).
-/

namespace Sys2Proof.Machine

open Sys2Proof

/-- CBOUND (R168, R243): the narrowed capability, or the cause. -/
def cboundRes (s : State) (b : Cap) (c : Word) : Except Nat Cap :=
  if !b.tag then .error 3
  else if b.otype ≠ 0 then .error 5
  else if s.dead b.tenant then .error 6
  else if !(b.covers b.cursor.toNat c.toNat) then .error 4
  else .ok { b with base := b.cursor, len := c }

/-- CRESTRICT (R168): permissions ANDed with C[11:0]. -/
def crestrictRes (s : State) (b : Cap) (c : Word) : Except Nat Cap :=
  if !b.tag then .error 3
  else if b.otype ≠ 0 then .error 5
  else if s.dead b.tenant then .error 6
  else .ok { b with attr := b.attr &&& (word 0o777700007777 ||| ((c &&& 0o7777) <<< 12)) }

/-- The tenant rule of CSEAL and CUNSEAL (R168). -/
def sameTenant (b c : Cap) : Bool := decide (c.tenant = b.tenant) || c.perm permCross

/-- CSEAL (R168, R243). -/
def csealRes (s : State) (b c : Cap) : Except Nat Cap :=
  if !b.tag || !c.tag then .error 3
  else if b.otype ≠ 0 ∨ c.otype ≠ 0 then .error 5
  else if s.dead b.tenant || s.dead c.tenant then .error 6
  else if !(c.perm permSeal) || !(sameTenant b c) then .error 2
  else if !(c.covers c.cursor.toNat 1) || decide (c.cursor.toNat = 0) || decide (4095 < c.cursor.toNat) then .error 4
  else .ok { b.withOtype c.cursor.toNat with tag := true }

/-- CUNSEAL (R168, R243). -/
def cunsealRes (s : State) (b c : Cap) : Except Nat Cap :=
  if !b.tag || !c.tag then .error 3
  else if b.otype = 0 ∨ c.otype ≠ 0 then .error 5
  else if s.dead b.tenant || s.dead c.tenant then .error 6
  else if !(c.perm permUnseal) || !(sameTenant b c) then .error 2
  else if !(c.covers c.cursor.toNat 1) || decide (c.cursor.toNat ≠ b.otype) then .error 4
  else .ok { b.withOtype 0 with tag := true }

/-- CSETC (R168): a tagged B must be unsealed; an untagged B gives an untagged A. -/
def csetcRes (b : Cap) (c : Word) : Except Nat Cap :=
  if b.tag && decide (b.otype ≠ 0) then .error 5 else .ok { b with cursor := c }

/-- Write K A with a result, or raise its cause. -/
def capEff (n : Nat) (a : KReg) (r : State → Except Nat Cap) (s : State) : Eff :=
  match r s with
  | .error x => .exc s (s.exc n x)
  | .ok v => .retire (s.modCtx n (fun c => c.kset a v))

/-- CGET: cursor, base, length, attributes, or the tag as 0 or 1 (R168). -/
def Cap.field (k : Cap) (i : Nat) : Word :=
  match i with
  | 0 => k.cursor
  | 1 => k.base
  | 2 => k.len
  | 3 => k.attr
  | _ => if k.tag then 1 else 0

/-- CSETS (R168, R248): ESC and EVC need EXCEPT; a sealed capability enters PCC untagged. -/
def csetsEff (n : Nat) (b : KReg) (i : Nat) (s : State) : Eff :=
  let c := s.ctx n
  let v := c.kget b
  match i with
  | 0 => .jump (s.setCtx n { c with pcc := if v.otype = 0 then v else { v with tag := false } }) v.cursor
  | 1 => if c.pcc.perm permExcept then .retire (s.setCtx n { c with esc := v }) else .exc s (s.exc n 2)
  | _ => if c.pcc.perm permExcept then .retire (s.setCtx n { c with evc := v }) else .exc s (s.exc n 2)

/-- CJUMP (R170): the checks, then PCC, K0 and the cleared tags in one step. -/
def cjumpEff (n : Nat) (a b : KReg) (x : GReg) (s : State) : Eff :=
  let c := s.ctx n
  let ka := c.kget a
  let kb := c.kget b
  let mask := c.gget x
  if !ka.tag || !kb.tag then .exc s (s.exc n 3)
  else if ka.otype = 0 ∨ kb.otype = 0 ∨ ka.otype ≠ kb.otype then .exc s (s.exc n 5)
  else if s.dead ka.tenant || s.dead kb.tenant then .exc s (s.exc n 6)
  else if !(ka.perm permExec) || decide (ka.tenant ≠ kb.tenant) then .exc s (s.exc n 2)
  else
    let c1 := { c with pcc := ka.withOtype 0 }
    let c2 := (List.range 15).foldl (fun c i =>
      let j : KReg := BitVec.ofNat 4 (i + 1)
      if mask.getLsbD (i + 1) then c else c.kset j { c.kget j with tag := false }) c1
    .jump (s.setCtx n (c2.kset 0 (kb.withOtype 0))) ka.cursor

def execCbound (h : Hd) (a b : KReg) (c : GReg) (s : State) : Res :=
  .next (s.issue h h.wf false false { rd := [c], kw := [a] }
    (capEff h.ctx a (fun s => cboundRes s ((s.ctx h.ctx).kget b) ((s.ctx h.ctx).gget c))))
def execCrestrict (h : Hd) (a b : KReg) (c : GReg) (s : State) : Res :=
  .next (s.issue h h.wf false false { rd := [c], kw := [a] }
    (capEff h.ctx a (fun s => crestrictRes s ((s.ctx h.ctx).kget b) ((s.ctx h.ctx).gget c))))
def execCseal (h : Hd) (a b c : KReg) (s : State) : Res :=
  .next (s.issue h h.wf false false { kw := [a] }
    (capEff h.ctx a (fun s => csealRes s ((s.ctx h.ctx).kget b) ((s.ctx h.ctx).kget c))))
def execCunseal (h : Hd) (a b c : KReg) (s : State) : Res :=
  .next (s.issue h h.wf false false { kw := [a] }
    (capEff h.ctx a (fun s => cunsealRes s ((s.ctx h.ctx).kget b) ((s.ctx h.ctx).kget c))))
def execCget (h : Hd) (a : GReg) (b : KReg) (selr : Nat) (s : State) : Res :=
  .next (s.issue h (h.wf && decide (selr ≤ 4)) false false { wr := [a] }
    (fun s => .retire (s.modCtx h.ctx (fun c => c.gset a ((c.kget b).field selr)))))
def execCsetc (h : Hd) (a b : KReg) (c : GReg) (s : State) : Res :=
  .next (s.issue h h.wf false false { rd := [c], kw := [a] }
    (capEff h.ctx a (fun s => csetcRes ((s.ctx h.ctx).kget b) ((s.ctx h.ctx).gget c))))
def execCmove (h : Hd) (a b : KReg) (s : State) : Res :=
  .next (s.issue h h.wf false false { kw := [a] } (capEff h.ctx a (fun s => .ok ((s.ctx h.ctx).kget b))))
def execCgets (h : Hd) (a : KReg) (selr : Nat) (s : State) : Res :=
  .next (s.issue h (h.wf && decide (selr ≤ 2)) false false { kw := [a] }
    (capEff h.ctx a (fun s => .ok (match selr with
      | 0 => (s.ctx h.ctx).pcc
      | 1 => (s.ctx h.ctx).esc
      | _ => (s.ctx h.ctx).evc))))
def execCsets (h : Hd) (b : KReg) (selr : Nat) (s : State) : Res :=
  .next (s.issue h (h.wf && decide (selr ≤ 2)) false false {} (csetsEff h.ctx b selr))
def execCjump (h : Hd) (a b : KReg) (c : GReg) (s : State) : Res :=
  .next (s.issue h h.wf false false { rd := [c], all := true } (vendored h.ctx 6 (cjumpEff h.ctx a b c)))

end Sys2Proof.Machine
end

