-- ==== Sys2Proof/Machine/Control.lean ====
section
/-!
DEFINITION. Branches and calls (R171), traps and returns (R172, R173),
WAIT, ALARM, EOI, SGI and NOP (R184 to R186).
-/

namespace Sys2Proof.Machine

open Sys2Proof

/-! ### Branches -/

/-- A branch to `t` (R171): not taken when its condition is false; `link` writes G31, `reg` says that its target comes from
a register, `kind` is its target-buffer kind. -/
def branchEff (h : Hd) (t : State → Word) (link reg : Bool) (kind : Nat) (s : State) : Eff :=
  let n := h.ctx
  let c := s.ctx n
  let pc := c.pcc.cursor
  let next := c.after (pc + word h.len)
  let taken := condHolds h.cond c
  let target := t s
  let s1 := s.resolveBranch n ⟨pc, next, decide (h.cond ≠ 0), reg, taken, target, if h.cond ≠ 0 ∧ kind = kindDirect then kindCond else kind⟩
  if !taken then .retire s1
  else if link then .jump ((s1.pushReturn n next).modCtx n (fun c => c.gset linkReg next)) target
  else if kind = kindReturn then .jump (s1.popReturn n) target
  else .jump s1 target

/-- A displacement target: the address of the branch plus the displacement (R122). -/
def dispTarget (n : Nat) (d : Disp) (s : State) : Word := (s.ctx n).pcc.cursor + dispWord d

/-- A register target. -/
def regTarget (n : Nat) (a : GReg) (s : State) : Word := (s.ctx n).gget a

def execBr (h : Hd) (d : Disp) (s : State) : Res :=
  .next (s.issue h h.wf true false {} (branchEff h (dispTarget h.ctx d) false false kindDirect))
def execCall (h : Hd) (d : Disp) (s : State) : Res :=
  .next (s.issue h h.wf true false { wr := [linkReg] } (branchEff h (dispTarget h.ctx d) true false kindDirect))
def execBrR (h : Hd) (a : GReg) (s : State) : Res :=
  .next (s.issue h h.wf true false { rd := [a] } (branchEff h (regTarget h.ctx a) false true kindDirect))
def execCallR (h : Hd) (a : GReg) (s : State) : Res :=
  .next (s.issue h h.wf true false { rd := [a], wr := [linkReg] } (branchEff h (regTarget h.ctx a) true true kindDirect))
def execRet (h : Hd) (s : State) : Res :=
  .next (s.issue h h.wf true false { rd := [linkReg] } (branchEff h (regTarget h.ctx linkReg) false true kindReturn))

/-! ### Traps, returns, waits -/

/-- TRAP n: it retires, and cause 21 is taken with the next instruction as the resume address (R172, R277). -/
def trapEff (h : Hd) (t : BitVec 5) (s : State) : Eff :=
  let n := h.ctx
  let pc := (s.ctx n).pcc.cursor
  let s1 := s.retireTo n (pc + word h.len)
  .whole (s1.takeExc n { cause := 21, fault := pc, resume := (s1.ctx n).pcc.cursor, trap := t.toNat })

/-- WAIT: an alarm that is pending ends it at once; else the context blocks (R185). -/
def waitEff (n len : Nat) (s : State) : Eff :=
  if (s.ctx n).alarmPending then .retire (s.modCtx n (fun c => { c with alarmPending := false }))
  else .blocked (s.modCtx n (fun c => { c with run := .wait len }))

/-- ALARM G: cause 4 for an invalid stamp; else the alarm is armed, or pending at once (R106, R184). -/
def alarmEff (n : Nat) (a : GReg) (s : State) : Eff :=
  let w := (s.ctx n).gget a
  if !(s.stampOk w) then .exc s (s.exc n 4)
  else
    let t := s.resolve w
    if Stamp.le t s.now then .retire (s.modCtx n (fun c => { c with alarm := none, alarmPending := true }))
    else .retire (s.modCtx n (fun c => { c with alarm := some (s.due t), alarmPending := false }))

/-- EOI G (R186, R310). -/
def eoiEff (n : Nat) (a : GReg) (s : State) : Eff :=
  let c := s.ctx n
  let g := (c.gget a).toNat
  if !(c.pcc.perm permControl) then .exc s (s.exc n 2)
  else match c.stack with
    | t :: rest =>
      if t.1 = g then .retire ((s.endService g).modCtx n (fun c => { c with stack := rest }))
      else .exc s { s.exc n 15 with info := g }
    | [] => .exc s { s.exc n 15 with info := g }

/-- SGI G: one arrival on a software-generated source (R186, R312). -/
def sgiEff (n : Nat) (a : GReg) (s : State) : Eff :=
  let c := s.ctx n
  let g := (c.gget a).toNat
  if !(c.pcc.perm permControl) then .exc s (s.exc n 2)
  else if g < 5120 ∨ 8192 ≤ g then .exc s (s.exc n 4)
  else .retire (s.raise g)

def execEret (h : Hd) (s : State) : Res :=
  .next (s.issue h h.wf false false { all := true } (vendored h.ctx 7 (fun s => .whole (s.eretNow h.ctx))))
def execWait (h : Hd) (s : State) : Res := .next (s.issue h h.wf false false { all := true } (waitEff h.ctx h.len))
def execTrap (h : Hd) (n : BitVec 5) (s : State) : Res := .next (s.issue h h.wf false false { all := true } (vendored h.ctx 8 (trapEff h n)))
def execEoi (h : Hd) (a : GReg) (s : State) : Res := .next (s.issue h h.wf false false { rd := [a] } (eoiEff h.ctx a))
def execSgi (h : Hd) (a : GReg) (s : State) : Res := .next (s.issue h h.wf false false { rd := [a] } (sgiEff h.ctx a))
def execAlarm (h : Hd) (a : GReg) (s : State) : Res := .next (s.issue h h.wf false false { rd := [a] } (alarmEff h.ctx a))
def execNop (h : Hd) (s : State) : Res := .next (s.issue h h.wf false false {} (fun s => .retire s))

end Sys2Proof.Machine
end

