-- ==== Sys2Proof/Machine/Customer.lean ====
section
/-!
DEFINITION. Customer instructions: the micro-sequencer (R386 to R401), and illegal encodings (R118, R140).
-/

namespace Sys2Proof.Machine

open Sys2Proof

/-- Customer half `i` of a core (R386). -/
def Core.half (c : Core) (i : Nat) : Half := if i = 0 then c.h0 else c.h1

/-- The active customer half (R387). -/
def Core.active (c : Core) : Nat := if c.h1.st = .active then 1 else 0

/-- The micro-address of the first microword of customer half `i` (R386). -/
def halfBase (i : Nat) : Nat := if i = 0 then 18432 else 18944

/-- The G register of operand field `i` of a customer instruction (R392). -/
def custReg (o : CustOp) (i : Nat) : Option GReg := if formHas o.form i then some (opReg o.opb i) else none

/-- The immediate or displacement of a customer instruction, zero-extended (R119, R392 IMM). -/
def custImm (o : CustOp) : Word :=
  word (match o.form with
    | 4 => opImm o.opb 1 1
    | 5 => opImm o.opb 2 1
    | 6 => opImm o.opb 1 2
    | 7 => opImm o.opb 2 2
    | 8 => opImm o.opb 1 4
    | 9 => opImm o.opb 2 4
    | 10 => opImm o.opb 0 2
    | 11 => opImm o.opb 0 4
    | _ => 0)

/-- The value of a source selector (R392). -/
def microSrc (c : Ctx) (r : Routine) (lit sel : Nat) : Word :=
  let o := r.op
  let pay := fun (p : Option Byte) => match p with | some b => b.toNat | none => 0
  if sel < 8 then r.t.getD sel 0
  else match sel with
    | 8 => (match custReg o 0 with | some g => c.gget g | none => 0)
    | 9 => (match custReg o 1 with | some g => c.gget g | none => 0)
    | 10 => (match custReg o 2 with | some g => c.gget g | none => 0)
    | 11 => custImm o
    | 12 => word (pay o.wpx + pay o.cpx * 2 ^ 9 + pay o.apx * 2 ^ 18)
    | 13 => word ((List.range 3).foldl (fun a i => a + (if i < o.opb.length then opHi o.opb i else 0) * 2 ^ (4 * i)) 0)
    | 15 => word lit
    | _ => 0

/-- Write a destination selector (R392). -/
def microDst (s : State) (n : Nat) (r : Routine) (sel : Nat) (v : Word) : State × Routine :=
  if sel < 8 then (s, { r with t := (List.range 8).map (fun i => if i = sel then v else r.t.getD i 0) })
  else match custReg r.op (sel - 8) with
    | some g => if sel < 11 then (s.modCtx n (fun c => c.gset g v), r) else (s, r)
    | none => (s, r)

/-- The ALU operation that FN selects (R124, R391). -/
def microAlu (fn : Nat) : AluK :=
  match fn with
  | 0 => .add | 1 => .sub | 2 => .and | 3 => .or | 4 => .xor | 5 => .shl | 6 => .shr
  | 7 => .sar | 8 => .rol | 9 => .ror | 10 => .mul | 11 => .mulh | 12 => .div | _ => .rem

/-- The exception of a customer instruction at the cursor (R277, R394, R400): cause 17 with the micro-state of the last
recorded point; `f` tells of the cause in ORIG, the address and the half that failed (R275). -/
def State.custExc (s : State) (n : Nat) (r : Routine) (f : Flt) : Exc :=
  { s.exc n 17 with data := f.data, mt := true, split := f.split, orig := f.cause, ops := [custReg r.op 0, custReg r.op 1, custReg r.op 2], micro := r.point.getD {}, info := r.op.entry }

/-- A cause number that no unit raises (R267). -/
def reservedCause (n : Nat) : Bool := decide (n = 0) || decide (n = 16) || decide (22 ≤ n)

/-- What one micro-operation comes to. -/
inductive MicroOut where
  | go (s : State) (r : Routine)
  | fin (s : State)
  | exc (s : State) (e : Exc)
  | whole (s : State)
deriving DecidableEq, Repr

/-- Go on after a microword: to the next one, to a branch target, or to the end of the routine (R390). -/
def microNext (s : State) (r : Routine) (w next : Nat) : MicroOut :=
  if muEnd w then .fin s else .go s { r with upc := next, count := r.count + 1 }

/-- The authorising register of the accesses of a routine (R400). -/
def custAuth (o : CustOp) : KReg := match o.cpx with | some p => p.setWidth 4 | none => 0

/-- One micro-operation of a routine of context `n` (R391, R393, R400). -/
def State.microStep (s : State) (n : Nat) (r : Routine) (w : Nat) : MicroOut :=
  let c := s.ctx n
  let x := microSrc c r (muLit w) (muSrc1 w)
  let y := microSrc c r (muLit w) (muSrc2 w)
  let size := 2 ^ muFn w
  match muUop w with
  | 0 =>
    let k := microAlu (muFn w)
    if (k = .div ∨ k = .rem) ∧ y = 0 then .exc s (s.custExc n r { cause := 12, data := 0 })
    else
      let f := aluFlags k false x y
      let m := muFlagw w
      let s1 := s.modCtx n (fun c => { c with v := if bit m 0 then f.v else c.v
                                              c := if bit m 1 then f.c else c.c
                                              z := if bit m 2 then f.z else c.z
                                              n := if bit m 3 then f.n else c.n })
      let d := microDst s1 n r (muDst w) (aluRes k false x y)
      microNext d.1 d.2 w (r.upc + 1)
  | 1 =>
    let a := (x + word (muLit w)).toNat
    match s.load n (c.kget (custAuth r.op)) [permLoad] a size 1 false with
    | (.error f, s1) => if s1.stopping n then .whole s1 else .exc s1 (s1.custExc n r f)
    | (.ok v, s1) =>
      let d := microDst s1 n r (muDst w) (bytesWord v.bytes)
      microNext d.1 d.2 w (r.upc + 1)
  | 2 =>
    let a := (x + word (muLit w)).toNat
    match s.store n (c.kget (custAuth r.op)) [permStore] a 1 (wordBytes size y) false false with
    | (.error f, s1) => if s1.stopping n then .whole s1 else .exc s1 (s1.custExc n r f)
    | (.ok _, s1) => microNext s1 r w (r.upc + 1)
  | 3 =>
    let taken := match muFn w with
      | 0 => true
      | 1 => decide (x = 0)
      | 2 => decide (x ≠ 0)
      | _ => condHolds (BitVec.ofNat 4 (muCond w)) c
    microNext s r w (if taken then muNext w else r.upc + 1)
  | 4 => let s1 := s.drainCtx n
         if s1.stopping n then .whole s1 else microNext s1 r w (r.upc + 1)
  | _ =>
    let f := muLit w % 64
    if reservedCause f then .exc s { s.exc n 1 with orig := f } else .exc s (s.custExc n r { cause := f, data := 0 })

/-- Record the micro-trap point before a microword with MTP = 1 (R394). -/
def markPoint (h : Half) (r : Routine) (w : Nat) : Routine :=
  if muMtp w then { r with point := some { mpc := halfBase r.half + r.upc, gen := h.gen, t := r.t } } else r

/-- Run a routine: to its end, a fault, the limit of R398, or the next micro-trap point after `op.rest` micro-operations, where
it rests. `upc` is an offset within the half. Each microword is read with its check bits (R388). -/
def State.microRun (s : State) (n : Nat) : Nat → Routine → MicroOut
  | 0, r => .whole (s.modCtx n (fun c => { c with routine := some { r with limit := true } }))
  | fuel + 1, r =>
    let s0 := s.readMicro (coreOf n) (halfBase r.half + r.upc)
    if s0.stopping n then .whole s0
    else
      let h := (s0.core (coreOf n)).half r.half
      let w := h.words.getD r.upc 0
      let r1 := markPoint h r w
      let rests := match r.op.rest with | some k => decide (k ≤ r.count) | none => false
      if muMtp w && rests then .whole (s0.modCtx n (fun c => { c with routine := some r1 }))
      else match s0.microStep n r1 w with
        | .go s1 r2 => s1.microRun n fuel r2
        | o => o

/-- The outcome of a routine as the effect of its instruction. -/
def custOut (n : Nat) : MicroOut → Eff
  | .go s _ => .whole s
  | .fin s => .retire (s.modCtx n (fun c => { c with routine := none }))
  | .exc s e => .exc (s.modCtx n (fun c => { c with routine := none })) e
  | .whole s => .whole s

/-- Run a routine of context `n` from `r`. -/
def State.custGo (s : State) (n : Nat) (r : Routine) : Eff := custOut n (s.microRun n (4096 - r.count) r)

/-- The checks of R136 on a customer instruction against a decode word. -/
def custOk (s : State) (o : CustOp) (w : Nat) : Bool :=
  Config.decode s.hw.variant && deValid w && decide (deForm w = o.form)
    && (o.wpx.isNone || bit w 30) && (o.cpx.isNone || bit w 29) && (o.apx.isNone || bit w 28)

/-- The decode word of entry `e` in the active half of core `k`. -/
def Core.decodeWord (c : Core) (e : Nat) : Nat := (c.half c.active).table.getD e 0

/-- The routine that ERET continues from a micro-resume state, when the check of R396 passes. -/
def State.custResume (s : State) (n : Nat) (o : CustOp) (len : Nat) (m : Micro) : Option Routine :=
  let c := s.core (coreOf n)
  let i := if m.mpc < halfBase 1 then 0 else 1
  let h := c.half i
  let off := m.mpc - halfBase i
  let w := h.table.getD o.entry 0
  if halfBase 0 ≤ m.mpc ∧ m.mpc < halfBase 1 + 512 ∧ h.st ≠ .closed ∧ deValid w ∧ deStart w ≤ off ∧ off < deStart w + deLen w
      ∧ muMtp (h.words.getD off 0) ∧ m.gen = h.gen
  then some { op := o, len := len, half := i, entry := w, upc := off, t := m.t, point := some m, count := 0, limit := false }
  else none

/-- A customer instruction: from its start, or from the micro-resume state that ERET left pending (R400, R281, R284). -/
def custEff (h : Hd) (o : CustOp) (s : State) : Eff :=
  let n := h.ctx
  let c := s.core (coreOf n)
  let w := c.decodeWord o.entry
  let start := s.custGo n { op := o, len := h.len, half := c.active, entry := w, upc := deStart w, t := (List.replicate 8 0), point := none, count := 0, limit := false }
  match (s.ctx n).pendRet with
  | some p =>
    if p.mt then
      match s.custResume n o h.len p.micro with
      | some r => s.custGo n r
      | none => .exc s (s.exc n 1)
    else start
  | none => start

/-- The context continues an instruction from its micro-resume state (R281 step 7). -/
def Ctx.resumes (c : Ctx) : Bool := match c.pendRet with | some p => p.mt | none => false

/-- A customer routine that rests at a micro-trap point goes on (R394); a routine stopped by R398 does not. -/
def State.custContinue (s : State) (n : Nat) (o : CustOp) : State :=
  match (s.ctx n).routine with
  | none => s
  | some r =>
    if !(s.mayIssue n) || r.limit then s
    else
      let pc := (s.ctx n).pcc.cursor
      let r1 := { r with op := { r.op with rest := o.rest.map (fun k => k + r.count) } }
      State.finish n pc r.len (s.custGo n r1)

/-- The checks of R136 come before the condition (R118); an instruction that continues is checked by R396 instead. -/
def execCustomerInstruction (h : Hd) (o : CustOp) (s : State) : Res :=
  let ok := h.wf && o.wf && ((s.ctx h.ctx).resumes || custOk s o ((s.core (coreOf h.ctx)).decodeWord o.entry))
  .next (if (s.ctx h.ctx).routine.isSome then ((s.strike h.strikes).custContinue h.ctx o).stopCores
    else s.issue h ok false true { all := true } (custEff h o))

/-- CUSTOMER_ROUTINE_LIMIT: a routine that has executed 4,096 micro-operations is stopped by cause 17 with ORIG 1 (R398). -/
def execCustomerRoutineLimit (ctx : Nat) (s : State) : Res :=
  .next (match (s.ctx ctx).routine with
    | some r => if r.limit && s.mayIssue ctx then (s.takeExc ctx (s.custExc ctx r { cause := 1, data := 0 })).stopCores else s
    | none => s)

/-- ILLEGAL: bytes that break a rule of the encoding chapter, reached on the correct path (R118, R140). -/
def execIllegal (ctx : Nat) (bytes : List Byte) (s : State) : Res :=
  let raise := fun (len : Nat) => s.issue { ctx := ctx, cond := 0, len := len } false false true {} (fun s => .retire s)
  .next (match lengthDecode bytes with
    | .illegal n => raise n
    | .ok n _ _ _ => if (decodeInstr ctx bytes).isNone then raise n else s
    | .short => s)

end Sys2Proof.Machine
end

