-- ==== Sys2Proof/Machine/CoreEvents.lean ====
section
/-!
DEFINITION. TAKE, DECIDE and DONE (R181 to R183), and the events of the cores: long operations that complete, the merging buffer,
alarms and deadlines, and the delivery and acceptance of interrupts (R297 to R317).
-/

namespace Sys2Proof.Machine

open Sys2Proof

/-! ### TAKE, DECIDE, DONE -/

/-- TAKE A, B (R181, R492): a pending alarm ends it at once, else it joins the waiting order of the DDU and blocks (R495). -/
def takeEff (h : Hd) (a b : KReg) (s : State) : Eff :=
  let n := h.ctx
  let c := s.ctx n
  let k := c.kget b
  if !k.tag then .exc s (s.exc n 3)
  else if k.otype < 4032 then .exc s (s.exc n 5)
  else if c.alarmPending then .whole (s.takeAlarm n a h.len)
  else
    let s1 := s.modCtx n (fun c => { c with run := .take a b h.len })
    .blocked { s1 with ddu := { s1.ddu with waiting := s1.ddu.waiting ++ [n] } }

/-- DECIDE A, B, C (R183, R502, R503, R507): the word goes to the record of the coach's event, when it has one. -/
def decideEff (n : Nat) (a b : GReg) (k : KReg) (s : State) : Eff :=
  let c := s.ctx n
  let st := c.gget a
  if !(c.kget k).tag then .exc s (s.exc n 3)
  else match c.coachOf (c.kget k) with
    | none => .exc s (s.exc n 4)
    | some co =>
      if !(s.stampOk st) || decide (st ≠ co.ev.stamp.short) then .exc s (s.exc n 4)
      else match co.ev.lane with
        | none => .retire s
        | some l =>
          let r := s.dolDecide l co.ev.stamp (c.gget b) (!co.decided)
          .retire (r.1.modCtx n (fun c => { c with
            coaches := c.coaches.map (fun x => if x = co then { x with decided := x.decided || r.2 } else x) }))

/-- DONE K (R182): the coach slot returns to its pool, K loses its tag, the deadline and DL clear. -/
def doneEff (n : Nat) (a : KReg) (s : State) : Eff :=
  let c := s.ctx n
  if !(c.kget a).tag then .exc s (s.exc n 3)
  else match c.coachOf (c.kget a) with
    | none => .exc s (s.exc n 4)
    | some co =>
      .retire ((s.freeCoach n co).modCtx n (fun c => { c.kset a { c.kget a with tag := false } with deadline := none, dl := false }))

def execTake (h : Hd) (a b : KReg) (s : State) : Res := .next (s.issue h h.wf false false { all := true } (vendored h.ctx 3 (takeEff h a b)))

def execDecide (h : Hd) (a b : GReg) (c : KReg) (s : State) : Res :=
  .next (s.issue h h.wf false false { rd := [a, b] } (vendored h.ctx 5 (decideEff h.ctx a b c)))

def execDone (h : Hd) (a : KReg) (s : State) : Res :=
  .next (s.issue h h.wf false false { kw := [a] } (vendored h.ctx 4 (doneEff h.ctx a)))

/-! ### Long operations -/

/-- Long operation `idx` of context `n` completes, or reports its exception (R145, R146, R205, R278). The later of two completes
first only when it raises no exception. -/
def State.longDone (s : State) (n idx : Nat) : State :=
  let pc := (s.ctx n).pcc.cursor
  let head := match s.finishHead n pc with
    | (some e, s1) => s1.enter n e
    | (none, s1) => s1
  match idx, (s.ctx n).longOps with
  | 0, _ :: _ => head
  | 1, [op, q] =>
    match s.runLong n q with
    | (none, s1) => s1.modCtx n (fun c => { c.count with longOps := [op] })
    | (some _, s1) => if s1.stopping n then s1 else head
  | _, _ => s

def execLongOpComplete (ctx idx : Nat) (s : State) : Res :=
  .next (if s.mayIssue ctx then (s.longDone ctx idx).stopCores else s)

/-! ### The merging buffer -/

/-- An entry of the merging buffer of core `k` has seen no store for 32 core cycles: it is eligible to drain (R361). -/
def execMergeEntryIdle (core idx : Nat) (s : State) : Res :=
  .next (s.modCore core (fun c => { c with merge := c.merge.modify idx (fun e => { e with elig := true }) }))

/-- The oldest entry of a merging buffer that satisfies `p`, with the entries around it. -/
def oldestOf (p : MEntry → Bool) (es : List MEntry) : Option (MEntry × List MEntry) :=
  match es.findIdx? p with
  | none => none
  | some i => (es[i]?).map (fun e => (e, es.eraseIdx i))

/-- The oldest eligible entry of core `k` drains (R214, R215, R361), or is found with bad parity and the core is offlined (R364). -/
def State.mergeDrain (s : State) (k : Nat) (parityOk : Bool) : State :=
  match oldestOf (fun e => e.elig) (s.core k).merge with
  | none => s
  | some r => (s.drainSome k [{ r.1 with bad := r.1.bad || !parityOk }] r.2).stopCores

def execMergeEntryDrain (core : Nat) (parityOk : Bool) (s : State) : Res := .next (s.mergeDrain core parityOk)

/-- The oldest eligible entry of context `ctx` receives an error response: the store is not performed, and the context takes cause
19 at its next boundary, with ASYNC set (R280). After a frame write it enters WEDGED instead (R255, R269). -/
def State.storeError (s : State) (n : Nat) : State :=
  match oldestOf (fun e => decide (e.ctx = n) && e.elig) (s.core (coreOf n)).merge with
  | none => s
  | some r =>
    let s1 := s.modCore (coreOf n) (fun c => { c with merge := r.2 })
    let s2 := s1.record 5 1 (cluOf n) (some n) none (some (48 * r.1.line)) 0
    match r.1.frame with
    | some w => if (s2.ctx n).run = .wedged then s2 else s2.wedge n 10 w.1 w.2 false
    | none => s2.modCtx n (fun c => { c with pendAsync := c.pendAsync ++ [(r.1.first, s2.lastSeq)] })

def execAsyncStoreError (ctx : Nat) (s : State) : Res := .next (s.storeError ctx)

/-! ### Alarms and deadlines (R106, R184, R185, R501) -/

/-- The alarm of context `n` fires: alarm-pending sets, its cluster wakes from EMBER (R607), and a blocked TAKE or WAIT ends on it. A
thermal trip keeps the cluster where it is (R665). -/
def State.alarmFires (s : State) (n : Nat) : State :=
  let s1 := s.modCtx n (fun c => { c with alarm := none, alarmPending := true })
  let s2 := s1.cluWake (cluOf n)
  if s2.cluPower (cluOf n) = some .run then s2.alarmEnds n else s2

def execAlarmFire (ctx : Nat) (s : State) : Res :=
  .next (match (s.ctx ctx).alarm with
    | some d => if s.isDue d && !(s.wedgedFor ctx) then s.alarmFires ctx else s
    | none => s)

def execDeadlineDue (ctx : Nat) (s : State) : Res :=
  .next (match (s.ctx ctx).deadline with
    | some d =>
      if s.isDue d && !(s.wedgedFor ctx) && decide (s.cluPower (cluOf ctx) = some .run) then
        s.modCtx ctx (fun c => { c with deadline := none, dl := true })
      else s
    | none => s)

/-! ### The interrupt controller -/

/-- The line of a condition source follows what raises it (R312): a pin, or the registers of TBU and EAU. -/
def State.condLine (s : State) (src : Nat) (b : Bool) : State := if 416 ≤ src ∧ src < 432 then s.setLine src b else s

/-- An edge on the raise line of source `src` (R297): an event, or the pin of a GPIO source going high. A source that no chapter assigns
is never raised (R294), and the lines of TBU and EAU follow their own registers (R312). -/
def State.sourceArrival (s : State) (src : Nat) : State :=
  if !(assigned src) then s
  else if edgeAlways src then s.raise src
  else s.condLine src true

def execSourceArrival (src : Nat) (s : State) : Res := .next (s.sourceArrival src)

/-- The pin of a GPIO source changes (R298, R312); the lines of TBU and EAU follow their own registers. -/
def execLevelLineChange (src : Nat) (asserted : Bool) (s : State) : Res :=
  .next (s.condLine src asserted)

/-- One routing decision; a delivery to a context of a cluster in EMBER wakes the cluster (R303, R607). -/
def State.deliverNext (s : State) : State :=
  match s.icuChoose with
  | none => s
  | some n => match s.icuTarget (s.src n) with
    | none => s
    | some x => s.icuDeliver.cluWake (cluOf x)

/-- The entry that the next decision takes meets an error (R661): corrected, or it takes its reset values and the decision is made
anew. -/
def State.icuEntryError (s : State) : State :=
  match s.tblErr 6, s.icuChoose with
  | .corrected, some _ => (s.tblMet 6).record 13 0 unitIcu none none none 6
  | .lost, some n => ((s.tblMet 6).setSrc n { latch := (s.src n).latch }).record 13 1 unitIcu none none none 6
  | _, _ => s

def execInterruptDelivery (s : State) : Res :=
  .next (if s.icu.gated || !s.glb.rIcu then s else s.icuEntryError.deliverNext)

/-- Steps 1 and 2 of R308, after an entry that did not wedge the context. -/
def State.countAccept (s : State) (n : Nat) (d : Delivery) : State :=
  let e := s.src d.src
  let edge := !(e.isLevel d.src)
  let s1 := if edge then s.setSrc d.src { e with count := e.count - 1 } else s
  s1.modCtx n (fun c => { c with held := none, stack := (d.src, d.pri) :: c.stack })

/-- The entry of R308 with the frame of `e`; when the push fails the delivery returns and the stack is not pushed (R309). -/
def State.acceptWith (s : State) (n : Nat) (d : Delivery) (e : Exc) : State :=
  if s.stopping n then s
  else
    let s1 := s.enter n { e with intr := some d }
    if (s1.ctx n).run = .wedged then s1 else s1.countAccept n d

/-- Acceptance at an ordinary boundary, at a blocked TAKE, behind a blocked WAIT, which retires, or at the micro-trap point where a
customer routine rests (R185, R277, R500). -/
def State.acceptHere (s : State) (n : Nat) (d : Delivery) : State :=
  let c := s.ctx n
  match c.routine with
  | some r =>
    s.acceptWith n d { s.exc n 0 with mt := true, ops := [custReg r.op 0, custReg r.op 1, custReg r.op 2], micro := r.point.getD {} }
  | none =>
    match c.run with
    | .wait len =>
      let s1 := (s.modCtx n (fun c => { c with run := .run })).retireTo n (c.pcc.cursor + word len)
      s1.acceptWith n d (s1.exc n 0)
    | .take _ _ _ => (s.leaveWaiting n).acceptWith n d (s.exc n 0)
    | _ => s.acceptWith n d (s.exc n 0)

/-- Acceptance with block or pattern operation `op` alone in flight, after `m` of its positions: at a micro-trap point when it has
more (R148, R277), else behind it. -/
def State.acceptBlk (s : State) (n : Nat) (d : Delivery) (op : LongOp) (k : BlkKind) (o : BlkOp) (m : Nat) : State :=
  let pc := (s.ctx n).pcc.cursor
  let left := fun (s : State) => ((s.ctx n).gget o.c).toNat / blkUnit k
  let total := left s
  if total ≤ m then
    match s.settleAll n pc with
    | (some e, s1) => s1.enter n e
    | (none, s1) => s1.acceptHere n d
  else
    let s0 := s.modCtx n (fun c => { c with longOps := [] })
    match s0.blkGo n op.addr k o m with
    | (some e, s1) => s1.enter n { e with resume := pc }
    | (none, s1) =>
      if total < left s1 + m then (s1.modCtx n Ctx.count).acceptHere n d
      else
        let v := s1.vendorMicro n k
        v.2.acceptWith n d { cause := 0, fault := op.addr, resume := pc, imp := true, mt := true, ops := op.kind.fields, micro := v.1 }

/-- The long operations in flight complete, or report their exception in place of the interrupt (R228, R279); the last may stop at
a micro-trap point after `m` positions. -/
def State.acceptLong (s : State) (n : Nat) (d : Delivery) (m : Nat) : State :=
  let pc := (s.ctx n).pcc.cursor
  let last := fun (s : State) => match (s.ctx n).longOps with
    | [] => s.acceptHere n d
    | op :: _ => match op.kind with
      | .blk k o => s.acceptBlk n d op k o m
      | _ => match s.settleAll n pc with
        | (some e, s1) => s1.enter n e
        | (none, s1) => s1.acceptHere n d
  if 2 ≤ (s.ctx n).longOps.length then
    match s.finishHead n pc with
    | (some e, s1) => s1.enter n e
    | (none, s1) => last s1
  else last s

/-- Whether context `n` stands at a boundary or at a micro-trap point: it may issue, it waits neither to run an instruction alone or to
continue one after an ERET (R281 step 7) nor for the stop of R398. -/
def State.atTrapPoint (s : State) (n : Nat) : Bool :=
  let c := s.ctx n
  s.mayIssue n && decide (c.run ≠ .off) && decide (c.run ≠ .wedged)
    && (match c.routine with
      | some r => !r.limit
      | none => match c.pendRet with | some p => !p.imp && !p.mt | none => true)

/-- The delivery held for context `n` is looked at (R307, R308): an exception at the boundary is entered first, and a delivery whose
priority is no longer greater returns. -/
def State.accept (s : State) (n m : Nat) : State :=
  match (s.ctx n).held with
  | none => s
  | some d =>
    if !(s.atTrapPoint n) then s
    else if (s.ctx n).routine.isNone && s.boundaryDue n then
      match s.boundary n with
      | some e => (s.leaveWaiting n).takeExc n e
      | none => s
    else if d.pri ≤ (s.ctx n).runPri then s.returnHeld n
    else s.acceptLong n d m

def execInterruptAccept (ctx progress : Nat) (s : State) : Res := .next (s.accept ctx progress).stopCores

def execIcuClockStop (s : State) : Res := .next s.icuStop

/-- The first edge on the line of source `src` has set its latch, here or before, and restarts a stopped clock (R315). -/
def execIcuClockRestart (src : Nat) (s : State) : Res :=
  .next (if !s.icu.gated then s
    else
      let s1 := s.sourceArrival src
      if (s1.src src).latch then s1.icuRestart else s1)

def execIcuLeaseExpiry (s : State) : Res :=
  .next (match s.icu.lease with
    | some l => if s.leaseOver l.until_ then s.icuBreak else s
    | none => s)

end Sys2Proof.Machine
end

