-- ==== Sys2Proof/Machine/Power.lean ====
section
/-!
DEFINITION. Power (chapter 19): the POWER carriage (R602 to R605), EMBER and OFF (R606 to R608), entry to PEAT and ASH (R609) and
the wake event (R611, R613), the thermal hold (R665), crossings (R620, R622) and scratch banks (R383).
-/

namespace Sys2Proof.Machine

open Sys2Proof

/-! ### Clusters (R606 to R608) -/

/-- A context stops for EMBER as for an interrupt, without a frame (R606 steps 1 to 3): its TAKE leaves the waiting order, its long
operations complete, and an exception that this raises is entered. -/
def State.emberCtx (s : State) (n : Nat) : State :=
  let s1 := s.leaveWaiting n
  let c := s1.ctx n
  if c.run = .off ∨ c.run = .wedged then s1
  else match c.routine with
    | some r => if r.limit then s1.takeExc n (s1.custExc n r { cause := 1, data := 0 }) else s1
    | none => match s1.settleAll n c.pcc.cursor with
      | (some e, s2) => s2.enter n e
      | (none, s2) => s2

/-- The steps of R606 up to the stop of the clocks. -/
def State.emberSteps (s : State) (k : Nat) : State := ((s.each (ctxsOf k) State.emberCtx).each (coresOf k) State.drainCore).stopCores

/-- Cluster `k` in RUN enters EMBER, unless an error offlines it on the way (R662). -/
def State.cluEmber (s : State) (k : Nat) : State :=
  let s1 := s.emberSteps k
  if s1.cluPower k = some .run then s1.setClu k .ember else s1

/-- Cluster `k` enters OFF from RUN or EMBER, which ends its thermal hold (R608, R665). -/
def State.cluToOff (s : State) (k : Nat) : State :=
  let s1 := (if s.cluPower k = some .run then s.emberSteps k else s).cluOff k
  { s1 with pmu := { s1.pmu with hold := tset none s1.pmu.hold k none } }

/-- Cluster `k` is powered, loaded and released as at kindling (R406, R602, R649). -/
def State.cluUp (s : State) (k : Nat) : State :=
  let s1 := s.each (coresOf k) State.loadCore
  let s2 := ({ s1 with glb := { s1.glb with rClu := putBit s1.glb.rClu k true } }).setClu k .run
  s2.each (coresOf k) State.armCore

/-! ### Loss of the domains that are not always on (R600, R609, R663) -/

/-- What the Grevex-T monitor keeps for the TBU: time and state (R97). -/
def Tbu.monitor (t : Tbu) : Tbu :=
  { t with throttle := false, quiet := none, event := 0, irqen := 0, lateCmd := 0, cmdDrop := 0, badFrame := 0, crc := 0, calId := 0, calOff := 0, calPend := none, seqs := [], cmds := [], latch := [] }

/-- Everything outside the always-on domain takes its reset value, but for the given memory, EAU and channels. -/
def State.lost (s : State) (mem : Mem) (eau : Eau) (chans : Tbl Chan) : State :=
  { s with
    glb := { locked := s.glb.locked, rTbu := s.glb.rTbu }
    tbu := s.tbu.monitor
    ctxs := []
    cores := tmap {} (fun _ c => c.cold) s.cores
    preds := []
    mem := mem
    icu := { lines := tset false (tset false s.icu.lines 32 false) 64 false }
    rng := {}
    eau := eau
    ddu := {}
    dol := {}
    fns := []
    ports := tmap {} (fun _ x => { perst := x.perst }) s.ports
    dmc := { chans := chans }
    pmu := { s.pmu with clus := [], hold := [], tripHold := false, job := none }
    bsu := { s.bsu with job := none, brkKind := 0, brkIndex := 0, brk := none }
    ras := { fatalSeq := s.ras.fatalSeq, fatals := s.ras.fatals, last := s.ras.last, coreOff := s.ras.coreOff, cluOff := s.ras.cluOff } }

/-! ### Waking (R611 to R613) -/

/-- PMU_WAKEEN enables the source, and a GPIO event has the direction that PMU_WAKECFG names (R611, R624). -/
def State.wakes (s : State) (w : WakeSrc) : Bool :=
  let p := s.pmu
  match w with
  | .perst => p.wakePerst
  | .gpio n high => decide (n < 16) && p.wakeGpio.testBit n && (high != p.wakePol.testBit n)
  | .stamp => p.wakeStampEn && (match p.wakeDue with | some d => s.isDue d | none => false)
  | .brownOut => p.brown

/-- The wake event: its cause, the regulator, HP0_WAKE_N (R612, R613); on wake from ASH the lock, the dead marks, the offline bits and
the LK fields go (R46, R264, R662). The device then waits for PWR_OK. -/
def State.wake (s : State) (w : WakeSrc) : State :=
  let s1 := s.elapse
  let ash := decide (s1.pmu.dev = .ash)
  let p := { s1.pmu with
    dev := .reset
    regLp := false
    causeFrom := if ash then 3 else 2
    causeGpio := match w with | .gpio n _ => 2 ^ n | _ => 0
    causeBrown := s1.pmu.brown
    causeStamp := decide (w = .stamp)
    causePerst := decide (w = .perst)
    wakeN := decide (w ≠ .perst)
    wakeHeld := none
    wakeDue := none
    brown := false }
  let s2 := { s1 with pmu := p }
  if ash then
    { s2 with
      lk := {}
      glb := { s2.glb with locked := false }
      bsu := { s2.bsu with dead := [], roottab := 0 }
      ras := { s2.ras with coreOff := [], cluOff := [] } }
  else s2

/-- The pin of a wake event takes its level: a GPIO (R312, R322, R611), or HP0_PERST_N, which rises (R44, R611). -/
def State.pinTo (s : State) (w : WakeSrc) : State :=
  match w with
  | .gpio n high => if n < 16 then s.setLine (416 + n) high else s
  | .perst => s.modPort 0 (fun x => { x with perst := false })
  | _ => s

/-- A wake event: one captured during an entry is held until the entry is complete (R611, R625). -/
def State.wakeNow (s : State) (w : WakeSrc) : State :=
  match s.pmu.dev with
  | .peat | .ash => if s.wakes w then s.wake w else s
  | .run =>
    match s.pmu.job with
    | some j => if 2 ≤ j.state ∧ s.wakes w = true ∧ s.pmu.wakeHeld = none then { s with pmu := { s.pmu with wakeHeld := some w } } else s
    | none => s
  | _ => s

def execWakeEvent (src : WakeSrc) (s : State) : Res := .next ((s.pinTo src).wakeNow src)

/-- The retained banks are disconnected; the device wakes with BROWNOUT (R611, R616). -/
def execBrownOut (s : State) : Res :=
  .next (if s.pmu.dev = .peat then ({ s with pmu := { s.pmu with brown := true } }).wake .brownOut else s)

def execHp0WakeNTimeout (s : State) : Res := .next { s with pmu := { s.pmu with wakeN := false } }

/-- What the isolation cells hold on the outputs of powered-off domains (R617): electrical idle of the Grevex-D lanes, BOOT_CODE and
BOOT_HALT_N, PWR_STATE, HP0_WAKE_N and HP0_CLKREQ_N, THERM_ALERT_N, RESET_N and CK of the DRAM. An output that is active low is true
when it is high. -/
structure Clamps where
  lanesIdle  : Bool
  bootCode   : Nat
  haltN      : Bool
  pwrState   : Nat
  wakeN      : Bool
  clkreqN    : Bool
  alertN     : Bool
  dramResetN : Bool
  dramCk     : Bool
deriving DecidableEq, Repr

/-- The clamped outputs of a device in PEAT or ASH; none in another state. -/
def State.clamps (s : State) : Option Clamps :=
  match s.pmu.dev with
  | .peat => some ⟨true, s.bsu.bootCode, s.bsu.haltN, s.pwrState, !s.pmu.wakeN, true, !s.pmu.alert, true, false⟩
  | .ash => some ⟨true, s.bsu.bootCode, s.bsu.haltN, s.pwrState, !s.pmu.wakeN, true, !s.pmu.alert, false, false⟩
  | _ => none

/-! ### PEAT and ASH (R609) -/

/-- The staged carriages of bank `b` are carried out (R609 step 2). -/
def State.finishBank (s : State) (b : Nat) : State :=
  (List.range 32).foldl (fun (s : State) _ => (s.bankServe b 0x01 (fun s c => s.cart b c)).bankServe b 0x03 State.task) s

/-- The critical carriages that the EAU has taken are carried out (R609 step 2). -/
def State.finishEau (s : State) : State :=
  s.rng.eauQ.foldl (fun (s : State) _ =>
    ((s.eauTake 0x10 State.profileSet).eauTake 0x12 State.poolSet).eauTake 0x11 (fun s c => some (s.quotaSet c))) s

/-- Step 6: every ICU, ring, profile and pool lease is broken. -/
def State.breakAll (s : State) : State :=
  let s1 := s.icuBreak.each (tkeys s.rng.fns) State.ringBreak
  let s2 := s1.each (tkeys s1.eau.profs) State.profBreak
  s2.each (tkeys s2.eau.pools) State.poolBreak

/-- Whether system-cache bank `b` keeps its contents through the entry. -/
def State.keepsBank (s : State) (peat : Bool) (b : Nat) : Bool := peat && s.pmu.retainS.testBit b

/-- Step 5 for the memory: scratch banks that are not retained are disabled (R385), and every dirty line is written to DRAM. -/
def State.memDown (s : State) (peat : Bool) : State :=
  let a : Asker := ⟨s.mem.scAgentService, unitBsu⟩
  let s1 := s.each (tkeys s.mem.scBank) (fun s b => s.onMem (fun m =>
    let m1 := m.bankDone a b
    if s.keepsBank peat b || !(tget {} m1.scBank b).en then m1
    else ({ m1 with scBank := tmod {} m1.scBank b (fun k => { k with en := false, busy := true }) }).bankDone a b))
  s1.onMem (fun m => (tkeys m.stale).foldl (fun (m : Mem) l => m.cleanLine a l) m)

/-- What PEAT keeps of the memory: the DRAM contents in self-refresh, and the retained scratch banks, with the errors in them. -/
def Mem.asleep (m : Mem) : Mem :=
  { mem := m.mem, poison := m.poison, pop := m.pop, nchan := m.nchan, gone := m.gone, scBank := m.scBank.filter (fun e => e.2.live)
    upsets := m.upsets.filter (fun e => Upset.isDram e.2 || (Upset.isSys e.2 && m.inScratch e.1)) }

/-- What PEAT keeps of a channel: its place in the slot map, its self-refresh and where scrubbing stopped (R573, R609 step 8). -/
def Chan.asleep (x : Chan) : Chan :=
  { active := x.active, nch := x.nch, lecc := x.lecc, ranks := x.ranks, density := x.density, scrubPos := x.scrubPos, seed := x.seed
    st := if x.st = .running then .selfref else x.st }

/-- A GPIO level source whose pin is active when the latches are armed (R614). -/
def State.gpioLevel (s : State) : Option WakeSrc :=
  ((List.range 16).find? (fun n => s.pmu.wakeLevel.testBit n && s.wakes (.gpio n (s.src (416 + n)).line))).map (fun n => .gpio n (s.src (416 + n)).line)

/-- Steps 8 to 11: DRAM into self-refresh or off, the ready bits clear but TBU's, the wake sources are armed, the domains go. -/
def State.sleepEnd (s : State) (peat : Bool) : State :=
  let s0 := s.elapse
  let held := match s0.pmu.wakeHeld with | some w => some w | none => s0.gpioLevel
  let due := if s0.pmu.wakeStampEn && s0.stampOk s0.pmu.wakeStamp then some (s0.due (s0.resolve s0.pmu.wakeStamp)) else none
  let s1 := s0.each (s0.activeChans.filter (fun c => decide ((s0.chan c).st = .running))) State.chanRefresh
  let s2 := if peat then s1.lost s1.mem.asleep s1.eau (tmap {} (fun _ x => x.asleep) s1.dmc.chans) else s1.lost {} {} []
  let s3 := { s2 with pmu := { s2.pmu with dev := if peat then .peat else .ash, regLp := true, wakeDue := due, wakeHeld := none } }
  match held with
  | some w => s3.wake w
  | none => s3

/-- The entry is complete once no port waits for its host's handshake. -/
def State.sleepTry (s : State) : State :=
  match s.pmu.job with
  | some j => if 2 ≤ j.state ∧ j.waiting = false ∧ j.l2 = [] then s.sleepEnd (decide (j.state = 2)) else s
  | none => s

/-- The ports whose links are up, the lower of a merged pair. -/
def State.upPorts (s : State) : List Nat := [0, 1, 2, 3].filter (fun p => (s.port p).linkUp && decide ((s.linkPorts p).head? = some p))

/-- Steps 2 to 7: the record is written, and the ports wait for their hosts. -/
def State.sleepStart (s : State) (j : PowerJob) : State :=
  let peat := decide (j.state = 2)
  let s1 := { s with rng := { s.rng with intake := false } }
  let s2 := (s1.each (List.range (Config.banks s1.hw.variant)) State.finishBank).finishEau
  let s3 := s2.each ((List.range (Config.clusters s2.hw.variant)).filter (fun k => decide (s2.cluPower k = some .run) || decide (s2.cluPower k = some .ember))) State.cluToOff
  let s4 := (s3.breakAll).eauSleep peat s3.pmu.retainA
  let s5 := ({ s4 with ddu := {}, dol := {}, glb := { s4.glb with rLanes := 0 } }).memDown peat
  let s6 := s5.complete j.c 0 []
  ({ s6 with pmu := { s6.pmu with job := some { j with waiting := false, l2 := s6.upPorts } } }).sleepTry

/-- Port `p` needs no longer be waited for. -/
def State.portSettled (s : State) (p : Nat) : State :=
  match s.pmu.job with
  | some j => ({ s with pmu := { s.pmu with job := some { j with l2 := j.l2.filter (fun q => !((s.linkPorts p).contains q)) } } }).sleepTry
  | none => s

/-- The host's PME_Turn_Off handshake: the link enters L2 (R542, R609). -/
def execPmeTurnOffHandshake (port : Nat) (s : State) : Res :=
  .next (if (s.port port).linkUp then
      (s.each (s.linkPorts port) (fun s q => s.modPort q (fun x => { x with lpower := .l2 }))).portSettled port
    else s)

/-- No handshake came: the port drops its link (R609 step 7). -/
def execPmeTurnOffTimeout (port : Nat) (s : State) : Res :=
  .next (match s.pmu.job with
    | some j => if j.l2.any (fun q => (s.linkPorts port).contains q) then (s.linkGone port).portSettled port else s
    | none => s)

/-! ### The POWER carriage (R602 to R605, R665) -/

/-- The clusters of a mask. -/
def State.maskClus (s : State) (mask : Nat) : List Nat := (List.range (Config.clusters s.hw.variant)).filter (fun k => mask.testBit k)

/-- The banks that PMU_RETAIN selects (R604); bits of absent banks have no effect (R479). -/
def State.retained (s : State) : Nat :=
  ((List.range (Config.banks s.hw.variant)).filter (fun b => s.pmu.retainA.testBit b)).length + ((List.range 32).filter (fun b => s.pmu.retainS.testBit b)).length

/-- A POWER with STATE 0 cannot be carried out: a named cluster is held (R665) or offlined, so that it never becomes ready (R43). -/
def State.runBarred (s : State) (mask : Nat) : Bool :=
  (s.maskClus mask).any (fun k => (tget none s.pmu.hold k).isSome || tget false s.ras.cluOff k)

/-- One cluster that a POWER with STATE 0 names. -/
def State.runOne (s : State) (k : Nat) : State :=
  match s.cluPower k with
  | some .ember => s.cluRun k
  | some .off => s.cluUp k
  | _ => s

/-- One cluster that a POWER with STATE 1 names (R602, R665). -/
def State.emberOne (s : State) (k : Nat) : State :=
  let off := s.pmu.cloff.testBit k
  match s.cluPower k with
  | some .run => if off then s.cluToOff k else s.cluEmber k
  | some .ember =>
    if off then s.cluToOff k
    else if (tget none s.pmu.hold k).isSome then { s with pmu := { s.pmu with hold := tset none s.pmu.hold k (some .ember) } }
    else s
  | _ => s

/-- The bound of the entry in nanoseconds (R603). -/
def State.entryBound (s : State) (j : PowerJob) : Nat :=
  match j.state with
  | 0 => 0
  | 1 => if (s.maskClus j.mask).any (fun k => s.pmu.cloff.testBit k) then 1000000 else 4000
  | _ => 5000000

/-- The state change may start: inside an allowing quiet window when QUIET is 1, and for PEAT and ASH with no DRAM lease held (R570,
R603, R609 step 1). -/
def State.mayStart (s : State) (j : PowerJob) : Bool :=
  (decide (j.c.body 17 1 ≠ 1) || s.quietAllows (s.entryBound j)) && (decide (j.state < 2) || s.dmc.lease.isNone)

/-- The state change itself. -/
def State.powerStart (s : State) (j : PowerJob) : State :=
  let s1 := { s with pmu := { s.pmu with job := none } }
  match j.state with
  | 0 => (if s1.runBarred j.mask then s1.complete j.c 1 [] else (s1.each (s1.maskClus j.mask) State.runOne).complete j.c 0 []).breakDue
  | 1 => ((s1.each (s1.maskClus j.mask) State.emberOne).complete j.c 0 []).breakDue
  | _ => s1.sleepStart j

/-- Carry out POWER. -/
def State.powerCarriage (s : State) (c : Carriage) : State :=
  let j : PowerJob := { c := c, state := c.body 16 1, mask := c.body 18 2, waiting := true, l2 := [] }
  if j.state < 2 ∧ j.mask = 0 then s.complete c 0 []
  else if j.state = 2 ∧ 20 < s.retained then s.complete c 2 []
  else if c.body 17 1 = 1 ∧ s.glb.rTbu = false then s.complete c 1 []
  else if j.state = 0 ∧ s.runBarred j.mask = true then s.complete c 1 []
  else if s.mayStart j then s.powerStart j
  else { s with pmu := { s.pmu with job := some j } }

def execPower (s : State) : Res := .next (s.svcRow (fun c => decide (c.op = 0x20)) State.powerCarriage)

def execPowerEntryStart (s : State) : Res :=
  .next (match s.pmu.job with
    | some j => if j.waiting && s.mayStart j then s.powerStart j else s
    | none => s)

/-- QWAIT ms have passed without an allowing window: TIMEOUT, and nothing changes (R603). -/
def execPowerQuietTimeout (s : State) : Res :=
  .next (match s.pmu.job with
    | some j =>
      if j.waiting && decide (j.c.body 17 1 = 1) then (({ s with pmu := { s.pmu with job := none, wakeHeld := none } }).complete j.c 10 []).breakDue
      else s
    | none => s)

/-! ### The thermal hold (R665) -/

/-- A sensor reaches TALERT: THERM_ALERT_N is driven low, with a record at each assertion. -/
def execThermalAlert (tj : Nat) (s : State) : Res :=
  .next (if s.pmu.alert || decide (tj < s.lk.talert) || decide (s.pmu.dev ≠ .run) then s
    else ({ s with pmu := { s.pmu with alert := true } }).record 10 0 unitPmu none none none (tj % 256))

/-- A trip at 115 °C holds every present cluster in RUN or EMBER. -/
def State.trip (s : State) (tj : Nat) : State :=
  let ks := (List.range (Config.clusters s.hw.variant)).filter (fun k => decide (s.cluPower k = some .run) || decide (s.cluPower k = some .ember))
  let s1 := s.each ks (fun s k =>
    let was := s.cluPower k
    let s2 := if was = some .run then s.cluEmber k else s
    if s2.cluPower k = some .ember then { s2 with pmu := { s2.pmu with hold := tset none s2.pmu.hold k was } } else s2)
  ({ s1 with pmu := { s1.pmu with tripHold := true } }).record 10 2 unitPmu none none none (tj % 256)

def execThermalTrip (tj : Nat) (s : State) : Res :=
  .next (if decide (tj < 115) || s.pmu.tripHold || decide (s.pmu.dev ≠ .run) then s else s.trip tj)

/-- Every sensor reads below TALERT: the held clusters return to the states they are to have. -/
def State.holdEnd (s : State) : State :=
  let held := s.pmu.hold
  let s1 := { s with pmu := { s.pmu with hold := [], tripHold := false, alert := false } }
  s1.each ((held.filter (fun e => decide (e.2 = some .run))).map (·.1)) State.cluRun

def execThermalHoldEnd (s : State) : Res := .next s.holdEnd

/-! ### Crossings and scratch banks -/

/-- An access has waited LIMIT reference cycles in crossing group `g` (R622). -/
def State.fabTimeout (s : State) (g : Nat) : State :=
  let s1 := { s with glb := { s.glb with
    cdcTimeouts := tset 0 s.glb.cdcTimeouts g (satInc 511 (tget 0 s.glb.cdcTimeouts g))
    cdcWedged := tset false s.glb.cdcWedged g true } }
  let s2 := s1.record 5 1 g none none none 1
  if tget false s.glb.cdcWedged g then s2 else s2.record 9 1 g none none none g

def execFabricTimeout (group : Nat) (s : State) : Res := .next (if group < 45 ∧ s.pmu.dev = .run then s.fabTimeout group else s)

/-- A reset on one side of crossing group `g`: the other side flushes (R620). -/
def execCrossingFlush (group : Nat) (s : State) : Res :=
  .next (if group < 45 ∧ s.pmu.dev = .run then
      { s with glb := { s.glb with cdcResets := tset 0 s.glb.cdcResets group (satInc 511 (tget 0 s.glb.cdcResets group)) } }
    else s)

/-- A change of EN of scratch bank `bank` is complete (R383). -/
def execScbankChangeDone (bank : Nat) (s : State) : Res := .next (s.onMem (fun m => m.bankDone ⟨m.scAgentService, unitBsu⟩ bank))

end Sys2Proof.Machine
end

