-- ==== Sys2Proof/Machine/Kindling.lean ====
section
/-!
DEFINITION. Start-up and secure boot (chapter 20): power-on reset (R626, R679), cold kindling (R630 to R644), the warm start (R612,
R651), recovery (R645, R646), and device-fatal errors and the watchdog (R663, R664).
-/

namespace Sys2Proof.Machine

open Sys2Proof

/-! ### Boot images (R633 to R637) -/

/-- An entry of the section table (R634). -/
structure Section_ where
  kind : Nat
  mode : Nat
  off  : Nat
  len  : Nat
  line : Nat
deriving DecidableEq, Repr

/-- A boot image whose layout is valid (R633). -/
structure Boot where
  octets  : List Octet
  vkey    : Nat
  okey    : Nat
  version : Nat
  minset  : Nat
  revoke  : Nat
  secs    : List Section_
deriving DecidableEq, Repr

/-- Entry `i` of the section table of an image. -/
def sectionAt (d : List Octet) (i : Nat) : Section_ :=
  let o := 96 + 16 * i
  ⟨hNat d o 1, hNat d (o + 1) 1, hNat d (o + 4) 4, hNat d (o + 8) 4, hNat d (o + 12) 4⟩

/-- One entry is in order by itself, in an image of `n` octets (R634). -/
def sectionOk (d : List Octet) (n i : Nat) : Bool :=
  let x := sectionAt d i
  let inBody := decide (224 ≤ x.off) && decide (x.off + x.len ≤ n - 384)
  decide (hNat d (98 + 16 * i) 2 = 0) && (match x.kind with
    | 0 => decide (hNat d (96 + 16 * i) 16 = 0)
    | 1 => inBody && decide (1 ≤ x.len ∧ x.len ≤ 1048576) && decide (x.mode = 0) && decide (x.line = 0)
    | 2 => inBody && decide (x.mode ≤ 1)
    | 3 => inBody && decide (x.len = 2176) && decide (x.off % 8 = 0) && decide (x.mode = 0) && decide (x.line = 0)
    | _ => false)

/-- Two ranges do not overlap. -/
def apart (a n b m : Nat) : Bool := decide (a + n ≤ b) || decide (b + m ≤ a)

/-- No element of a list conflicts with a later one. -/
def pairwise {α : Type} (f : α → α → Bool) : List α → Bool
  | [] => true
  | a :: t => t.all (f a) && pairwise f t

/-- An owner signature is required (R636). -/
def State.ownerNeeded (s : State) : Bool := s.bsu.fuses.owner.any (·.isSome)

/-- The checks of rank 1 on a slot (R633, R634, R637), and what the image says. -/
def parseBoot (owner : Bool) (d : List Octet) : Option Boot :=
  let n := hNat d 12 4
  let vkey := hNat d 6 1
  let okey := hNat d 7 1
  let revoke := hNat d 20 1
  let used := ((List.range 8).map (sectionAt d)).filter (fun x => decide (x.kind ≠ 0))
  let count := fun k => (used.filter (fun x => decide (x.kind = k))).length
  let ok := decide (224 ≤ d.length) && decide (hNat d 0 4 = 0x31444E4B) && decide (hNat d 4 2 = 1)
    && decide (vkey ≤ 3) && (decide (okey ≤ 3) || decide (okey = 255)) && decide (1 ≤ hNat d 8 4)
    && decide (609 ≤ n ∧ n ≤ 67108864) && decide (n ≤ d.length) && decide (hNat d 21 27 = 0)
    && (List.range 8).all (sectionOk d n) && decide (count 1 = 1) && decide (count 3 ≤ 1)
    && pairwise (fun (a b : Section_) => apart a.off a.len b.off b.len) used
    && !(revoke.testBit vkey) && !(owner && decide (okey ≤ 3) && revoke.testBit (4 + okey))
  if ok then some ⟨d.take n, vkey, okey, hNat d 8 4, hNat d 16 4, revoke, used⟩ else none

/-- The octets of a section. -/
def Boot.data (b : Boot) (x : Section_) : List Octet := (b.octets.drop x.off).take x.len

/-- The first section of a kind. -/
def Boot.section_ (b : Boot) (kind : Nat) : Option Section_ := b.secs.find? (fun x => decide (x.kind = kind))

/-- The rank of the first check that a slot fails, 7 when it passes all (R637), and its image. -/
def State.verdict (s : State) (d : List Octet) : Nat × Option Boot :=
  let own := s.ownerNeeded
  match parseBoot own d with
  | none => (1, none)
  | some b =>
    let n := b.octets.length
    let block := b.octets.drop (n - 384)
    let head := b.octets.take 96
    let f := s.bsu.fuses
    let rank :=
      if decide (sha384 ((b.octets.drop 96).take (n - 480)) ≠ (b.octets.drop 48).take 48) then 2
      else if !(hashesTo (block.take 96) (f.vendor.getD b.vkey none))
        || (own && !(decide (b.okey ≤ 3) && hashesTo ((block.drop 192).take 96) (f.owner.getD b.okey none))) then 3
      else if !(ecdsaOk (block.take 96) ((block.drop 96).take 96) head)
        || (own && !(ecdsaOk ((block.drop 192).take 96) ((block.drop 288).take 96) head)) then 4
      else if f.revoked.testBit b.vkey || (own && f.revoked.testBit (4 + b.okey)) then 5
      else if b.version < s.bsu.flash.minver then 6
      else 7
    (rank, some b)

/-! ### Kindling, step by step (R630) -/

/-- A halt: the code is placed on BOOT_CODE and BOOT_HALT_N goes low (R629). -/
def State.halt (s : State) (code : Nat) : State :=
  { s with bsu := { s.bsu with bootCode := code, haltN := false }, pmu := { s.pmu with dev := .halted } }

/-- The outcome of a part of the sequence: it goes on, or it has halted. -/
abbrev Kin := Except State State

/-- Go on, or halt with a code. -/
def Kin.check (s : State) (ok : Bool) (code : Nat) : Kin := if ok then .ok s else .error (s.halt code)

/-- The fuse and version registers show what fuses and flash hold (R654). -/
def State.showFuses (s : State) : State :=
  let f := s.bsu.fuses
  let show4 := fun (l : List (Option (List Octet))) => packBits 4 (fun k => (l.getD k none).isSome)
  { s with bsu := { s.bsu with minverReg := s.bsu.flash.minver, fuseReg := f.revoked % 256 * 256 + show4 f.owner * 16 + show4 f.vendor } }

/-- Steps 1 to 3. -/
def State.romSteps (s : State) (k : Kindle) : Kin := do
  let s ← match k.selfTest with
    | .pass => Kin.check s true 0
    | .rom => Kin.check s false 0xF1
    | .ram => Kin.check s false 0xF2
    | .keyEngine => Kin.check s false 0xF3
  let s ← Kin.check s k.fusesOk 0x21
  let f := s.bsu.fuses
  let s ← Kin.check s ([0, 1, 2, 3].any (fun i => (f.vendor.getD i none).isSome && !(f.revoked.testBit i))) 0x22
  let s ← Kin.check s k.flashOk 0x31
  let s ← Kin.check s (!(k.badAreas.contains 0)) 0x32
  let s ← Kin.check s (!(k.badAreas.contains 1)) 0x33
  let s ← Kin.check s (!(k.badAreas.contains 2)) 0x34
  .ok s.showFuses

/-- The slot that boots, with the halt code when none does (R638). -/
def chooseSlot (a b : Nat × Option Boot) : Except Nat (Bool × Boot) :=
  let best := max a.1 b.1
  let code := if best = 5 then 0x2C else if best = 6 then 0x12 else 0x11
  match a, b with
  | (7, some x), (7, some y) => .ok (if x.version < y.version then (true, y) else (false, x))
  | (7, some x), _ => .ok (false, x)
  | _, (7, some y) => .ok (true, y)
  | _, _ => .error code

/-- Steps 4 and 5: the verdicts, the slot, the firmware, GLB_BOOTINFO (R637, R638, R653). -/
def State.bootSteps (s : State) (k : Kindle) : Except State (Boot × State) :=
  match k.bootFlash with
  | none => .error (s.halt 0x14)
  | some (da, db) =>
    let a := s.verdict da
    let b := s.verdict db
    match chooseSlot a b with
    | .error code => .error (s.halt code)
    | .ok (slot, x) =>
      let digest := fun (v : Nat × Option Boot) => v.2.map (fun (y : Boot) => (y.octets.drop 48).take 48)
      let ver := fun (v : Nat × Option Boot) => v.2.map (fun (y : Boot) => y.version)
      let tie := decide (a.1 = 7) && decide (b.1 = 7) && decide (ver a = ver b) && decide (digest a ≠ digest b)
      let fw := match x.section_ 1 with | some y => x.data y | none => []
      .ok (x, { s with bsu := { s.bsu with
        slot := slot
        tie := tie
        verda := a.1
        verdb := b.1
        vkey := x.vkey
        okey := if s.ownerNeeded then x.okey % 4 else 0
        ownerSig := s.ownerNeeded
        warm := false
        fwHash := sha384 fw
        imgver := x.version } })

/-- The SEQ of a stored owner configuration; none is below every SEQ (R642). -/
def ownerSeq (o : Option (List Octet)) : Int :=
  match o with
  | some d => hNat d 0 4
  | none => -1

/-- Tenant 0's first key (R641). -/
def State.firstKey (s : State) : State :=
  match s.bsu.flash.owner with
  | none => s
  | some d =>
    let w := (d.drop 32).take 40
    if (tget {} s.bsu.keys 0).key.isSome ∨ w.all (fun o => decide (o = 0)) = true then s
    else match kwUnwrap s.bsu.fuses.kek w with
      | some key => { s with bsu := { s.bsu with keys := tset {} s.bsu.keys 0 { key := some key, last := 0, ceiling := 0 } } }
      | none => s

/-- Step 6: revocation fuses, the minimum version, the owner configuration and the first key (R639, R641, R642). -/
def State.storeStep (s : State) (b : Boot) : State :=
  let fl := s.bsu.flash
  let owner := match b.section_ 3 with
    | some x => if ownerSeq fl.owner < ownerSeq (some (b.data x)) then some (b.data x) else fl.owner
    | none => fl.owner
  let s1 := { s with bsu := { s.bsu with
    fuses := { s.bsu.fuses with revoked := s.bsu.fuses.revoked ||| b.revoke }
    flash := { fl with minver := max fl.minver b.minset, owner := owner } } }
  s1.showFuses.firstKey

/-- Step 7 for one cluster: powered and loaded, or offlined (R406, R662). -/
def State.cluStep (s : State) (k : Nat) (ok : Bool) : State :=
  if ok then
    let s1 := s.each (coresOf k) State.loadCore
    { s1 with
      glb := { s1.glb with rClu := putBit s1.glb.rClu k true }
      pmu := { s1.pmu with clus := tset none s1.pmu.clus k (some .run) } }
  else s.cluOffline k

/-- Step 7: every present cluster that is not offlined. -/
def State.clusStep (s : State) (k : Kindle) : State :=
  let all := List.range (Config.clusters s.hw.variant)
  let s0 := { s with pmu := { s.pmu with clus := (all.filter (fun c => tget false s.ras.cluOff c)).map (fun c => (c, some .off)) } }
  s0.each (all.filter (fun c => s.cluPresent c)) (fun s c => s.cluStep c (k.avsAck && !(k.clusterBad.contains c)))

/-- Timing set A of the owner configuration (R577, R643). -/
def State.ownerSet (s : State) : List Word :=
  match s.bsu.flash.owner with
  | some _ => (List.range 5).map (fun i => word (s.ownerNat (72 + 8 * i) 8))
  | none => ({} : Chan).tsa

/-- A channel as step 8 leaves it: in the slot map of `n` channels, or inactive (R551, R564). -/
def State.trained (s : State) (k : Kindle) (n : Nat) (pass : Bool) (old : Chan) : Chan :=
  let o := s.bsu.flash.owner.isSome
  let b := s.ownerNat 12 1
  if pass then
    { active := true, nch := n, lecc := o && bit b 3, ranks := if o then bits b 2 2 + 1 else k.ranks, density := if o then bits b 1 0 else k.density, st := .running
      rate := if o then bits b 6 4 else 0, tsa := s.ownerSet, seed := k.seed % 2 ^ 32, scrubPos := old.scrubPos }
  else { st := .offline }

/-- Step 8: RATE, training, and the initialisation of R688 when `zero` says that it applies. -/
def State.dramStep (s : State) (k : Kindle) (zero : Bool) : Kin := do
  let o := s.bsu.flash.owner.isSome
  let b := s.ownerNat 12 1
  let s ← Kin.check s (!o || decide (bits b 6 4 ≤ 4)) 0x61
  let all := List.range (Config.channels s.hw.variant)
  let good := all.filter (fun c => !(k.channelBad.contains c))
  let s ← Kin.check s (!good.isEmpty) 0x41
  let s ← Kin.check s (!o || (decide (k.density = bits b 1 0) && decide (k.ranks = bits b 2 2 + 1))) 0x42
  let n := good.length
  let s1 := s.each all (fun s c => s.modChan c (s.trained k n (good.contains c)))
  let one := s1.trained k n true {}
  let m : Mem := if zero then {} else { mem := s1.mem.mem, poison := s1.mem.poison, upsets := s1.mem.upsets }
  .ok { s1 with
    mem := { m with pop := n * one.slots, nchan := n }
    glb := { s1.glb with rDram := packBits 16 (fun c => good.contains c) } }

/-- The lines of the root table (R251). -/
def State.rootLines (s : State) : Nat := (16 * Config.tenants s.hw.variant + 47) / 48

/-- The four words of entry `t` of the root table (R251). -/
def rootEntry (t : Nat) : List MWord :=
  [⟨0, true⟩, ⟨0, true⟩, ⟨word 0o777777777760, true⟩, ⟨word (t * 2 ^ 24 + 0o37 * 2 ^ 12), true⟩]

/-- Memory with the words `ws` from word number `w`; a line that they cover whole is no longer poisoned (R689), and its slot holds no
error. -/
def Mem.putWords (m : Mem) (w : Nat) (ws : List MWord) : Mem :=
  let new := (ws.zipIdx.map (fun e => (w + e.2, e.1))).filter (fun e => decide (e.2 ≠ {}))
  let whole := fun (l : Nat) => decide (w ≤ 12 * l ∧ 12 * l + 12 ≤ w + ws.length)
  { m with
    mem := tsplice w (w + ws.length) new m.mem
    poison := tkeep (fun l => !(whole l)) m.poison
    upsets := m.upsets.filter (fun e => !(whole e.1)) }

/-- The words of a DRAM section (R634). -/
def Boot.dramWords (b : Boot) (x : Section_) : List MWord := (convert x.mode (b.data x)).map (fun v => ⟨v, false⟩)

/-- Step 9: the DRAM sections and the root table, within populated DRAM and apart (R251, R252, R644). -/
def State.placeStep (s : State) (b : Boot) : Kin :=
  let secs := (b.secs.filter (fun x => decide (x.kind = 2))).map (fun x => (x.line, b.dramWords x))
  let lines := fun (e : Nat × List MWord) => (e.2.length + 11) / 12
  let rl := s.rootLines
  let root := s.popLines - rl
  let ranges := (root, rl) :: secs.map (fun e => (e.1, lines e))
  let ok := decide (rl ≤ s.popLines) && ranges.all (fun r => decide (r.1 + r.2 ≤ s.popLines))
    && pairwise (fun (x y : Nat × Nat) => apart x.1 x.2 y.1 y.2) ranges
  if ok then
    let m := secs.foldl (fun (m : Mem) e => m.putWords (12 * e.1) e.2) s.mem
    let m1 := m.putWords (12 * root) ((List.range (Config.tenants s.hw.variant)).flatMap rootEntry)
    .ok { s with mem := m1, bsu := { s.bsu with roottab := root } }
  else .error (s.halt 0x43)

/-- The ports: PHYs, merging, functions at reset (R522, R528, R630). -/
def State.portsUp (s : State) (phyBad : List Nat) : State :=
  let mg := s.ownerNat 4 1
  s.each (List.range (Config.ports s.hw.variant)) (fun s p =>
    (s.modPort p (fun x => { x with phyOk := !(phyBad.contains p), enabled := true, merged := mg.testBit (p / 2) })).setFn (1024 * p) (s.fnReset (1024 * p)))

/-- GLB_DEVID takes the default from secure flash, before any GLB_READY bit sets (R48, R49). -/
def State.loadDevid (s : State) : State := { s with bsu := { s.bsu with devid := s.ownerNat 6 2 % 2 ^ 14 } }

/-- EAU, DDU, ICU and DOL are ready, and the lanes that are enabled transmit (R44, R327). -/
def State.unitsUp (s : State) : State :=
  { s with glb := { s.glb with rEau := true, rDdu := true, rIcu := true, rLanes := if Config.lanes s.hw.variant = 0 then 0 else s.lk.laneEn } }

/-- Step 10. -/
def State.unitStep (s : State) (k : Kindle) : Kin := do
  let merge := s.ownerNat 4 1
  let s ← Kin.check s (!(bit merge 1 && decide (Config.ports s.hw.variant = 2)) && decide (s.ownerNat 6 2 < 2 ^ 14) && decide (s.ownerNat 5 1 ≤ 16)) 0x61
  let s ← Kin.check s (!(k.phyBad.contains 0)) 0x62
  .ok (s.unitsUp.portsUp k.phyBad)

/-- Step 11: the release registers (R643, R647). -/
def State.releaseStep (s : State) : State :=
  match s.bsu.flash.owner with
  | none => { s with lk := { s.lk with release := [] } }
  | some _ =>
    let one := fun (n : Nat) => ({ vec := word (s.ownerNat (128 + 16 * n) 8), cond := s.ownerNat (136 + 16 * n) 1 % 4, arg := word (s.ownerNat (137 + 16 * n) 5) } : Release)
    { s with lk := { s.lk with release := (List.range (8 * Config.clusters s.hw.variant)).foldl (fun (t : Tbl Release) n => tset {} t n (one n)) [] } }

/-- Step 12: intake starts and the release conditions are armed (R629, R648). -/
def State.goStep (s : State) : State :=
  let s1 := { s with
    rng := { s.rng with intake := true }
    bsu := { s.bsu with bootCode := 0, haltN := true }
    pmu := { s.pmu with dev := .run } }
  s1.each (List.range (8 * Config.clusters s1.hw.variant)) State.armCore

/-- A part that has halted, or the state it has reached. -/
def Kin.state : Kin → State
  | .ok s => s
  | .error s => s

/-- Recovery (R645): both verdicts are recorded, and host port 0 alone is enabled. -/
def State.recover (s : State) (k : Kindle) : State :=
  let v := match k.bootFlash with
    | some (a, b) => ((s.verdict a).1, (s.verdict b).1)
    | none => (1, 1)
  let s0 := s.loadDevid
  let s1 := { s0 with
    bsu := { s0.bsu with verda := v.1, verdb := v.2, bootSlots := k.bootFlash, bootCode := 0x8E, haltN := true }
    rng := { s.rng with intake := true }
    pmu := { s.pmu with dev := .run } }
  (s1.modPort 0 (fun x => { x with phyOk := !(k.phyBad.contains 0), enabled := true, recovery := true })).setFn 0 (s1.fnReset 0)

/-- Steps 4 to 12. -/
def State.kindle4 (s : State) (k : Kindle) (zero : Bool) : State :=
  Kin.state (do
    let (b, s) ← s.bootSteps k
    let s := (s.storeStep b).loadDevid
    let s ← Kin.check s (!(k.badAreas.contains 3)) 0x35
    let s := s.clusStep k
    let s ← Kin.check s (decide (s.glb.rClu ≠ 0)) 0x51
    let s ← s.dramStep k zero
    let s ← s.placeStep b
    let s ← s.unitStep k
    .ok s.releaseStep.goStep)

/-- Cold kindling from step 1, with the straps as they were last sampled (R630, R645). -/
def State.kindle1 (s : State) (k : Kindle) : State :=
  if s.bsu.bootMode = 3 then s.halt 0x13
  else match s.romSteps k with
    | .error s1 => s1
    | .ok s1 => if s1.bsu.recovery then s1.recover k else s1.kindle4 k true

/-- The straps are sampled, and every last accepted counter becomes its ceiling (R439, R627). -/
def State.sample (s : State) (k : Kindle) : State :=
  { s with bsu := { s.bsu with
    bootMode := k.bootMode % 4
    recovery := k.recovery
    keys := tmap {} (fun _ (r : KeyRec) => { r with last := r.ceiling }) s.bsu.keys } }

/-! ### The warm start (R612, R651) -/

/-- Channel `c` leaves self-refresh with one retraining pause (R565, R612). -/
def State.chanWake (s : State) (bad : List Nat) (c : Nat) : State :=
  if (s.chan c).st ≠ .selfref then s
  else
    let s1 := s.modChan c (fun x => { x with st := .running, rate := s.ownerNat 12 1 / 16 % 8, tsa := s.ownerSet })
    let s2 := ({ s1 with glb := { s1.glb with rDram := putBit s1.glb.rDram c true } }).pauseTaken c
    if bad.contains c then s2.chanOffline c else s2

/-- The firmware section of the booted slot hashes to the value kept (R651). -/
def State.fwMatches (s : State) (k : Kindle) : Bool :=
  match k.bootFlash with
  | none => false
  | some (a, b) =>
    let d := if s.bsu.slot then b else a
    match ((List.range 8).map (sectionAt d)).find? (fun x => decide (x.kind = 1)) with
    | some x => decide (sha384 ((d.drop x.off).take x.len) = s.bsu.fwHash)
    | none => false

/-- The retained scratch banks are lost: their ranges read the DRAM beneath (R385, R613). -/
def State.banksLost (s : State) : State := { s with mem := (tkeys s.mem.scBank).foldl (fun (m : Mem) b => m.bankLost b) s.mem }

/-- The wake sequence of R612. -/
def State.warmRun (s : State) (k : Kindle) : State :=
  let brown := s.pmu.causeBrown
  let s0 := (if brown then s.banksLost else s).loadDevid
  let s1 := s0.each (List.range 16) (State.chanWake · k.channelBad)
  let s2 := (s1.eauWake (if brown then 0 else s1.pmu.retainA)).unitsUp
  let s3 := ((s2.clusStep k).portsUp k.phyBad)
  let s4 := { s3 with bsu := { s3.bsu with warm := true } }
  (s4.goStep.raise 400).eauCatchUp

/-- Wake from PEAT: the ROM's checks, then the warm start, or cold kindling from step 4 when the hash does not match. -/
def State.warmStart (s : State) (k : Kindle) : State :=
  match s.romSteps k with
  | .error s1 => s1
  | .ok s1 =>
    if s1.fwMatches k then (if k.badAreas.contains 3 then s1.halt 0x35 else s1.warmRun k)
    else
      let s0 := s1.banksLost
      let s2 := { s0 with dmc := {}, eau := {}, mem := { mem := s0.mem.mem, poison := s0.mem.poison, upsets := s0.mem.upsets.filter (fun e => Upset.isDram e.2) } }
      (s2.kindle4 k false).raise 400

def execPwrOkRise (k : Kindle) (s : State) : Res :=
  .next (if s.pmu.dev ≠ .reset then s
    else if s.pmu.causeFrom = 2 then s.warmStart k
    else if s.pmu.causeFrom = 3 then ((s.sample k).kindle1 k).raise 400
    else (s.sample k).kindle1 k)

/-- Power-on reset (R626): what no reset touches is the part, its fuses and flash, the pins, and the model's own fields. -/
def State.powerReset (s : State) : State :=
  { State.reset with
    pending := s.pending
    hw := s.hw
    icu := { lines := tset false (tset false s.icu.lines 32 false) 64 false }
    ports := tmap {} (fun _ x => { perst := x.perst }) s.ports
    bsu := { keys := s.bsu.keys, flash := s.bsu.flash, fuses := s.bsu.fuses }
    free := s.free
    serial := s.serial
    outbox := s.outbox }

/-- PWR_OK falls: while PWR_STATE shows RUN it starts power-on reset, in PEAT and ASH it has no effect (R679). -/
def execPwrOkFall (s : State) : Res :=
  .next (match s.pmu.dev with
    | .peat | .ash => s
    | _ => s.powerReset)

/-! ### Recovery (R646) -/

/-- The recovery carriage with what the read of the image brought. -/
def State.recoverLoad (s0 : State) (image : ImageRead) (readBackOk : Bool) (c : Carriage) : State :=
  let s := s0.readImage c image
  match image with
  | .timeout => s.complete c 10 []
  | .octets d =>
    if d.length ≠ c.body 32 4 ∨ 1048576 < d.length ∨ d.take 96 ≠ c.data then s.complete c 2 []
    else
      let v := s.verdict d
      match v.1, v.2 with
      | 7, some b =>
        let slots := s.bsu.bootSlots.getD ([], [])
        let toB := decide ((s.verdict slots.2).1 < (s.verdict slots.1).1)
        if !readBackOk then s.complete c 10 []
        else
          let slots1 := if toB then (slots.1, d) else (d, slots.2)
          ({ s with bsu := { s.bsu with bootSlots := some slots1, bootCode := 0x8F } }).complete c 0 (octetsLe 2 b.version)
      | r, _ => let st := if r ≤ 2 then 2 else if r ≤ 5 then 3 else 4; s.complete c st (s.endInfo c st)

def execRecoveryImageLoad (image : ImageRead) (readBackOk : Bool) (s : State) : Res :=
  .next (if !s.bsu.recovery || decide (s.pmu.dev ≠ .run) then s
    else match s.rng.svcQ with
      | [] => s
      | c :: rest => ({ s with rng := { s.rng with svcQ := rest } }).recoverLoad image readBackOk c)

/-! ### Device-fatal errors and the watchdog (R663, R664) -/

/-- A fatal kindling. -/
def State.fatal (s : State) (reason : Nat) (k : Kindle) : State :=
  let s1 := s.record 14 3 (if reason = 1 ∨ reason = 2 then unitBsu else unitRas) none none none reason
  let s2 := { s1 with ras := { s1.ras with fatalSeq := s1.lastSeq, fatals := satInc 511 s1.ras.fatals } }
  (s2.elapse.lost {} {} []).kindle1 k

def execDeviceFatalError (reason : Nat) (k : Kindle) (s : State) : Res :=
  .next (if s.pmu.dev = .run ∧ reason < 4 then s.fatal reason k else s)

/-- Core `k` has the halves of before an abandoned load again, with the load generations that they have reached (R394, R402); a routine
that started in the half that the load wrote starts again. -/
def State.unload (s : State) (patch : Bool) (k : Nat) (old : Half × Half) : State :=
  let c := s.core k
  let was := c.activeOf patch
  let p := c.pair patch
  let s1 := s.setCore k { c.setPair patch { old.1 with gen := p.1.gen } { old.2 with gen := p.2.gen } with loadPend := false }
  if patch || was = (s1.core k).activeOf patch then s1
  else s1.each [0, 1, 2, 3] (fun s i => s.modCtx (4 * k + i) (fun x => match x.routine with
    | some r => if r.half = was then { x with routine := none } else x
    | none => x))

/-- The carriage in progress completes with TIMEOUT, and the load it was making is undone (R402, R664). -/
def State.jobLost (s : State) : State :=
  let s1 := match s.bsu.job with
    | some j =>
      let s2 := (j.before.filter (fun (e : Nat × Half × Half) => s.cluReady (e.1 / 8))).foldl (fun (s : State) (e : Nat × Half × Half) => s.unload j.patch e.1 e.2) s
      ({ s2 with bsu := { s2.bsu with job := none } }).complete j.c 10 []
    | none => s
  match s1.pmu.job with
  | some j => if j.waiting then (({ s1 with pmu := { s1.pmu with job := none, wakeHeld := none } }).complete j.c 10 []).breakDue else s1
  | none => s1.breakDue

/-- The watchdog expires (R664): the service core restarts from ROM and reloads its firmware; a second expiry within 1 s is fatal
(R663). -/
def State.watchdog (s : State) (withinSecond : Bool) (k : Kindle) : State :=
  if withinSecond then s.fatal 2 k else (s.jobLost).record 12 1 unitBsu none none none 1

def execWatchdogExpiry (withinSecond : Bool) (k : Kindle) (s : State) : Res :=
  .next (if s.pmu.dev = .run ∧ s.bsu.recovery = false then s.watchdog withinSecond k else s)

end Sys2Proof.Machine
end

