-- ==== Sys2Proof/Machine/LoadStore.lean ====
section
/-!
DEFINITION. Loads and stores (R162 to R165) and atomic accesses (R166, R167).
-/

namespace Sys2Proof.Machine

open Sys2Proof

/-- What a load or store reads and writes. -/
def memDeps (o : MemOp) (dst src : List GReg) (kw : List KReg) : Deps :=
  { rd := o.b :: (src ++ (match o.idx with | .reg r => [r] | .disp _ => [])), wr := dst, kw := kw, mem := true }

/-- A load of `size` bytes into register A, zero-extended (R163); `reg` for LDW. -/
def loadEff (n size : Nat) (reg : Bool) (o : MemOp) (s : State) : Eff :=
  let c := s.ctx n
  match s.load n (c.kget o.auth) [permLoad] (c.ea o.b o.idx) size 1 reg with
  | (.error f, s1) => .exc s1 (s1.excOf n f)
  | (.ok v, s1) => .retire (s1.modCtx n (fun c => c.gset o.a (bytesWord v.bytes)))

/-- LDD: a double into A, A+1 (R163). -/
def loadPairEff (n : Nat) (o : MemOp) (s : State) : Eff :=
  let c := s.ctx n
  match s.load n (c.kget o.auth) [permLoad] (c.ea o.b o.idx) 8 1 false with
  | (.error f, s1) => .exc s1 (s1.excOf n f)
  | (.ok v, s1) => .retire (s1.modCtx n (fun c =>
      (c.gset o.a (bytesWord (v.bytes.take 4))).gset (pairHi o.a) (bytesWord (v.bytes.drop 4))))

/-- The K register that a data field names (R120). -/
def kreg (r : GReg) : KReg := r.setWidth 4

/-- LDC: four words and their tags into K A; the tag needs all four tags and LOAD_CAP (R61, R164, R232). -/
def loadCapEff (n : Nat) (o : MemOp) (s : State) : Eff :=
  let c := s.ctx n
  let k := c.kget o.auth
  match s.load n k [permLoad] (c.ea o.b o.idx) 16 16 false with
  | (.error f, s1) => .exc s1 (s1.excOf n f)
  | (.ok v, s1) => .retire (s1.modCtx n (fun c =>
      c.kset (kreg o.a) (capOf v.bytes (s1.fourTags n v.pa && k.perm permLoadCap))))

/-- A store of bytes `bs` (R163). -/
def storeEff (n : Nat) (reg : Bool) (bs : Ctx → List Byte) (o : MemOp) (s : State) : Eff :=
  let c := s.ctx n
  match s.store n (c.kget o.auth) [permStore] (c.ea o.b o.idx) 1 (bs c) false reg with
  | (.error f, s1) => .exc s1 (s1.excOf n f)
  | (.ok _, s1) => .retire s1

/-- STC: K A and its tag to four words (R58, R163, R164). -/
def storeCapEff (n : Nat) (o : MemOp) (s : State) : Eff :=
  let c := s.ctx n
  let v := c.kget (kreg o.a)
  let perms := if v.tag then [permStore, permStoreCap] else [permStore]
  match s.store n (c.kget o.auth) perms (c.ea o.b o.idx) 16 v.bytes v.tag false with
  | (.error f, s1) => .exc s1 (s1.excOf n f)
  | (.ok _, s1) => .retire s1

def execLdb (h : Hd) (o : MemOp) (s : State) : Res :=
  .next (s.issue h h.wf false false (memDeps o [o.a] [] []) (loadEff h.ctx 1 false o))
def execLdh (h : Hd) (o : MemOp) (s : State) : Res :=
  .next (s.issue h h.wf false false (memDeps o [o.a] [] []) (loadEff h.ctx 2 false o))
def execLdw (h : Hd) (o : MemOp) (s : State) : Res :=
  .next (s.issue h h.wf false false (memDeps o [o.a] [] []) (loadEff h.ctx 4 true o))
def execLdd (h : Hd) (o : MemOp) (s : State) : Res :=
  .next (s.issue h (h.wf && o.wfPair) false false (memDeps o [o.a, pairHi o.a] [] []) (loadPairEff h.ctx o))
def execLdc (h : Hd) (o : MemOp) (s : State) : Res :=
  .next (s.issue h (h.wf && o.wfCap) false false (memDeps o [] [] [kreg o.a]) (loadCapEff h.ctx o))
def execStb (h : Hd) (o : MemOp) (s : State) : Res :=
  .next (s.issue h h.wf false false (memDeps o [] [o.a] []) (storeEff h.ctx false (fun c => wordBytes 1 (c.gget o.a)) o))
def execSth (h : Hd) (o : MemOp) (s : State) : Res :=
  .next (s.issue h h.wf false false (memDeps o [] [o.a] []) (storeEff h.ctx false (fun c => wordBytes 2 (c.gget o.a)) o))
def execStw (h : Hd) (o : MemOp) (s : State) : Res :=
  .next (s.issue h h.wf false false (memDeps o [] [o.a] []) (storeEff h.ctx true (fun c => wordBytes 4 (c.gget o.a)) o))
def execStd (h : Hd) (o : MemOp) (s : State) : Res :=
  .next (s.issue h (h.wf && o.wfPair) false false (memDeps o [] [o.a, pairHi o.a] [])
    (storeEff h.ctx false (fun c => wordBytes 4 (c.gget o.a) ++ wordBytes 4 (c.gget (pairHi o.a))) o))
def execStc (h : Hd) (o : MemOp) (s : State) : Res :=
  .next (s.issue h (h.wf && o.wfCap) false false (memDeps o [] [] []) (storeCapEff h.ctx o))

/-! ### Atomic accesses -/

/-- The operations of R166 at the width of the access; CAS is separate. -/
inductive AtomK where
  | swap | add | and | or | xor | smin | smax
deriving DecidableEq, Repr

/-- The new value (R166), at width `w`. -/
def AtomK.val (k : AtomK) {w : Nat} (old c : BitVec w) : BitVec w :=
  match k with
  | .swap => c
  | .add => old + c
  | .and => old &&& c
  | .or => old ||| c
  | .xor => old ^^^ c
  | .smin => if old.slt c then old else c
  | .smax => if old.slt c then c else old

/-- The operand of an atomic access: a register, or the pair for a double. -/
def Ctx.atomVal (c : Ctx) (dbl : Bool) (r : GReg) : DWord := if dbl then mkDouble (c.gget r) (c.gget (pairHi r)) else mkDouble (c.gget r) 0

/-- A takes the old value. -/
def Ctx.putAtom (c : Ctx) (o : AtomOp) (v : DWord) : Ctx :=
  let c1 := c.gset o.a (lowWord v)
  if o.dbl then c1.gset (pairHi o.a) (highWord v) else c1

/-- An atomic access other than CAS (R166, R134). -/
def atomEff (k : AtomK) (n : Nat) (o : AtomOp) (s : State) : Eff :=
  let c := s.ctx n
  let x := c.atomVal o.dbl o.c
  let f : DWord → Option DWord := fun old =>
    some (if o.dbl then k.val old x else mkDouble (k.val (lowWord old) (lowWord x)) 0)
  match s.atomic n (c.kget o.auth) (c.gget o.b).toNat (if o.dbl then 8 else 4) f with
  | (.error e, s1) => .exc s1 (s1.excOf n e)
  | (.ok old, s1) => .retire (s1.modCtx n (fun c => c.putAtom o old))

/-- CAS (R166): C is written when the old value equals A; Z tells whether it was. -/
def casEff (n : Nat) (o : AtomOp) (s : State) : Eff :=
  let c := s.ctx n
  let x := c.atomVal o.dbl o.c
  let want := c.atomVal o.dbl o.a
  match s.atomic n (c.kget o.auth) (c.gget o.b).toNat (if o.dbl then 8 else 4) (fun old => if old = want then some x else none) with
  | (.error e, s1) => .exc s1 (s1.excOf n e)
  | (.ok old, s1) => .retire (s1.modCtx n (fun c => { c.putAtom o old with z := decide (old = want) }))

/-- What an atomic access reads and writes. -/
def atomDeps (o : AtomOp) : Deps :=
  let w := fun r => if o.dbl then [r, pairHi r] else [r]
  { rd := o.b :: (w o.a ++ w o.c), wr := w o.a, mem := true }

/-- Issue an atomic access. -/
def atomIssue (h : Hd) (o : AtomOp) (d : Deps) (f : State → Eff) (s : State) : State := s.issue h (h.wf && o.wf) false false d f

def execAtomicSwap (h : Hd) (o : AtomOp) (s : State) : Res := .next (atomIssue h o (atomDeps o) (atomEff .swap h.ctx o) s)
def execAtomicAdd (h : Hd) (o : AtomOp) (s : State) : Res := .next (atomIssue h o (atomDeps o) (atomEff .add h.ctx o) s)
def execAtomicAnd (h : Hd) (o : AtomOp) (s : State) : Res := .next (atomIssue h o (atomDeps o) (atomEff .and h.ctx o) s)
def execAtomicOr (h : Hd) (o : AtomOp) (s : State) : Res := .next (atomIssue h o (atomDeps o) (atomEff .or h.ctx o) s)
def execAtomicXor (h : Hd) (o : AtomOp) (s : State) : Res := .next (atomIssue h o (atomDeps o) (atomEff .xor h.ctx o) s)
def execAtomicSmin (h : Hd) (o : AtomOp) (s : State) : Res := .next (atomIssue h o (atomDeps o) (atomEff .smin h.ctx o) s)
def execAtomicSmax (h : Hd) (o : AtomOp) (s : State) : Res := .next (atomIssue h o (atomDeps o) (atomEff .smax h.ctx o) s)
def execCas (h : Hd) (o : AtomOp) (s : State) : Res :=
  .next (atomIssue h o { atomDeps o with flags := true } (casEff h.ctx o) s)

end Sys2Proof.Machine
end

