-- ==== Sys2Proof/Machine/RegCmd.lean ====
section
/-!
DEFINITION. Accesses of registers, doorbell pages, configuration spaces and MSI-X tables by their requesters (R30 to R35, R431, R434,
R524, R526 to R534), and the commands that are one such access.
-/

namespace Sys2Proof.Machine

open Sys2Proof

/-! ### Requesters -/

/-- The crossing group that detects a failed register access: the requester's own (R623, R655). -/
def reqUnit : Requester → Nat
  | .context n => cluOf n
  | .host p => unitHpc p
  | .service => unitBsu

/-- The error response of R30 to a register access by `r`, with its record of class 5. -/
def State.regError (s : State) (r : Requester) (n : Nat) : State :=
  s.record 5 1 (reqUnit r) (match r with | .context c => some c | _ => none) none (some (0b11100 * 2 ^ 40 + 4 * n)) 0

/-- A host's request brings its link back to L0 (R524). -/
def State.heard (s : State) : Requester → State
  | .host p => s.linkTlp p
  | _ => s

/-- Whether context `n` can make an LDW or STW of register word `w` (R34): a capability that holds `perm` and DEVICE, and an unpaged
block of type DEVICE that maps the word. -/
def State.deviceWay (s : State) (n w perm : Nat) : Bool :=
  let pa := 0b11100 * 2 ^ 40 + 4 * w
  let c := s.ctx n
  s.mayIssue n && (List.range 16).any (fun b =>
    let bl := c.block b
    let va := 48 * bl.line + (pa - bl.physBase)
    decide (bl.physBase ≤ pa) && !bl.paged && decide (c.findBlock (va / 48) = some (b, bl)) && decide (bl.typ = 2) &&
      (List.range 16).any (fun k =>
        let cap := c.kget (BitVec.ofNat 4 k)
        (s.capSteps cap [perm] va 4 4).isNone && cap.perm permDevice && (decide (cap.tenant = bl.owner) || cap.perm permCross)))

/-- Whether `r` may make an access of register word `n` of part `p`: a context whole words by R34, a host and the service core as R33
and R601 let them. -/
def State.canAccess (s : State) (r : Requester) (n : Nat) (p : Part) (perm : Nat) : Bool :=
  match r with
  | .context c => decide (p = .full) && s.deviceWay c n perm
  | _ => s.reaches r

/-- A write of register word `n` by a requester, with effect `f`: Unsupported Request when a host does not reach the registers
(R33, R533) or its access has another size (R35), the error response of R30, with its record, when the unit is denied (R608, R622). -/
def State.writing (s : State) (r : Requester) (n : Nat) (p : Part) (f : State → State) : State :=
  let s := s.heard r
  if !(s.canAccess r n p permStore) || decide (p = .other) then (match r with | .host q => s.urWrite (1024 * q) | _ => s)
  else if s.regDenied n then s.regError r n
  else f s

/-- A write of a register word by a requester. -/
def State.write0 (s : State) (r : Requester) (n : Nat) (p : Part) (v : Word) : State :=
  s.writing r n p (fun s => s.regWrite r n p v)

/-- A read of a register word by a requester, and its answer (R30, R33, R35). A read that gets the fabric's error response completes
on the link with Unsupported Request (DESIGN CHOICE, log entry 68: the spec does not state it). -/
def State.read0 (s : State) (r : Requester) (n : Nat) (p : Part) : State :=
  let s := s.heard r
  if !(s.canAccess r n p permLoad) || decide (p = .other) then
    (match r with | .host q => (s.urRead (1024 * q)).emit (.unsupported r) | _ => s)
  else if s.regDenied n then (s.regError r n).emit (.unsupported r)
  else
    let d := s.regRead r n p
    d.2.emit (.answer r d.1)

/-- Whether `r` is a host that reaches the functions of tenant `t`'s port. -/
def hostOf (r : Requester) (t : Nat) : Bool :=
  match r with
  | .host p => decide (p = portOf t)
  | _ => false

/-- A memory request of host `r` to function `t`: Unsupported Request where its BARs do not take it, or `other` sizes of it (R35,
R533, R540). -/
def State.pageAccess (s : State) (r : Requester) (t : Nat) (p : Part) (rd : Bool) (f : State → State) : State :=
  let s := s.heard r
  if !(hostOf r t) then s
  else if s.pageOpen t && decide (p ≠ .other) then f s
  else if rd then (s.urRead t).emit (.unsupported r)
  else s.urWrite t

/-- A configuration request of host `r` to function `t` (R527, R533, R543): Unsupported Request where there is no such function
(log entry 74). -/
def State.cfgAccess (s : State) (r : Requester) (t : Nat) (rd : Bool) (f : State → State) : State :=
  if !(hostOf r t && (s.port (portOf t)).linkUp) then s
  else
    let s := s.heard r
    if s.fnExists t then f s
    else if rd then (s.urRead t).emit (.unsupported r)
    else s.urWrite t

/-- A request that no function takes (R533): Unsupported Request, which function 0 of the link logs (log entry 74). -/
def State.noWindow (s : State) (r : Requester) (rd : Bool) : State :=
  match r with
  | .host p =>
    let s := s.linkTlp p
    if rd then (s.urRead (s.linkFn0 p)).emit (.unsupported r) else s.urWrite (s.linkFn0 p)
  | _ => s

/-- A register access as it stands when the request is taken: a memory address or a routing ID of a host's request is decoded against
the BARs and the functions of its link (R526, R531, R533); an address of another kind names what it reaches. -/
def State.target (s : State) (r : Requester) (a : RegAddr) (part : Part) : Option (Requester × RegAddr × Part) :=
  match a, r with
  | .mem m, .host p => (s.decodeMem p m part).map (fun d => (.host d.1, d.2.1, d.2.2))
  | .routing i n, .host p => let t := s.routed p i; some (.host (portOf t), .config t n, part)
  | _, _ => some (r, a, part)

/-- A write of what a decoded address names. -/
def State.accessWrite (s : State) (r : Requester) (a : RegAddr) (part : Part) (v : Word) : State :=
  match a with
  | .bar0 n => s.write0 r n part v
  | .page t n => s.pageAccess r t part false (fun s => if part = .high then s else s.pageWrite t n (partBits part v.toNat % 2 ^ 32))
  | .config t n => s.cfgAccess r t false (fun s => s.cfgWrite t n part v.toNat)
  | .msix t vec q => s.pageAccess r t part false (fun s => s.msixWrite t vec q v.toNat)
  | .pba t _ => s.pageAccess r t part false (fun s => s)
  | .aperture t _ => s.pageAccess r t .full false State.rngDrop
  | .mem _ => s
  | .routing _ _ => s

/-- A read of what a decoded address names. -/
def State.accessRead (s : State) (r : Requester) (a : RegAddr) (part : Part) : State :=
  match a with
  | .bar0 n => s.read0 r n part
  | .page t n => s.pageAccess r t part true (fun s => s.emit (.answer r (partOf part (s.pageRead t n))))
  | .config t n => s.cfgAccess r t true (fun s => s.emit (.answer r (word (s.cfgRead t n))))
  | .msix t vec q => s.pageAccess r t part true (fun s => s.emit (.answer r (word (s.msixRead t vec q))))
  | .pba t n => s.pageAccess r t part true (fun s => s.emit (.answer r (word (s.pbaRead t n))))
  | .aperture t _ => s.pageAccess r t .full true (fun s => s.emit (.answer r 0))
  | .mem _ => s
  | .routing _ _ => s

def execRegisterWrite (r : Requester) (a : RegAddr) (part : Part) (v : Word) (s : State) : Res :=
  .next (match s.target r a part with
    | some d => s.accessWrite d.1 d.2.1 d.2.2 v
    | none => s.noWindow r false)

def execRcFieldRead (r : Requester) (a : RegAddr) (part : Part) (s : State) : Res :=
  .next (match s.target r a part with
    | some d => s.accessRead d.1 d.2.1 d.2.2
    | none => s.noWindow r true)

def execGlbLockSet (r : Requester) (s : State) : Res := .next (s.write0 r 5 .full 1)

def execTbuNowLoRead (r : Requester) (part : Part) (s : State) : Res := .next (s.read0 r 0x2002 part)

def execPmuResLowRead (r : Requester) (n : Nat) (part : Part) (s : State) : Res :=
  .next (if s.isRes n && decide (n % 2 = 0) then s.read0 r (0x12000 + n) part else s)

def execIcuStatusRead (r : Requester) (part : Part) (s : State) : Res := .next (s.read0 r 0xE001 part)

def execPredFlush (r : Requester) (core : Nat) (s : State) : Res :=
  let n := 0x20000 + 0x2000 * (core / 8) + 32 + core % 8
  .next (if decide (core < 8 * Config.clusters s.hw.variant) then s.write0 r n .full (word (s.regPeek (reqCode r) n) ||| 2) else s)

/-- A flush ends (R211, R212). -/
def execPredFlushDone (core : Nat) (s : State) : Res := .next (s.modCore core (fun c => { c with predBusy := false }))

def execRestart (r : Requester) (ctx : Nat) (s : State) : Res :=
  .next (if ctx < 32 * Config.clusters s.hw.variant then s.write0 r (0x20000 + 0x2000 * (ctx / 32) + 128 + 2 * (ctx % 32)) .full (word (2 ^ 34)) else s)

/-- Word of ICU_EDIT, DMC_MAINT and BSU_LEASEBRK (R318, R575, R594). -/
def regIcuEdit : Nat := 0xE002
def regDmcMaint : Nat := 0x10008
def regLeaseBrk : Nat := 0x14028

def execIcuEditAcquire (r : Requester) (src : Nat) (s : State) : Res :=
  .next (if src < 8192 then s.writing r regIcuEdit .full (fun s => s.icuAcquire r src) else s)

def execIcuEditCommit (r : Requester) (s : State) : Res := .next (s.writing r regIcuEdit .full (fun s => s.icuCommit r))

def execIcuEditAbort (r : Requester) (s : State) : Res := .next (s.writing r regIcuEdit .full (fun s => s.icuAbort r))

def execDmcMaintAcquire (r : Requester) (s : State) : Res := .next (s.writing r regDmcMaint .full (fun s => s.dmcAcquire r))

def execDmcMaintCommit (r : Requester) (s : State) : Res := .next (s.writing r regDmcMaint .full (fun s => s.dmcCommit r))

def execDmcMaintAbort (r : Requester) (s : State) : Res := .next (s.writing r regDmcMaint .full (fun s => s.dmcAbort r))

def execLeaseBreakIcu (r : Requester) (s : State) : Res := .next (s.writing r regLeaseBrk .full (fun s => s.leaseGo 0 s.bsu.brkIndex))

def execLeaseBreakRing (r : Requester) (tenant : Nat) (s : State) : Res :=
  .next (s.writing r regLeaseBrk .full (fun s => s.leaseGo 1 (tenant % 8192)))

def execLeaseBreakProfile (r : Requester) (profile : Nat) (s : State) : Res :=
  .next (s.writing r regLeaseBrk .full (fun s => s.leaseGo 2 (profile % 8192)))

def execLeaseBreakPool (r : Requester) (pool : Nat) (s : State) : Res :=
  .next (s.writing r regLeaseBrk .full (fun s => s.leaseGo 3 (pool % 8192)))

def execLeaseBreakDram (r : Requester) (s : State) : Res := .next (s.writing r regLeaseBrk .full (fun s => s.leaseGo 4 s.bsu.brkIndex))

def execLeaseBreakFreeze (r : Requester) (port : Nat) (s : State) : Res :=
  .next (s.writing r regLeaseBrk .full (fun s => s.leaseGo 5 (port % 8192)))

end Sys2Proof.Machine
end

