-- ==== Sys2Proof/Machine/SysReg.lean ====
section
/-!
DEFINITION. GETSR and SETSR over every system register (R154 to R156, R191, R285, R301, R328, R376), and the barriers,
translation and cache maintenance instructions (R180, R349, R373, R374), and the block and pattern instructions.
-/

namespace Sys2Proof.Machine

open Sys2Proof

/-- Whether a system register number is assigned (R130, R376). -/
def srAssigned (n : Nat) : Bool := decide (n ≤ 8) || (decide (16 ≤ n) && decide (n < 128))

/-- The PCC permission that GETSR or SETSR of a register needs (R154, R191, R285, R301, R328, R376). -/
def srPerm (n : Nat) (write : Bool) : Option Nat :=
  if n = 4 ∨ n = 5 then some permControl
  else if n = 6 ∨ n = 7 then (if write then some permControl else none)
  else if 8 ≤ n ∧ n < 64 then some permControl
  else if 64 ≤ n then some permTranslate
  else none

/-- IPRI (R301). -/
def Ctx.ipri (c : Ctx) : Word :=
  word ((match c.stack with | t :: _ => t.1 | [] => 0) * 2 ^ 20 + c.stack.length * 2 ^ 16 + c.runPri * 2 ^ 8 + c.floor)

/-- The value of system register `n` for a context (R155, R156, R191, R285, R301, R329, R378, R382). -/
def State.srRead (s : State) (x n : Nat) : Word :=
  let c := s.ctx x
  if n = 0 then c.flagsWord
  else if n = 1 then c.fpstat.setWidth 36
  else if n = 2 then word x
  else if n = 3 then c.retired
  else if n = 4 then c.bkaddr
  else if n = 5 then word (b2n c.bken)
  else if n = 6 then c.ipri
  else if n = 7 then word c.pclass
  else if n = 8 then word (s.mem.scAgentService * 256 + s.mem.scAgentHost * 16 + s.mem.scAgentEau)
  else if n < 32 then word (tget 0o177777 s.mem.scWays (n - 16))
  else if n < 64 then
    let b := tget {} s.mem.scBank (n - 32)
    word (b2n b.en * 2 ^ 35 + b2n b.busy * 2 ^ 34 + b2n b.reject * 2 ^ 33 + b.base)
  else (c.block ((n - 64) / 4)).readWord (n % 4)

/-- The bytes after the start of an instruction that may have been fetched while it runs: the instruction itself, the prefetch queue, the
word held at F3 and two lines in flight from the L1I (R138, R200; log entry 15). -/
def earlySpan : Nat := 48

/-- A write of a block register (R330, R332, R333): the context's entries of that block are invalidated. Bytes after it may have been fetched
before (R332). -/
def State.blockWrite (s : State) (x i w : Nat) (v : Word) : State :=
  let b := s.checkBlock (((s.ctx x).block i).writeWord w v)
  let next := (s.ctx x).pcc.cursor.toNat
  let s1 := s.modCtx x (fun c => { c with bd := tset {} c.bd i b, early := some ⟨next, next + earlySpan, c.bd⟩ })
  let p := fun (e : TlbE) => decide (e.block = i)
  (s1.dropTlb x p p true).dropTlb x p p false

/-- The effect of a write of system register `n` (the same rules; R191 ignores 2 and 3). -/
def State.srWrite (s : State) (x n : Nat) (v : Word) : State :=
  let w := v.toNat
  if n = 0 then s.modCtx x (fun c => c.setFlags v)
  else if n = 1 then s.modCtx x (fun c => { c with fpstat := v.setWidth 5 })
  else if n ≤ 3 then s
  else if n = 4 then s.modCtx x (fun c => { c with bkaddr := v })
  else if n = 5 then s.modCtx x (fun c => { c with bken := bit w 0 })
  else if n = 6 then s.modCtx x (fun c => { c with floor := w % 256 })
  else if n = 7 then s.modCtx x (fun c => { c with pclass := w % 16 })
  else if n = 8 then { s with mem := { s.mem with scAgentService := bits w 11 8, scAgentHost := bits w 7 4, scAgentEau := bits w 3 0 } }
  else if n < 32 then { s with mem := { s.mem with scWays := tset 0o177777 s.mem.scWays (n - 16) (w % 65536) } }
  else if n < 64 then s.onMem (fun m => m.bankWrite s.popLines (n - 32) (bit w 35) (bits w 19 0))
  else s.blockWrite x ((n - 64) / 4) (n % 4) v

/-- GETSR or SETSR: an unassigned number is Illegal, a missing permission is cause 2 (R130, R154). -/
def srEff (x n : Nat) (write : Bool) (f : State → State) (s : State) : Eff :=
  if !(srAssigned n) then .exc s (s.exc x 1)
  else match srPerm n write with
    | some p => if (s.ctx x).pcc.perm p then .retire (f s) else .exc s (s.exc x 2)
    | none => .retire (f s)

def execGetsr (h : Hd) (a : GReg) (n : BitVec 18) (s : State) : Res :=
  .next (s.issue h h.wf false false { wr := [a], flags := decide (n = 0), fp := decide (n = 1) }
    (srEff h.ctx n.toNat false (fun s => s.modCtx h.ctx (fun c => c.gset a (s.srRead h.ctx n.toNat)))))
def execSetsr (h : Hd) (a : GReg) (n : BitVec 18) (s : State) : Res :=
  .next (s.issue h h.wf false false { rd := [a], flags := decide (n = 0), fp := decide (n = 1), all := decide (64 ≤ n.toNat) }
    (srEff h.ctx n.toNat true (fun s => s.srWrite h.ctx n.toNat ((s.ctx h.ctx).gget a))))

/-! ### Block and pattern instructions -/

/-- BLKMOVE, BLKFILL, MATCH: long operations; one continued by ERET with MT = 1 must pass the check of R284. -/
def blkIssue (k : BlkKind) (h : Hd) (o : BlkOp) (s : State) : State :=
  s.issue h h.wf false true (LongKind.blk k o).deps (fun s =>
    match (s.ctx h.ctx).pendRet with
    | some p => if p.mt && !(vendorCheck (s.core (coreOf h.ctx)) k p.micro) then .exc s (s.exc h.ctx 1) else go s
    | none => go s)
where
  /-- Its routine starts, and it goes in flight. -/
  go (s : State) : Eff := vendored h.ctx (blkRoutine k) (fun s => .long s (.blk k o)) s

def execBlkmove (h : Hd) (o : BlkOp) (s : State) : Res := .next (blkIssue .move h o s)
def execBlkfill (h : Hd) (o : BlkOp) (s : State) : Res := .next (blkIssue .fill h o s)
def execMatchWords (h : Hd) (o : BlkOp) (s : State) : Res := .next (blkIssue .match_ h o s)

/-! ### Maintenance, translation and barriers (R180) -/

/-- CLEAN.A and INV.A: the checks, then every earlier store is visible and the line is cleaned or removed everywhere. -/
def maintEff (n : Nat) (a : GReg) (auth : KReg) (perm : Nat) (f : Mem → Asker → Nat → Mem) (s : State) : Eff :=
  let c := s.ctx n
  match s.maintLine n (c.kget auth) perm (c.gget a).toNat with
  | (.error e, s1) => .exc s1 (s1.excOf n e)
  | (.ok none, s1) => .retire s1
  | (.ok (some l), s1) =>
    let s2 := s1.drainCtx n
    .retire (s2.onMem (fun m => f m (s2.asker n) l))

/-- An instruction that needs a permission in PCC (R180). -/
def pccEff (n perm : Nat) (f : State → State) (s : State) : Eff :=
  if (s.ctx n).pcc.perm perm then .retire (f s) else .exc s (s.exc n 2)

/-- CLEAN.S (R374). -/
def cleanSet (n : Nat) (g : Word) (s : State) : State :=
  let x := g.toNat
  match bits x 35 34 with
  | 0 => s.onMem (fun m => m.cleanL2Way (s.asker n) (cluOf n) (bits x 11 0) (bits x 15 12))
  | 1 => s.onMem (fun m => m.cleanSysWay (s.asker n) (bits x 19 16) (bits x 11 0) (bits x 15 12))
  | _ => s

/-- INVPG G (R349). -/
def invPage (n : Nat) (g : Word) (s : State) : State :=
  match (s.ctx n).findBlock (g.toNat / 48) with
  | some b =>
    if b.2.paged then
      let p := (g.toNat - 48 * b.2.line) / 12288
      s.dropTlb n (fun e => decide (e.block = b.1) && decide (e.idx = p)) (fun _ => false) true
    else s
  | none => s

def execCleanA (h : Hd) (a : GReg) (auth : KReg) (s : State) : Res :=
  .next (s.issue h h.wf false false { rd := [a], mem := true } (maintEff h.ctx a auth permLoad Mem.cleanLine))
def execInvA (h : Hd) (a : GReg) (auth : KReg) (s : State) : Res :=
  .next (s.issue h h.wf false false { rd := [a], mem := true } (maintEff h.ctx a auth permStore Mem.invLine))
def execCleanS (h : Hd) (a : GReg) (s : State) : Res :=
  .next (s.issue h h.wf false false { rd := [a] }
    (pccEff h.ctx permControl (fun s => cleanSet h.ctx ((s.ctx h.ctx).gget a) s)))
def execInvpg (h : Hd) (a : GReg) (s : State) : Res :=
  .next (s.issue h h.wf false false { rd := [a], mem := true }
    (pccEff h.ctx permTranslate (fun s => invPage h.ctx ((s.ctx h.ctx).gget a) s)))
def execInvwalk (h : Hd) (s : State) : Res :=
  .next (s.issue h h.wf false false { mem := true }
    (pccEff h.ctx permTranslate (fun s => s.dropTlb h.ctx (fun _ => false) (fun _ => true) true)))
def execInvblk (h : Hd) (n : BitVec 4) (s : State) : Res :=
  .next (s.issue h h.wf false false { mem := true }
    (pccEff h.ctx permTranslate (fun s =>
      s.dropTlb h.ctx (fun e => decide (e.block = n.toNat)) (fun e => decide (e.block = n.toNat)) true)))
def execFenceM (h : Hd) (s : State) : Res :=
  .next (s.issue h h.wf false false { all := true } (fun s => .retire (s.drainCtx h.ctx)))
def execFenceL (h : Hd) (s : State) : Res :=
  .next (s.issue h h.wf false false { all := true } (fun s => .retire s))
def execFenceI (h : Hd) (s : State) : Res :=
  .next (s.issue h h.wf false false { all := true } (fun s => .retire ((s.drainCtx h.ctx).refetch h.ctx)))
def execFenceT (h : Hd) (s : State) : Res :=
  .next (s.issue h h.wf false false { all := true }
    (fun s => .retire (s.modCtx h.ctx (fun c => { c with invalT := [], invalW := [], early := none }))))

end Sys2Proof.Machine
end

