-- ==== Sys2Proof/Machine/Dispatch.lean ====
section
/-!
DEFINITION. What each command does, one arm per constructor of Instr, each arm one direct call of its meaning.
-/

namespace Sys2Proof.Machine

open Sys2Proof

def exec (i : Instr) (s : State) : Host.Outcome State Fault Refusal :=
  match i with
  | .add h o => Sys2Proof.Machine.execAdd h o s
  | .sub h o => Sys2Proof.Machine.execSub h o s
  | .and h o => Sys2Proof.Machine.execAnd h o s
  | .or h o => Sys2Proof.Machine.execOr h o s
  | .xor h o => Sys2Proof.Machine.execXor h o s
  | .shl h o => Sys2Proof.Machine.execShl h o s
  | .shr h o => Sys2Proof.Machine.execShr h o s
  | .sar h o => Sys2Proof.Machine.execSar h o s
  | .rol h o => Sys2Proof.Machine.execRol h o s
  | .ror h o => Sys2Proof.Machine.execRor h o s
  | .mul h o => Sys2Proof.Machine.execMul h o s
  | .mulh h o => Sys2Proof.Machine.execMulh h o s
  | .div h o => Sys2Proof.Machine.execDiv h o s
  | .rem h o => Sys2Proof.Machine.execRem h o s
  | .fadd h o => Sys2Proof.Machine.execFadd h o s
  | .fsub h o => Sys2Proof.Machine.execFsub h o s
  | .fmul h o => Sys2Proof.Machine.execFmul h o s
  | .fdiv h o => Sys2Proof.Machine.execFdiv h o s
  | .fsqrt h o => Sys2Proof.Machine.execFsqrt h o s
  | .fcmp h o => Sys2Proof.Machine.execFcmp h o s
  | .mov h o => Sys2Proof.Machine.execMov h o s
  | .cmp h o => Sys2Proof.Machine.execCmp h o s
  | .tst h o => Sys2Proof.Machine.execTst h o s
  | .popc h o => Sys2Proof.Machine.execPopc h o s
  | .clz h o => Sys2Proof.Machine.execClz h o s
  | .sel h a b c => Sys2Proof.Machine.execSel h a b c s
  | .fext h o => Sys2Proof.Machine.execFext h o s
  | .fextS h o => Sys2Proof.Machine.execFextS h o s
  | .fins h o => Sys2Proof.Machine.execFins h o s
  | .ldb h o => Sys2Proof.Machine.execLdb h o s
  | .ldh h o => Sys2Proof.Machine.execLdh h o s
  | .ldw h o => Sys2Proof.Machine.execLdw h o s
  | .ldd h o => Sys2Proof.Machine.execLdd h o s
  | .ldc h o => Sys2Proof.Machine.execLdc h o s
  | .stb h o => Sys2Proof.Machine.execStb h o s
  | .sth h o => Sys2Proof.Machine.execSth h o s
  | .stw h o => Sys2Proof.Machine.execStw h o s
  | .std h o => Sys2Proof.Machine.execStd h o s
  | .stc h o => Sys2Proof.Machine.execStc h o s
  | .atomicSwap h o => Sys2Proof.Machine.execAtomicSwap h o s
  | .atomicAdd h o => Sys2Proof.Machine.execAtomicAdd h o s
  | .atomicAnd h o => Sys2Proof.Machine.execAtomicAnd h o s
  | .atomicOr h o => Sys2Proof.Machine.execAtomicOr h o s
  | .atomicXor h o => Sys2Proof.Machine.execAtomicXor h o s
  | .atomicSmin h o => Sys2Proof.Machine.execAtomicSmin h o s
  | .atomicSmax h o => Sys2Proof.Machine.execAtomicSmax h o s
  | .cas h o => Sys2Proof.Machine.execCas h o s
  | .br h d => Sys2Proof.Machine.execBr h d s
  | .call h d => Sys2Proof.Machine.execCall h d s
  | .brR h a => Sys2Proof.Machine.execBrR h a s
  | .callR h a => Sys2Proof.Machine.execCallR h a s
  | .ret h => Sys2Proof.Machine.execRet h s
  | .cbound h a b c => Sys2Proof.Machine.execCbound h a b c s
  | .crestrict h a b c => Sys2Proof.Machine.execCrestrict h a b c s
  | .cseal h a b c => Sys2Proof.Machine.execCseal h a b c s
  | .cunseal h a b c => Sys2Proof.Machine.execCunseal h a b c s
  | .cget h a b selr => Sys2Proof.Machine.execCget h a b selr s
  | .csetc h a b c => Sys2Proof.Machine.execCsetc h a b c s
  | .cmove h a b => Sys2Proof.Machine.execCmove h a b s
  | .cgets h a selr => Sys2Proof.Machine.execCgets h a selr s
  | .csets h b selr => Sys2Proof.Machine.execCsets h b selr s
  | .cjump h a b c => Sys2Proof.Machine.execCjump h a b c s
  | .getsr h a n => Sys2Proof.Machine.execGetsr h a n s
  | .setsr h a n => Sys2Proof.Machine.execSetsr h a n s
  | .blkmove h o => Sys2Proof.Machine.execBlkmove h o s
  | .blkfill h o => Sys2Proof.Machine.execBlkfill h o s
  | .matchWords h o => Sys2Proof.Machine.execMatchWords h o s
  | .cleanA h a auth => Sys2Proof.Machine.execCleanA h a auth s
  | .invA h a auth => Sys2Proof.Machine.execInvA h a auth s
  | .cleanS h a => Sys2Proof.Machine.execCleanS h a s
  | .invpg h a => Sys2Proof.Machine.execInvpg h a s
  | .invwalk h => Sys2Proof.Machine.execInvwalk h s
  | .invblk h n => Sys2Proof.Machine.execInvblk h n s
  | .fenceM h => Sys2Proof.Machine.execFenceM h s
  | .fenceL h => Sys2Proof.Machine.execFenceL h s
  | .fenceI h => Sys2Proof.Machine.execFenceI h s
  | .fenceT h => Sys2Proof.Machine.execFenceT h s
  | .eret h => Sys2Proof.Machine.execEret h s
  | .wait h => Sys2Proof.Machine.execWait h s
  | .trap h n => Sys2Proof.Machine.execTrap h n s
  | .eoi h a => Sys2Proof.Machine.execEoi h a s
  | .sgi h a => Sys2Proof.Machine.execSgi h a s
  | .alarm h a => Sys2Proof.Machine.execAlarm h a s
  | .take h a b => Sys2Proof.Machine.execTake h a b s
  | .decide h a b c => Sys2Proof.Machine.execDecide h a b c s
  | .done h a => Sys2Proof.Machine.execDone h a s
  | .nop h => Sys2Proof.Machine.execNop h s
  | .customerInstruction h o => Sys2Proof.Machine.execCustomerInstruction h o s
  | .illegal ctx bytes => Sys2Proof.Machine.execIllegal ctx bytes s
  | .longOpComplete ctx idx => Sys2Proof.Machine.execLongOpComplete ctx idx s
  | .customerRoutineLimit ctx => Sys2Proof.Machine.execCustomerRoutineLimit ctx s
  | .mergeEntryIdle core idx => Sys2Proof.Machine.execMergeEntryIdle core idx s
  | .mergeEntryDrain core parityOk => Sys2Proof.Machine.execMergeEntryDrain core parityOk s
  | .asyncStoreError ctx => Sys2Proof.Machine.execAsyncStoreError ctx s
  | .predFlush r core => Sys2Proof.Machine.execPredFlush r core s
  | .predFlushDone core => Sys2Proof.Machine.execPredFlushDone core s
  | .restart r ctx => Sys2Proof.Machine.execRestart r ctx s
  | .glbLockSet r => Sys2Proof.Machine.execGlbLockSet r s
  | .registerWrite r a part v => Sys2Proof.Machine.execRegisterWrite r a part v s
  | .rcFieldRead r a part => Sys2Proof.Machine.execRcFieldRead r a part s
  | .tbuNowLoRead r part => Sys2Proof.Machine.execTbuNowLoRead r part s
  | .pmuResLowRead r n part => Sys2Proof.Machine.execPmuResLowRead r n part s
  | .beatFrame link f => Sys2Proof.Machine.execBeatFrame link f s
  | .commandFrame link b => Sys2Proof.Machine.execCommandFrame link b s
  | .idleFrame f => Sys2Proof.Machine.execIdleFrame f s
  | .blockLockLoss link => Sys2Proof.Machine.execBlockLockLoss link s
  | .linkFail link => Sys2Proof.Machine.execLinkFail link s
  | .acquireTimeout link => Sys2Proof.Machine.execAcquireTimeout link s
  | .quietStart => Sys2Proof.Machine.execQuietStart s
  | .quietEnd => Sys2Proof.Machine.execQuietEnd s
  | .quietWindowExpiry => Sys2Proof.Machine.execQuietWindowExpiry s
  | .throttleOn => Sys2Proof.Machine.execThrottleOn s
  | .throttleOff => Sys2Proof.Machine.execThrottleOff s
  | .turnReset => Sys2Proof.Machine.execTurnReset s
  | .resync => Sys2Proof.Machine.execResync s
  | .cal => Sys2Proof.Machine.execCal s
  | .alarmFire ctx => Sys2Proof.Machine.execAlarmFire ctx s
  | .deadlineDue ctx => Sys2Proof.Machine.execDeadlineDue ctx s
  | .sourceArrival src => Sys2Proof.Machine.execSourceArrival src s
  | .levelLineChange src asserted => Sys2Proof.Machine.execLevelLineChange src asserted s
  | .interruptDelivery => Sys2Proof.Machine.execInterruptDelivery s
  | .interruptAccept ctx progress => Sys2Proof.Machine.execInterruptAccept ctx progress s
  | .icuClockStop => Sys2Proof.Machine.execIcuClockStop s
  | .icuClockRestart src => Sys2Proof.Machine.execIcuClockRestart src s
  | .icuEditAcquire r src => Sys2Proof.Machine.execIcuEditAcquire r src s
  | .icuEditCommit r => Sys2Proof.Machine.execIcuEditCommit r s
  | .icuEditAbort r => Sys2Proof.Machine.execIcuEditAbort r s
  | .icuLeaseExpiry => Sys2Proof.Machine.execIcuLeaseExpiry s
  | .sqTailWrite tenant ring v => Sys2Proof.Machine.execSqTailWrite tenant ring v s
  | .cqHeadWrite tenant ring v => Sys2Proof.Machine.execCqHeadWrite tenant ring v s
  | .ringLeaseAcquire tenant ring => Sys2Proof.Machine.execRingLeaseAcquire tenant ring s
  | .ringLeaseCommit tenant => Sys2Proof.Machine.execRingLeaseCommit tenant s
  | .ringLeaseAbort tenant => Sys2Proof.Machine.execRingLeaseAbort tenant s
  | .ringLeaseExpiry tenant => Sys2Proof.Machine.execRingLeaseExpiry tenant s
  | .carriageFetch port => Sys2Proof.Machine.execCarriageFetch port s
  | .readCompletion port tag c => Sys2Proof.Machine.execReadCompletion port tag c s
  | .completionTimeout port tag => Sys2Proof.Machine.execCompletionTimeout port tag s
  | .apertureWrite tenant offset octets => Sys2Proof.Machine.execApertureWrite tenant offset octets s
  | .apertureTimeout tenant queue => Sys2Proof.Machine.execApertureTimeout tenant queue s
  | .keyEngineCheck => Sys2Proof.Machine.execKeyEngineCheck s
  | .unknownOpcode port => Sys2Proof.Machine.execUnknownOpcode port s
  | .fragment bank => Sys2Proof.Machine.execFragment bank s
  | .mailbox port => Sys2Proof.Machine.execMailbox port s
  | .task bank => Sys2Proof.Machine.execTask bank s
  | .profileSet => Sys2Proof.Machine.execProfileSet s
  | .poolSet => Sys2Proof.Machine.execPoolSet s
  | .quotaSet => Sys2Proof.Machine.execQuotaSet s
  | .profileReleaseComplete profile => Sys2Proof.Machine.execProfileReleaseComplete profile s
  | .poolDrainCommit pool => Sys2Proof.Machine.execPoolDrainCommit pool s
  | .profileLeaseExpiry profile => Sys2Proof.Machine.execProfileLeaseExpiry profile s
  | .poolLeaseExpiry pool => Sys2Proof.Machine.execPoolLeaseExpiry pool s
  | .assemblyDeadline bank => Sys2Proof.Machine.execAssemblyDeadline bank s
  | .spentEntryExpiry bank => Sys2Proof.Machine.execSpentEntryExpiry bank s
  | .victimKeyExpiry bank => Sys2Proof.Machine.execVictimKeyExpiry bank s
  | .closeQueueEntry bank => Sys2Proof.Machine.execCloseQueueEntry bank s
  | .dduAccept => Sys2Proof.Machine.execDduAccept s
  | .takeGrant => Sys2Proof.Machine.execTakeGrant s
  | .eventShed cls => Sys2Proof.Machine.execEventShed cls s
  | .decisionRelease lane phase => Sys2Proof.Machine.execDecisionRelease lane phase s
  | .fragmentCarriageNop port => Sys2Proof.Machine.execFragmentCarriageNop port s
  | .devidSet => Sys2Proof.Machine.execDevidSet s
  | .power => Sys2Proof.Machine.execPower s
  | .powerQuietTimeout => Sys2Proof.Machine.execPowerQuietTimeout s
  | .powerEntryStart => Sys2Proof.Machine.execPowerEntryStart s
  | .patchLoad image => Sys2Proof.Machine.execPatchLoad image s
  | .decodeLoad image => Sys2Proof.Machine.execDecodeLoad image s
  | .microcodeFlip core => Sys2Proof.Machine.execMicrocodeFlip core s
  | .keyRoll => Sys2Proof.Machine.execKeyRoll s
  | .tenantKill => Sys2Proof.Machine.execTenantKill s
  | .tenantRevive => Sys2Proof.Machine.execTenantRevive s
  | .releaseCore => Sys2Proof.Machine.execReleaseCore s
  | .coreRelease core => Sys2Proof.Machine.execCoreRelease core s
  | .msixPendingSend tenant vector => Sys2Proof.Machine.execMsixPendingSend tenant vector s
  | .linkUp port speed width => Sys2Proof.Machine.execLinkUp port speed width s
  | .linkDown port => Sys2Proof.Machine.execLinkDown port s
  | .hotReset port => Sys2Proof.Machine.execHotReset port s
  | .freeze port cause => Sys2Proof.Machine.execFreeze port cause s
  | .poisonedWrite tenant queue => Sys2Proof.Machine.execPoisonedWrite tenant queue s
  | .functionLevelReset tenant => Sys2Proof.Machine.execFunctionLevelReset tenant s
  | .vfEnableClear port => Sys2Proof.Machine.execVfEnableClear port s
  | .busMasterEnableClear tenant => Sys2Proof.Machine.execBusMasterEnableClear tenant s
  | .busMasterEnableSet tenant => Sys2Proof.Machine.execBusMasterEnableSet tenant s
  | .d3hotEntry tenant => Sys2Proof.Machine.execD3hotEntry tenant s
  | .d0Return tenant => Sys2Proof.Machine.execD0Return tenant s
  | .aspmL1Entry port => Sys2Proof.Machine.execAspmL1Entry port s
  | .quarantineEnd port => Sys2Proof.Machine.execQuarantineEnd port s
  | .freezeLeaseExpiry port => Sys2Proof.Machine.execFreezeLeaseExpiry port s
  | .hpcUnfreezeGo port => Sys2Proof.Machine.execHpcUnfreezeGo port s
  | .hpcUnfreezeDrop port => Sys2Proof.Machine.execHpcUnfreezeDrop port s
  | .ptmDialog port => Sys2Proof.Machine.execPtmDialog port s
  | .ptmPeriod port => Sys2Proof.Machine.execPtmPeriod port s
  | .ptmResponse port masterTime phase => Sys2Proof.Machine.execPtmResponse port masterTime phase s
  | .ptmTimeout port => Sys2Proof.Machine.execPtmTimeout port s
  | .perBankRefresh channel bank => Sys2Proof.Machine.execPerBankRefresh channel bank s
  | .mr4Read channel mult => Sys2Proof.Machine.execMr4Read channel mult s
  | .neighbourRefresh channel bank => Sys2Proof.Machine.execNeighbourRefresh channel bank s
  | .writeAgeExpiry channel => Sys2Proof.Machine.execWriteAgeExpiry channel s
  | .retrainingPauseDue channel => Sys2Proof.Machine.execRetrainingPauseDue channel s
  | .retrainingPause channel first second => Sys2Proof.Machine.execRetrainingPause channel first second s
  | .scrubRead channel found => Sys2Proof.Machine.execScrubRead channel found s
  | .eccWriteback channel => Sys2Proof.Machine.execEccWriteback channel s
  | .dmcMaintAcquire r => Sys2Proof.Machine.execDmcMaintAcquire r s
  | .dmcMaintCommit r => Sys2Proof.Machine.execDmcMaintCommit r s
  | .dmcMaintAbort r => Sys2Proof.Machine.execDmcMaintAbort r s
  | .dmcLeaseExpiry => Sys2Proof.Machine.execDmcLeaseExpiry s
  | .frequencyChange failNew failOld => Sys2Proof.Machine.execFrequencyChange failNew failOld s
  | .scbankChangeDone bank => Sys2Proof.Machine.execScbankChangeDone bank s
  | .leaseBreakIcu r => Sys2Proof.Machine.execLeaseBreakIcu r s
  | .leaseBreakRing r tenant => Sys2Proof.Machine.execLeaseBreakRing r tenant s
  | .leaseBreakProfile r profile => Sys2Proof.Machine.execLeaseBreakProfile r profile s
  | .leaseBreakPool r pool => Sys2Proof.Machine.execLeaseBreakPool r pool s
  | .leaseBreakDram r => Sys2Proof.Machine.execLeaseBreakDram r s
  | .leaseBreakFreeze r port => Sys2Proof.Machine.execLeaseBreakFreeze r port s
  | .bsuWdogWrite => Sys2Proof.Machine.execBsuWdogWrite s
  | .watchdogExpiry withinSecond k => Sys2Proof.Machine.execWatchdogExpiry withinSecond k s
  | .fabricTimeout group => Sys2Proof.Machine.execFabricTimeout group s
  | .crossingFlush group => Sys2Proof.Machine.execCrossingFlush group s
  | .thermalAlert tj => Sys2Proof.Machine.execThermalAlert tj s
  | .thermalTrip tj => Sys2Proof.Machine.execThermalTrip tj s
  | .thermalHoldEnd => Sys2Proof.Machine.execThermalHoldEnd s
  | .deviceFatalError reason k => Sys2Proof.Machine.execDeviceFatalError reason k s
  | .pwrOkRise k => Sys2Proof.Machine.execPwrOkRise k s
  | .pwrOkFall => Sys2Proof.Machine.execPwrOkFall s
  | .recoveryImageLoad image readBackOk => Sys2Proof.Machine.execRecoveryImageLoad image readBackOk s
  | .wakeEvent src => Sys2Proof.Machine.execWakeEvent src s
  | .brownOut => Sys2Proof.Machine.execBrownOut s
  | .beatEdge => Sys2Proof.Machine.execBeatEdge s
  | .discardedFrame link b => Sys2Proof.Machine.execDiscardedFrame link b s
  | .blockLockAcquired link => Sys2Proof.Machine.execBlockLockAcquired link s
  | .pmeTurnOffHandshake port => Sys2Proof.Machine.execPmeTurnOffHandshake port s
  | .pmeTurnOffTimeout port => Sys2Proof.Machine.execPmeTurnOffTimeout port s
  | .hp0WakeNTimeout => Sys2Proof.Machine.execHp0WakeNTimeout s
  | .hostPortPerstN port asserted => Sys2Proof.Machine.execHostPortPerstN port asserted s
  | .icuStatusRead r part => Sys2Proof.Machine.execIcuStatusRead r part s

end Sys2Proof.Machine
end

