-- ==== Sys2Proof/Machine/Step.lean ====
section
/-!
DEFINITION. One step: the command at the front of the queue takes effect on everything but the queue; with an empty
queue each DRAM channel performs a write that its queue holds, and nothing else happens.
-/

namespace Sys2Proof.Machine

open Sys2Proof

/-- Take the command at the front of `pending` and run it with the rest of the queue; with nothing waiting the block is idle but for
one service slot of each DRAM channel, in which a write that its queue holds is performed (R555; log entry 2). -/
def step (s : State) : Host.Outcome State Fault Refusal :=
  match s.pending with
  | [] => .next s.dramTick
  | c :: rest => exec c { s with pending := rest }

/-- The state with the command that a table word spells put at the front of its queue; no row of the table gives bits,
so no word spells one and the state is unchanged. -/
def State.withFetchWord (s : State) (nbits w : Nat) : State :=
  match decodeTableWord nbits w with
  | some c => { s with pending := c :: s.pending }
  | none => s

end Sys2Proof.Machine
end

