-- ==== Sys2Proof/Safety.lean ====
section
/-!
DEFINITION. What counts as a safe run, and the terms in which the statements speak: an instruction that is about to execute, the
context an instruction leaves, and which parts of the machine a command leaves as they were.
-/

namespace Sys2Proof.Safety

open Sys2Proof Sys2Proof.Machine

/-- The machine goes on for `k` steps from `s`: no fault and no refusal ends the run. -/
def GoesOn : Nat → State → Prop
  | 0, _ => True
  | k + 1, s => ∃ t, step s = .next t ∧ GoesOn k t

/-- No hardware error waits to be met: in a copy of a line (R64), a merging-buffer entry (R364) or a microword (R388). -/
def Unharmed (s : State) : Prop :=
  s.mem.upsets = [] ∧ ∀ e ∈ s.cores, e.2.stop = [] ∧ e.2.badMicro = [] ∧ ∀ f ∈ e.2.merge, f.bad = false

/-- No core is still to be offlined. -/
def NoStop (s : State) : Prop := ∀ e ∈ s.cores, e.2.stop = []

/-- Context `n` has no instruction to run alone or to continue after an ERET (R281 step 7). -/
def NoReturn (s : State) (n : Nat) : Prop := ∀ p, (s.ctx n).pendRet = some p → p.imp = false ∧ p.mt = false

/-- The instruction `i` of header `h` comes to its turn in `s` and its fetch passes (R140), which leaves `t`: its context may
issue, no exception waits at the boundary (R261, R280), no long operation is in flight (R145), no return is pending (R281), and no
hardware error strikes. -/
def Fetched (h : Hd) (s t : State) : Prop :=
  h.strikes = [] ∧ Unharmed s ∧ s.atBoundary h.ctx = true ∧ s.boundaryDue h.ctx = false ∧ (s.ctx h.ctx).longOps = []
    ∧ NoReturn s h.ctx ∧ s.fetch h.ctx h.len = (none, t) ∧ Unharmed t

/-- The well-formed instruction `i` of header `h` is fetched in `s` and its condition is true (R116, R117). -/
def Executes (i : Instr) (h : Hd) (s t : State) : Prop :=
  i.wf = true ∧ condHolds h.cond (s.ctx h.ctx) = true ∧ Fetched h s t

/-- The address of the instruction that follows. -/
def nextAddr (h : Hd) (s : State) : Word := (s.ctx h.ctx).pcc.cursor + word h.len

/-- A context after an instruction that retires to `a` (R192). -/
def retired (c : Ctx) (a : Word) : Ctx :=
  { c with retired := c.retired + 1, pcc := { c.pcc with cursor := a }, pendRet := none, bkskip := false }

/-- `u` differs from `t` in context `n` alone, which is now `c`. -/
def OnlyCtx (t u : State) (n : Nat) (c : Ctx) : Prop :=
  u.ctx n = c ∧ (∀ m, m ≠ n → u.ctx m = t.ctx m) ∧ u = { t with ctxs := u.ctxs }

/-- Instruction `i` of header `h` executes and retires to the next instruction; `c` is what it makes of its context before it
retires. Nothing but that context changes after the fetch. -/
def RetiresWith (i : Instr) (h : Hd) (s t : State) (c : Ctx) : Prop :=
  ∃ u, exec i s = .next u ∧ OnlyCtx t u h.ctx (retired c (nextAddr h s))

/-- Instruction `i` takes the precise exception `x` with the given INFO, before any effect of its own (R149, R277). -/
def Raises (i : Instr) (h : Hd) (s t : State) (x info : Nat) : Prop :=
  exec i s = .next (t.enter h.ctx
    { cause := x, fault := (s.ctx h.ctx).pcc.cursor, resume := (s.ctx h.ctx).pcc.cursor, info := info }).stopCores

/-- Every unit but memory and caches, the cores' translation entries, the DRAM controllers, the interrupt controller, the error unit,
what goes outside and the model's counter of free values is as it was. -/
def SameUnits (s t : State) : Prop :=
  t = { s with cores := t.cores, mem := t.mem, icu := t.icu, dmc := t.dmc, ras := t.ras, free := t.free, outbox := t.outbox }

/-- The flags of a result: N and Z from it, C and V as given (R144). -/
def flagsOf {w : Nat} (r : BitVec w) (c v : Bool) : Nzcv := ⟨r.msb, decide (r = 0), c, v⟩

/-- A context with A of a class 1 to 3 instruction written and the four flags set. -/
def wrote (c : Ctx) (o : AluOp) (r : BitVec (wbits o.wid)) (cf vf : Bool) : Ctx :=
  (c.putVal o.wid o.a r).withNzcv (flagsOf r cf vf)

/-- A context whose oldest long operation has completed (R145, R192). -/
def longRetired (c : Ctx) : Ctx := { c with retired := c.retired + 1, longOps := c.longOps.drop 1 }

/-- Long operation `i` of header `h` executes: it goes in flight and control goes on behind it (R145), and when it completes in the
state that this leaves, its context is what `f` makes of the context behind it, and nothing else changes. -/
def RunsLong (i : Instr) (h : Hd) (s t : State) (f : Ctx → Ctx) : Prop :=
  ∃ u, exec i s = .next u
    ∧ (u.ctx h.ctx).longOps.length = 1
    ∧ OnlyCtx t u h.ctx { s.ctx h.ctx with
        longOps := (u.ctx h.ctx).longOps, pendRet := none, bkskip := false, pcc := { (s.ctx h.ctx).pcc with cursor := nextAddr h s } }
    ∧ ∃ v, exec (.longOpComplete h.ctx 0) u = .next v ∧ OnlyCtx u v h.ctx (longRetired (f (u.ctx h.ctx)))

/-- Byte address `a` lies in the RAS error ring (R658), the memory that error records write. -/
def inErrorRing (s : State) (a : Nat) : Bool := decide (s.lk.rasLine ≤ a / 48) && decide (a / 48 < s.lk.rasLine + 2 ^ s.lk.rasSize)

/-- Every context reads every byte of memory in `t` as in `s`, but for those of the error ring. -/
def SameBytes (s t : State) : Prop := ∀ n a, inErrorRing s a = false → t.seenByte n a = s.seenByte n a

/-- Instruction `i` of header `h` executes and retires to the next instruction, leaving its context as `c` makes it and `u` as `P`
says; no other context and none of the units that `SameUnits` keeps changes after the fetch. -/
def RetiresBeside (i : Instr) (h : Hd) (s t : State) (c : Ctx) (P : State → Prop) : Prop :=
  ∃ u, exec i s = .next u ∧ u.ctx h.ctx = retired c (nextAddr h s) ∧ (∀ m, m ≠ h.ctx → u.ctx m = t.ctx m)
    ∧ SameUnits t { u with ctxs := t.ctxs } ∧ P u

/-- An access of `size` bytes at `ea` through `k` passes the checks of R241, touches one line, and lies in a direct block that is not
DEVICE and in populated DRAM that is not the error ring; `pa` is its physical address (R337). -/
def Direct (s : State) (n : Nat) (k : Cap) (perms : List Nat) (ea size align pa : Nat) : Prop :=
  s.capSteps k perms ea size align = none ∧ ea % 48 + size ≤ 48 ∧ pa % 48 + size ≤ 48 ∧ inErrorRing s pa = false
    ∧ s.paKind pa = .dram
    ∧ ∃ j b, (s.ctx n).findBlock (ea / 48) = some (j, b) ∧ b.typ ≠ 2 ∧ b.paged = false
      ∧ (k.tenant = b.owner ∨ k.perm permCross = true) ∧ pa = b.physBase + (ea - 48 * b.line)

/-- No DRAM channel is offlined, and line `l` is poisoned neither in the copies nor at its home (R64, R566). -/
def Sound (s : State) (l : Nat) : Prop := s.mem.gone = [] ∧ s.mem.poisoned l = false ∧ (s.mem.home l).bad = false

/-- The bytes that context `n` sees at `pa`. -/
def seenBytes (s : State) (n pa size : Nat) : List Byte := (List.range size).map (fun i => s.seenByte n (pa + i))

/-- The byte addresses that a store of context `n` to `line` drains: those of the oldest entry of a full merging buffer, when the
store takes a new entry (R361). -/
def drainedBytes (s : State) (n line : Nat) : List Nat :=
  let es := (s.core (coreOf n)).merge
  match (es.filter (fun e => decide (e.ctx = n))).getLast? with
  | some e => if e.line = line then [] else full es
  | none => full es
where
  /-- The bytes of the oldest of eight entries. -/
  full (es : List MEntry) : List Nat :=
    if 8 ≤ es.length then (es.take 1).flatMap (fun e => e.bytes.map (fun b => 48 * e.line + b.1)) else []

/-- The new value of an atomic operation on an old value and C (R166). -/
def atomNew (k : AtomK) {w : Nat} (old c : BitVec w) : BitVec w :=
  match k with
  | .swap => c
  | .add => BitVec.ofNat w (old.toNat + c.toNat)
  | .and => old &&& c
  | .or => old ||| c
  | .xor => old ^^^ c
  | .smin => if old.toInt ≤ c.toInt then old else c
  | .smax => if c.toInt ≤ old.toInt then old else c

/-- An FP36 value that is not NaN, scaled by 2^280 to an integer; infinities lie beyond every finite value (R157). -/
def fpScaled : Fp → Int
  | .nan => 0
  | .inf s => if s then -2 ^ 600 else 2 ^ 600
  | .fin s m e => (if s then -1 else 1) * (m * 2 ^ (e + 280).toNat : Nat)

/-- The value of the FP36 magnitude `a` (bits [34:0] of a word), scaled by 2^280; magnitudes from 511 * 2^26 go on as if the exponent had
no bound (R157). -/
def fpMag (a : Nat) : Nat := if a / 2 ^ 26 = 0 then a else (2 ^ 26 + a % 2 ^ 26) * 2 ^ (a / 2 ^ 26 - 1)

/-- Word `v` and FPSTAT bits `st` are a positive or, with `s`, negative exact value rounded once in direction `d` (R158, R160); `cmp n` says
how `n` compares with twice its magnitude scaled by 2^280. -/
def FpRounds (d : Rnd) (s : Bool) (cmp : Nat → Ordering) (v : Word) (st : BitVec 5) : Prop :=
  ∃ a, cmp (2 * fpMag a) ≠ .gt ∧ cmp (2 * fpMag (a + 1)) = .gt ∧
    let exact := cmp (2 * fpMag a) = .eq
    let middle := cmp (fpMag a + fpMag (a + 1))
    let up := match d with
      | .nearestEven => middle = .lt ∨ (middle = .eq ∧ a % 2 = 1)
      | .towardZero => False
      | .towardMinus => s = true ∧ ¬ exact
      | .towardPlus => s = false ∧ ¬ exact
    ∃ r, (up → r = a + 1) ∧ (¬ up → r = a) ∧
      (r < 511 * 2 ^ 26 → v = word (b2n s * 2 ^ 35 + r) ∧
        (exact → st = 0) ∧ (¬ exact → st = if cmp (2 * 2 ^ 26) = .gt then 0b00011 else 0b00001)) ∧
      (511 * 2 ^ 26 ≤ r → st = 0b00101 ∧
        v = word (b2n s * 2 ^ 35 + if d = .towardZero ∨ (d = .towardMinus ∧ s = false) ∨ (d = .towardPlus ∧ s = true) then 511 * 2 ^ 26 - 1
          else 511 * 2 ^ 26))

/-- How `n` compares with twice `p / q`. -/
def cmpRatio (p q n : Nat) : Ordering := compare (n * q) (2 * p)

/-- How `n` compares with twice the square root of `p`. -/
def cmpRoot (p n : Nat) : Ordering := compare (n * n) (4 * p)

/-- FP36 operation `k` on words `b` and `c` is invalid (R160). -/
def FpInvalid (k : FpKind) (b c : Word) : Prop :=
  match k, fpUnpack b, fpUnpack c with
  | .fadd, .inf x, .inf y => x ≠ y
  | .fsub, .inf x, .inf y => x = y
  | .fmul, .inf _, .fin _ m _ => m = 0
  | .fmul, .fin _ m _, .inf _ => m = 0
  | .fdiv, .inf _, .inf _ => True
  | .fdiv, .fin _ m _, .fin _ q _ => m = 0 ∧ q = 0
  | .fsqrt, .inf x, _ => x = true
  | .fsqrt, .fin x m _, _ => x = true ∧ m ≠ 0
  | _, _, _ => False

/-- Branch `i` of header `h` retires to `target`, writes the link register when `link` says so, and leaves the machine as it was but for its
context, the branch predictor and the model's counter of free values. -/
def BranchesTo (i : Instr) (h : Hd) (s t : State) (target : Word) (link : Bool) : Prop :=
  ∃ u, exec i s = .next u
    ∧ u.ctx h.ctx = { retired (if link then (s.ctx h.ctx).gset linkReg (nextAddr h s) else s.ctx h.ctx) target with
        history := (u.ctx h.ctx).history, retStack := (u.ctx h.ctx).retStack, retTop := (u.ctx h.ctx).retTop
        checks := (u.ctx h.ctx).checks, early := (u.ctx h.ctx).early }
    ∧ (∀ m, m ≠ h.ctx → u.ctx m = t.ctx m)
    ∧ u = { t with ctxs := u.ctxs, preds := u.preds, free := u.free }

/-- The lines that the frame of exception `e` of context `n` takes below ESC, once what the entry begins with is done, or the REASON why it
cannot be pushed (R269). -/
def pushAt (s : State) (n : Nat) (e : Exc) : Except Nat (List (Nat × Bool)) × State :=
  (s.entryBegins n e).frameAt n true (((s.ctx n).esc.cursor.toNat : Int) - 144)

/-- Requester `r` may access part `p` of register word `n`, and the unit is not denied (R33 to R35, R608, R622). -/
def PartOpen (s : State) (r : Requester) (n : Nat) (p : Part) : Prop :=
  (s.heard r).canAccess r n p permLoad = true ∧ (s.heard r).canAccess r n p permStore = true ∧ (s.heard r).regDenied n = false ∧ p ≠ .other

/-- Requester `r` may access the whole of register word `n`. -/
def RegOpen (s : State) (r : Requester) (n : Nat) : Prop := PartOpen s r n .full

/-- The service core carries out no critical carriage and no requested lease break waits: BSU_LEASEBRK is not BUSY (R594, R595). -/
def BreakFree (s : State) : Prop := s.bsu.brk = none ∧ s.bsu.job = none ∧ s.pmu.job = none

/-- The command `i` leaves `s` as it was. -/
def Ignored (i : Instr) (s : State) : Prop := exec i s = .next s

/-- Carriage `c` of a submission ring completes on the way from `s` to `u` (R418 to R423): when its record is the next of its ring, it
is wanted, and its function sends, the record that goes out carries the status, the opcode, SEQ and INFO, and its ring. -/
def Answered (s u : State) (c : Carriage) (status : Nat) (info : List Octet) : Prop :=
  ∀ n q, n < 4 → c.origin = .ring n → (s.rings c.tenant).slots n = [⟨c.id, q, none⟩] → s.fnSends c.tenant = true →
    (s.port (portOf c.tenant)).frozen = false → (status ≠ 0 ∨ (hFlags c.header).testBit 1 = true) →
    ∃ before after i o, u.outbox = s.outbox ++ before ++ [.record c.tenant q i o] ++ after ∧
      o.take 15 = [BitVec.ofNat 8 status, BitVec.ofNat 8 c.op] ++ octetsLe 6 (hSeq c.header) ++ (info ++ List.replicate 7 0).take 7 ∧
      (o.getD 15 0).toNat % 128 = n

/-- The service core carries out no carriage, no requested lease break waits (R595), and `c` is the next of its queue, with opcode `op`
(R414, R438). -/
def Serves (s : State) (c : Carriage) (op : Nat) : Prop := s.svcIdle = true ∧ s.bsu.brk = none ∧ s.rng.svcQ.head? = some c ∧ c.op = op

/-- `c` is the next critical carriage of the EAU, when the service core has handed on what it can, with opcode `op` (R27, R454). -/
def EauTakes (s : State) (c : Carriage) (op : Nat) : Prop := s.handOver.rng.eauQ.head? = some c ∧ c.op = op

/-- Bank `b` of the EAU handles `c`, the head of the staging queue that its token gives, with opcode `op` (R583), and no error waits in an
on-die table (R661). -/
def BankTakes (s : State) (b : Nat) (c : Carriage) (op : Nat) : Prop :=
  s.ras.tbl = [] ∧ ∃ p, s.stagedPort b = some p ∧ (s.stagingQ p b).head? = some c ∧ c.op = op

/-- `s` with an error in the entry that the next access of on-die table `t` reads (R661). -/
def withTableError (s : State) (t : Nat) (err : TblErr) : State := { s with ras := { s.ras with tbl := [(t, err)] } }

/-- No hardware error waits in a copy of a line, no channel is offlined, and lines `lo` to `hi` - 1 are populated, hold no poison, in the
copies or at their homes, and lie outside the error ring. -/
def PlainLines (s : State) (lo hi : Nat) : Prop :=
  s.mem.upsets = [] ∧ s.mem.gone = [] ∧ hi ≤ s.popLines
    ∧ ∀ l, lo ≤ l → l < hi → s.mem.poisoned l = false ∧ (s.mem.home l).bad = false ∧ inErrorRing s (48 * l) = false

/-- No hardware error waits, no channel is offlined, nothing waits to be recorded, and no copy and no home of a line is poisoned. -/
def NoErrors (s : State) : Prop :=
  Unharmed s ∧ s.mem.gone = [] ∧ s.mem.notes = [] ∧ (∀ l, s.mem.poisoned l = false)
    ∧ (∀ l h, tget none s.mem.stale l = some h → h.bad = false) ∧ ∀ l h, tget none s.mem.mid l = some h → h.bad = false

/-- On the way from `s` to `u` an error of class `cls` is recorded: when no record of the class waits, a new one, which takes the next SEQ
(R655, R659). -/
def Recorded (s u : State) (cls sev unit detail : Nat) : Prop :=
  tget none s.ras.wait cls = none → ∃ r, tget none u.ras.wait cls = some r ∧
    r.cls = cls ∧ r.sev = sev ∧ r.unit = unit ∧ r.detail = detail ∧ r.seq = s.ras.next ∧ r.count = 1

/-- What no command may undo (R636, R639, R641): the part, the key hashes and the key-encryption key of the fuses, the revocation fuses
that are set in `f`, and a minimum version of at least `v`. -/
def Sealed (hw : Hw) (f : Fuses) (v : Nat) (s : State) : Prop :=
  s.hw = hw ∧ s.bsu.fuses.vendor = f.vendor ∧ s.bsu.fuses.owner = f.owner ∧ s.bsu.fuses.kek = f.kek ∧ v ≤ s.bsu.flash.minver ∧
    ∀ i, f.revoked.testBit i = true → s.bsu.fuses.revoked.testBit i = true

/-- The header of a command that is an instruction of a context. -/
def headOf : Instr → Option Hd
  | .add h _ => some h
  | .sub h _ => some h
  | .and h _ => some h
  | .or h _ => some h
  | .xor h _ => some h
  | .shl h _ => some h
  | .shr h _ => some h
  | .sar h _ => some h
  | .rol h _ => some h
  | .ror h _ => some h
  | .mul h _ => some h
  | .mulh h _ => some h
  | .div h _ => some h
  | .rem h _ => some h
  | .fadd h _ => some h
  | .fsub h _ => some h
  | .fmul h _ => some h
  | .fdiv h _ => some h
  | .fsqrt h _ => some h
  | .fcmp h _ => some h
  | .mov h _ => some h
  | .cmp h _ => some h
  | .tst h _ => some h
  | .popc h _ => some h
  | .clz h _ => some h
  | .sel h _ _ _ => some h
  | .fext h _ => some h
  | .fextS h _ => some h
  | .fins h _ => some h
  | .ldb h _ => some h
  | .ldh h _ => some h
  | .ldw h _ => some h
  | .ldd h _ => some h
  | .ldc h _ => some h
  | .stb h _ => some h
  | .sth h _ => some h
  | .stw h _ => some h
  | .std h _ => some h
  | .stc h _ => some h
  | .atomicSwap h _ => some h
  | .atomicAdd h _ => some h
  | .atomicAnd h _ => some h
  | .atomicOr h _ => some h
  | .atomicXor h _ => some h
  | .atomicSmin h _ => some h
  | .atomicSmax h _ => some h
  | .cas h _ => some h
  | .br h _ => some h
  | .call h _ => some h
  | .brR h _ => some h
  | .callR h _ => some h
  | .ret h => some h
  | .cbound h _ _ _ => some h
  | .crestrict h _ _ _ => some h
  | .cseal h _ _ _ => some h
  | .cunseal h _ _ _ => some h
  | .cget h _ _ _ => some h
  | .csetc h _ _ _ => some h
  | .cmove h _ _ => some h
  | .cgets h _ _ => some h
  | .csets h _ _ => some h
  | .cjump h _ _ _ => some h
  | .getsr h _ _ => some h
  | .setsr h _ _ => some h
  | .blkmove h _ => some h
  | .blkfill h _ => some h
  | .matchWords h _ => some h
  | .cleanA h _ _ => some h
  | .invA h _ _ => some h
  | .cleanS h _ => some h
  | .invpg h _ => some h
  | .invwalk h => some h
  | .invblk h _ => some h
  | .fenceM h => some h
  | .fenceL h => some h
  | .fenceI h => some h
  | .fenceT h => some h
  | .eret h => some h
  | .wait h => some h
  | .trap h _ => some h
  | .eoi h _ => some h
  | .sgi h _ => some h
  | .alarm h _ => some h
  | .take h _ _ => some h
  | .decide h _ _ _ => some h
  | .done h _ => some h
  | .nop h => some h
  | .customerInstruction h _ => some h
  | .illegal _ _ => none
  | .longOpComplete _ _ => none
  | .customerRoutineLimit _ => none
  | .mergeEntryIdle _ _ => none
  | .mergeEntryDrain _ _ => none
  | .asyncStoreError _ => none
  | .predFlush _ _ => none
  | .predFlushDone _ => none
  | .restart _ _ => none
  | .glbLockSet _ => none
  | .registerWrite _ _ _ _ => none
  | .rcFieldRead _ _ _ => none
  | .tbuNowLoRead _ _ => none
  | .pmuResLowRead _ _ _ => none
  | .beatFrame _ _ => none
  | .commandFrame _ _ => none
  | .idleFrame _ => none
  | .blockLockLoss _ => none
  | .linkFail _ => none
  | .acquireTimeout _ => none
  | .quietStart => none
  | .quietEnd => none
  | .quietWindowExpiry => none
  | .throttleOn => none
  | .throttleOff => none
  | .turnReset => none
  | .resync => none
  | .cal => none
  | .alarmFire _ => none
  | .deadlineDue _ => none
  | .sourceArrival _ => none
  | .levelLineChange _ _ => none
  | .interruptDelivery => none
  | .interruptAccept _ _ => none
  | .icuClockStop => none
  | .icuClockRestart _ => none
  | .icuEditAcquire _ _ => none
  | .icuEditCommit _ => none
  | .icuEditAbort _ => none
  | .icuLeaseExpiry => none
  | .sqTailWrite _ _ _ => none
  | .cqHeadWrite _ _ _ => none
  | .ringLeaseAcquire _ _ => none
  | .ringLeaseCommit _ => none
  | .ringLeaseAbort _ => none
  | .ringLeaseExpiry _ => none
  | .carriageFetch _ => none
  | .readCompletion _ _ _ => none
  | .completionTimeout _ _ => none
  | .apertureWrite _ _ _ => none
  | .apertureTimeout _ _ => none
  | .keyEngineCheck => none
  | .unknownOpcode _ => none
  | .fragment _ => none
  | .mailbox _ => none
  | .task _ => none
  | .profileSet => none
  | .poolSet => none
  | .quotaSet => none
  | .profileReleaseComplete _ => none
  | .poolDrainCommit _ => none
  | .profileLeaseExpiry _ => none
  | .poolLeaseExpiry _ => none
  | .assemblyDeadline _ => none
  | .spentEntryExpiry _ => none
  | .victimKeyExpiry _ => none
  | .closeQueueEntry _ => none
  | .dduAccept => none
  | .takeGrant => none
  | .eventShed _ => none
  | .decisionRelease _ _ => none
  | .fragmentCarriageNop _ => none
  | .devidSet => none
  | .power => none
  | .powerQuietTimeout => none
  | .powerEntryStart => none
  | .patchLoad _ => none
  | .decodeLoad _ => none
  | .microcodeFlip _ => none
  | .keyRoll => none
  | .tenantKill => none
  | .tenantRevive => none
  | .releaseCore => none
  | .coreRelease _ => none
  | .msixPendingSend _ _ => none
  | .linkUp _ _ _ => none
  | .linkDown _ => none
  | .hotReset _ => none
  | .freeze _ _ => none
  | .poisonedWrite _ _ => none
  | .functionLevelReset _ => none
  | .vfEnableClear _ => none
  | .busMasterEnableClear _ => none
  | .busMasterEnableSet _ => none
  | .d3hotEntry _ => none
  | .d0Return _ => none
  | .aspmL1Entry _ => none
  | .quarantineEnd _ => none
  | .freezeLeaseExpiry _ => none
  | .hpcUnfreezeGo _ => none
  | .hpcUnfreezeDrop _ => none
  | .ptmDialog _ => none
  | .ptmPeriod _ => none
  | .ptmResponse _ _ _ => none
  | .ptmTimeout _ => none
  | .perBankRefresh _ _ => none
  | .mr4Read _ _ => none
  | .neighbourRefresh _ _ => none
  | .writeAgeExpiry _ => none
  | .retrainingPauseDue _ => none
  | .retrainingPause _ _ _ => none
  | .scrubRead _ _ => none
  | .eccWriteback _ => none
  | .dmcMaintAcquire _ => none
  | .dmcMaintCommit _ => none
  | .dmcMaintAbort _ => none
  | .dmcLeaseExpiry => none
  | .frequencyChange _ _ => none
  | .scbankChangeDone _ => none
  | .leaseBreakIcu _ => none
  | .leaseBreakRing _ _ => none
  | .leaseBreakProfile _ _ => none
  | .leaseBreakPool _ _ => none
  | .leaseBreakDram _ => none
  | .leaseBreakFreeze _ _ => none
  | .bsuWdogWrite => none
  | .watchdogExpiry _ _ => none
  | .fabricTimeout _ => none
  | .crossingFlush _ => none
  | .thermalAlert _ => none
  | .thermalTrip _ => none
  | .thermalHoldEnd => none
  | .deviceFatalError _ _ => none
  | .pwrOkRise _ => none
  | .pwrOkFall => none
  | .recoveryImageLoad _ _ => none
  | .wakeEvent _ => none
  | .brownOut => none
  | .beatEdge => none
  | .discardedFrame _ _ => none
  | .blockLockAcquired _ => none
  | .pmeTurnOffHandshake _ => none
  | .pmeTurnOffTimeout _ => none
  | .hp0WakeNTimeout => none
  | .hostPortPerstN _ _ => none
  | .icuStatusRead _ _ => none

end Sys2Proof.Safety
end

