-- ==== Sys2Proof/Certificates/Slice0/Obligations.lean ====
section
/-!
DEFINITION. The statements about the model, each a proposition named `Obligations.<Name>`. A docstring names the rules of spec/ that
a statement formalises; where a statement has several parts, each part's comment names the rules of that part.
-/

open Sys2Proof Sys2Proof.Machine Sys2Proof.Safety

/-! ### One step -/

/-- A step takes the command at the front of the queue and runs it on the machine with the rest of the queue. -/
def Obligations.StepRunsTheFrontCommand : Prop :=
  ∀ (s : State) (c : Instr) (rest : List Instr),
    step { s with pending := c :: rest } = exec c { s with pending := rest }

/-- A command changes everything but the queue of the commands that wait. -/
def Obligations.CommandsLeaveTheQueue : Prop :=
  ∀ (i : Instr) (s u : State), exec i s = .next u → u.pending = s.pending

/-- The model ends no run: every command of the table has a next state in every state, and a step on an empty queue changes nothing
while no running DRAM channel has a write waiting (the model's choice, log entry 2). -/
def Obligations.EveryCommandHasANextState : Prop :=
  (∀ (i : Instr) (s : State), ∃ t, exec i s = .next t) ∧
  ∀ s : State, s.pending = [] → (∀ c, (s.chan c).st = .running → (s.chan c).wq = []) → step s = .next s

/-! ### Instructions -/

/-- Instructions whose condition is false, and encodings that break a rule. -/
def Obligations.FalseConditionsAndIllegalEncodings : Prop :=
  -- R117: an instruction whose condition is false retires without effect. SEL executes always, and the branches are stated apart.
  (∀ (i : Instr) (h : Hd) (s t : State), headOf i = some h → i.wf = true → Fetched h s t →
     condHolds h.cond (s.ctx h.ctx) = false →
     (match i with | .sel .. | .br .. | .call .. | .brR .. | .callR .. | .ret .. | .customerInstruction .. => false | _ => true) = true →
     RetiresWith i h s t (s.ctx h.ctx)) ∧
  -- R117, R118, R136: a customer instruction that its decode word does not admit is Illegal whatever its condition; one that it admits
  -- and whose condition is false retires without effect.
  (∀ (h : Hd) (o : CustOp) (s t : State), (h.wf && o.wf) = true → Fetched h s t →
     let k := s.core (coreOf h.ctx)
     let w := (if k.h1.st = .active then k.h1 else k.h0).table.getD o.entry 0
     (s.ctx h.ctx).routine = none →
     (custOk s o w = false → Raises (.customerInstruction h o) h s t 1 0) ∧
     (custOk s o w = true → condHolds h.cond (s.ctx h.ctx) = false → RetiresWith (.customerInstruction h o) h s t (s.ctx h.ctx))) ∧
  -- R118: an encoding that breaks a rule of the encoding chapter raises Illegal, whether its condition is true or false.
  (∀ (i : Instr) (h : Hd) (s t : State), headOf i = some h → i.wf = false → Fetched h s t → Raises i h s t 1 0)

/-- The results and flags of the arithmetic and logic operations. -/
def Obligations.IntegerResults : Prop :=
  -- R150: ADD, SUB, AND, OR and XOR, at every operand width.
  (∀ (h : Hd) (o : AluOp) (s t : State),
     let c := s.ctx h.ctx
     let w := wbits o.wid
     let b := c.val o.wid o.b
     let x := c.srcVal o.wid false o.src
     let z := c.srcVal o.wid true o.src
     (Executes (.add h o) h s t →
       RetiresWith (.add h o) h s t (wrote c o (BitVec.ofNat w (b.toNat + x.toNat)) (decide (2 ^ w ≤ b.toNat + x.toNat))
         (decide (b.toInt + x.toInt < -2 ^ (w - 1) ∨ 2 ^ (w - 1) ≤ b.toInt + x.toInt)))) ∧
     (Executes (.sub h o) h s t →
       RetiresWith (.sub h o) h s t (wrote c o (BitVec.ofInt w (b.toInt - x.toInt)) (decide (x.toNat ≤ b.toNat))
         (decide (b.toInt - x.toInt < -2 ^ (w - 1) ∨ 2 ^ (w - 1) ≤ b.toInt - x.toInt)))) ∧
     (Executes (.and h o) h s t → RetiresWith (.and h o) h s t (wrote c o (b &&& z) false false)) ∧
     (Executes (.or h o) h s t → RetiresWith (.or h o) h s t (wrote c o (b ||| z) false false)) ∧
     (Executes (.xor h o) h s t → RetiresWith (.xor h o) h s t (wrote c o (b ^^^ z) false false))) ∧
  -- R150: SHL, SHR and SAR; s is the low six bits of the second source.
  (∀ (h : Hd) (o : AluOp) (s t : State),
     let c := s.ctx h.ctx
     let w := wbits o.wid
     let b := c.val o.wid o.b
     let n := (c.srcVal o.wid false o.src).toNat % 64
     (Executes (.shl h o) h s t →
       RetiresWith (.shl h o) h s t (wrote c o (BitVec.ofNat w (b.toNat * 2 ^ n))
         (decide (0 < n ∧ n ≤ w) && b.getLsbD (w - n)) false)) ∧
     (Executes (.shr h o) h s t →
       RetiresWith (.shr h o) h s t (wrote c o (BitVec.ofNat w (b.toNat / 2 ^ n))
         (decide (0 < n ∧ n ≤ w) && b.getLsbD (n - 1)) false)) ∧
     (Executes (.sar h o) h s t →
       RetiresWith (.sar h o) h s t (wrote c o (BitVec.ofInt w (b.toInt / 2 ^ n))
         (decide (0 < n) && (if w ≤ n then b.msb else b.getLsbD (n - 1))) false))) ∧
  -- R150: ROL, ROR and MUL.
  (∀ (h : Hd) (o : AluOp) (s t : State),
     let c := s.ctx h.ctx
     let w := wbits o.wid
     let b := c.val o.wid o.b
     let x := c.srcVal o.wid false o.src
     let n := x.toNat % 64 % w
     (Executes (.rol h o) h s t →
       RetiresWith (.rol h o) h s t (wrote c o (BitVec.ofNat w (b.toNat * 2 ^ n + b.toNat / 2 ^ (w - n)))
         (decide (0 < n) && b.getLsbD (w - n)) false)) ∧
     (Executes (.ror h o) h s t →
       RetiresWith (.ror h o) h s t (wrote c o (BitVec.ofNat w (b.toNat / 2 ^ n + b.toNat * 2 ^ (w - n)))
         (decide (0 < n) && b.getLsbD (n - 1)) false)) ∧
     (Executes (.mul h o) h s t →
       RetiresWith (.mul h o) h s t (wrote c o (BitVec.ofNat w (b.toNat * x.toNat)) false
         (decide (b.toInt * x.toInt < -2 ^ (w - 1) ∨ 2 ^ (w - 1) ≤ b.toInt * x.toInt))))) ∧
  -- R145, R150: MULH, DIV and REM go in flight and deliver their results when they complete; U selects the unsigned variant.
  (∀ (h : Hd) (o : AluOp) (s t : State),
     let c := s.ctx h.ctx
     let w := wbits o.wid
     let b := c.val o.wid o.b
     let x := c.srcVal o.wid false o.src
     (Executes (.mulh h o) h s t →
       RunsLong (.mulh h o) h s t (fun d => wrote d o
         (if o.u then BitVec.ofNat w (b.toNat * x.toNat / 2 ^ w) else BitVec.ofInt w (b.toInt * x.toInt / 2 ^ w)) false false)) ∧
     (Executes (.div h o) h s t → x ≠ 0 →
       RunsLong (.div h o) h s t (fun d => wrote d o
         (if o.u then BitVec.ofNat w (b.toNat / x.toNat) else BitVec.ofInt w (b.toInt.tdiv x.toInt)) false
         (!o.u && decide (b.toInt = -2 ^ (w - 1)) && decide (x.toInt = -1)))) ∧
     (Executes (.rem h o) h s t → x ≠ 0 →
       RunsLong (.rem h o) h s t (fun d => wrote d o
         (if o.u then BitVec.ofNat w (b.toNat % x.toNat) else BitVec.ofInt w (b.toInt.tmod x.toInt)) false false)))

/-- Division by zero and invalid floating-point operations raise their causes. -/
def Obligations.ArithmeticExceptions : Prop :=
  -- R151: a divisor of zero raises cause 12 when the operation completes, and writes neither A nor the flags; the frame names the
  -- division (R146).
  (∀ (s : State) (n : Nat) (a : Word) (al : Bool) (o : AluOp) (k : LongKind), (k = .div o ∨ k = .rem o) →
     s.mayIssue n = true → (s.ctx n).longOps = [⟨a, k, al⟩] → (s.ctx n).srcVal o.wid false o.src = 0 →
     exec (.longOpComplete n 0) s = .next ((s.setCtx n { s.ctx n with longOps := [] }).enter n
       { cause := 12, fault := a, resume := (s.ctx n).pcc.cursor, imp := true, ops := k.fields }).stopCores) ∧
  -- R160: an invalid operation raises cause 13 when it completes; A is not written, and INV is set.
  (∀ (s : State) (n : Nat) (a : Word) (al : Bool) (o : FpOp) (k : FpKind), k ≠ .fcmp →
     s.mayIssue n = true → (s.ctx n).longOps = [⟨a, .fp k o, al⟩] →
     FpInvalid k ((s.ctx n).gget o.b) ((s.ctx n).gget o.c) →
     ∃ u, OnlyCtx s u n { s.ctx n with longOps := [], fpstat := (s.ctx n).fpstat ||| 0b10000 } ∧
       exec (.longOpComplete n 0) s = .next (u.enter n
         { cause := 13, fault := a, resume := (s.ctx n).pcc.cursor, imp := true, ops := (LongKind.fp k o).fields }).stopCores)

/-- FP36 operations go in flight, deliver their results, and compare. -/
def Obligations.FloatingPointResults : Prop :=
  -- R145, R158: FADD, FSUB, FMUL, FDIV and FSQRT on operands that are not invalid go in flight and complete: A takes the rounded
  -- result, FPSTAT gains its conditions, and no flag changes.
  (∀ (h : Hd) (o : FpOp) (s t : State),
     let b := (s.ctx h.ctx).gget o.b
     let c := (s.ctx h.ctx).gget o.c
     let into := fun (r : FpOut) (v : Word) (d : Ctx) => { d with fpstat := d.fpstat ||| r.stat }.gset o.a v
     (Executes (.fadd h o) h s t → ¬ FpInvalid .fadd b c →
       ∃ v, (fpRes .fadd o.rnd b c).res = some v ∧ RunsLong (.fadd h o) h s t (into (fpRes .fadd o.rnd b c) v)) ∧
     (Executes (.fsub h o) h s t → ¬ FpInvalid .fsub b c →
       ∃ v, (fpRes .fsub o.rnd b c).res = some v ∧ RunsLong (.fsub h o) h s t (into (fpRes .fsub o.rnd b c) v)) ∧
     (Executes (.fmul h o) h s t → ¬ FpInvalid .fmul b c →
       ∃ v, (fpRes .fmul o.rnd b c).res = some v ∧ RunsLong (.fmul h o) h s t (into (fpRes .fmul o.rnd b c) v)) ∧
     (Executes (.fdiv h o) h s t → ¬ FpInvalid .fdiv b c →
       ∃ v, (fpRes .fdiv o.rnd b c).res = some v ∧ RunsLong (.fdiv h o) h s t (into (fpRes .fdiv o.rnd b c) v)) ∧
     (Executes (.fsqrt h o) h s t → ¬ FpInvalid .fsqrt b c →
       ∃ v, (fpRes .fsqrt o.rnd b c).res = some v ∧ RunsLong (.fsqrt h o) h s t (into (fpRes .fsqrt o.rnd b c) v))) ∧
  -- R161: FCMP goes in flight and sets the flags of the relation of B and C.
  (∀ (h : Hd) (o : FpOp) (s t : State), Executes (.fcmp h o) h s t →
     let b := fpUnpack ((s.ctx h.ctx).gget o.b)
     let c := fpUnpack ((s.ctx h.ctx).gget o.c)
     RunsLong (.fcmp h o) h s t (fun d => d.withNzcv
       (if b = .nan ∨ c = .nan then ⟨false, false, true, false⟩
        else ⟨decide (fpScaled b < fpScaled c), decide (fpScaled b = fpScaled c), false, false⟩)))

/-- What the FP36 results are: the exact value rounded once, its special cases, and NaN. -/
def Obligations.FloatingPointValuesAreRoundedOnce : Prop :=
  -- R158, R160: finite operands: the exact sum, difference, product, quotient or root, rounded once in the direction of the instruction.
  (∀ (d : Rnd) (b c : Word) (x y : Bool) (m n : Nat) (e f : Int), fpUnpack b = .fin x m e → fpUnpack c = .fin y n f →
     let p := fpScaled (.fin x m e)
     let q := fpScaled (.fin y n f)
     let is := fun (r : FpOut) (s : Bool) (cmp : Nat → Ordering) => ∃ v, r.res = some v ∧ FpRounds d s cmp v r.stat
     (p + q ≠ 0 → is (fpRes .fadd d b c) (decide (p + q < 0)) (cmpRatio (p + q).natAbs 1)) ∧
     (p - q ≠ 0 → is (fpRes .fsub d b c) (decide (p - q < 0)) (cmpRatio (p - q).natAbs 1)) ∧
     is (fpRes .fmul d b c) (x != y) (cmpRatio (p * q).natAbs (2 ^ 280)) ∧
     (n ≠ 0 → is (fpRes .fdiv d b c) (x != y) (cmpRatio (p.natAbs * 2 ^ 280) q.natAbs)) ∧
     (0 ≤ p → is (fpRes .fsqrt d b c) x (cmpRoot (p.natAbs * 2 ^ 280)))) ∧
  -- R160: an exact zero sum, the zero divisor, the invalid operations, and the infinities.
  (∀ (d : Rnd) (b c : Word),
     let p := fpUnpack b
     let q := fpUnpack c
     let zero := fun (s : Bool) => (⟨some (word (b2n s * 2 ^ 35)), 0⟩ : FpOut)
     let inf := fun (s : Bool) (st : BitVec 5) => (⟨some (word (b2n s * 2 ^ 35 + 511 * 2 ^ 26)), st⟩ : FpOut)
     (∀ k, k ≠ .fcmp → FpInvalid k b c → fpRes k d b c = ⟨none, 0b10000⟩) ∧
     (∀ x y m n e f, p = .fin x m e → q = .fin y n f →
       (fpScaled p + fpScaled q = 0 → fpRes .fadd d b c = zero (decide (d = .towardMinus))) ∧
       (fpScaled p - fpScaled q = 0 → fpRes .fsub d b c = zero (decide (d = .towardMinus))) ∧
       (m ≠ 0 → n = 0 → fpRes .fdiv d b c = inf (x != y) 0b01000)) ∧
     (∀ x y n f, p = .inf x → q = .fin y n f → fpRes .fadd d b c = inf x 0 ∧ fpRes .fsub d b c = inf x 0 ∧
       (n ≠ 0 → fpRes .fmul d b c = inf (x != y) 0) ∧ fpRes .fdiv d b c = inf (x != y) 0) ∧
     (∀ x y m e, p = .fin x m e → q = .inf y → fpRes .fadd d b c = inf y 0 ∧ fpRes .fsub d b c = inf (!y) 0 ∧
       (m ≠ 0 → fpRes .fmul d b c = inf (x != y) 0) ∧ fpRes .fdiv d b c = zero (x != y)) ∧
     (∀ x y, p = .inf x → q = .inf y → (x = y → fpRes .fadd d b c = inf x 0) ∧ (x ≠ y → fpRes .fsub d b c = inf x 0) ∧
       fpRes .fmul d b c = inf (x != y) 0) ∧
     (p = .inf false → fpRes .fsqrt d b c = inf false 0)) ∧
  -- R159: a NaN operand gives the canonical NaN, sets no FPSTAT bit and raises no exception; every result that is a NaN is the canonical
  -- one.
  (∀ (m : Rnd) (b c : Word), ∀ k ∈ [FpKind.fadd, .fsub, .fmul, .fdiv, .fsqrt],
     (fpUnpack b = .nan ∨ (k ≠ .fsqrt ∧ fpUnpack c = .nan) → fpRes k m b c = ⟨some (word 0o377600000000), 0⟩) ∧
     (∀ v, (fpRes k m b c).res = some v → fpUnpack v = .nan → v = word 0o377600000000))

/-- Moves, comparisons, counts, selection and bit fields. -/
def Obligations.MoveCountAndFieldResults : Prop :=
  -- R153: MOV, CMP and TST, and SEL, which executes whatever its condition.
  (∀ (h : Hd) (o : MoveOp) (a b x : GReg) (s t : State),
     let c := s.ctx h.ctx
     let w := wbits o.wid
     let v := c.val o.wid o.a
     let y := c.srcVal o.wid false o.src
     (Executes (.mov h o) h s t → RetiresWith (.mov h o) h s t (c.putVal o.wid o.a y)) ∧
     (Executes (.cmp h o) h s t →
       RetiresWith (.cmp h o) h s t (c.withNzcv (flagsOf (BitVec.ofInt w (v.toInt - y.toInt)) (decide (y.toNat ≤ v.toNat))
         (decide (v.toInt - y.toInt < -2 ^ (w - 1) ∨ 2 ^ (w - 1) ≤ v.toInt - y.toInt))))) ∧
     (Executes (.tst h o) h s t →
       RetiresWith (.tst h o) h s t (c.withNzcv (flagsOf (v &&& c.srcVal o.wid true o.src) false false))) ∧
     (h.wf = true → Fetched h s t →
       RetiresWith (.sel h a b x) h s t (c.gset a (if condHolds h.cond c then c.gget b else c.gget x)))) ∧
  -- R153: POPC counts the one bits and CLZ the leading zero bits of the source; Z follows the count and N is 0.
  (∀ (h : Hd) (o : MoveOp) (s t : State),
     let c := s.ctx h.ctx
     let w := wbits o.wid
     let y := c.srcVal o.wid false o.src
     (Executes (.popc h o) h s t →
       let r := (List.range w).countP (fun i => y.getLsbD i)
       RetiresWith (.popc h o) h s t { c.putVal o.wid o.a (BitVec.ofNat w r) with z := decide (r = 0), n := false }) ∧
     (Executes (.clz h o) h s t →
       ∃ r, r ≤ w ∧ (∀ i, i < r → y.getLsbD (w - 1 - i) = false) ∧ (r < w → y.getLsbD (w - 1 - r) = true) ∧
         RetiresWith (.clz h o) h s t { c.putVal o.wid o.a (BitVec.ofNat w r) with z := decide (r = 0), n := false })) ∧
  -- R153, R127: FEXT, FEXT.S and FINS, bit by bit; N and Z are set from A.
  (∀ (h : Hd) (o : FieldOp) (s t : State),
     let c := s.ctx h.ctx
     let p := o.p.toNat
     let w := o.w.toNat
     let b := c.gget o.b
     let done := fun (i : Instr) (v : Word) => RetiresWith i h s t { c.gset o.a v with n := v.msb, z := decide (v = 0) }
     (Executes (.fext h o) h s t →
       ∃ v, done (.fext h o) v ∧ ∀ i, i < 36 → v.getLsbD i = (decide (i < w) && b.getLsbD (p + i))) ∧
     (Executes (.fextS h o) h s t →
       ∃ v, done (.fextS h o) v ∧ ∀ i, i < 36 → v.getLsbD i = b.getLsbD (if i < w then p + i else p + w - 1)) ∧
     (Executes (.fins h o) h s t →
       ∃ v, done (.fins h o) v ∧
         ∀ i, i < 36 → v.getLsbD i = if p ≤ i ∧ i < p + w then b.getLsbD (i - p) else (c.gget o.a).getLsbD i))

/-! ### Loads, stores and atomic accesses -/

/-- Loads and stores: what an access that succeeds, and one that fails, leaves in the context. -/
def Obligations.LoadsAndStores : Prop :=
  -- R162, R163: a load whose access succeeds writes its destination, zero-extended, and nothing else of its context.
  (∀ (h : Hd) (o : MemOp) (s t t1 : State) (v : Loaded),
     let c := s.ctx h.ctx
     let done := fun (i : Instr) (size align : Nat) (reg : Bool) (d : Ctx) =>
       Executes i h s t → t.load h.ctx (c.kget o.auth) [permLoad] (c.ea o.b o.idx) size align reg = (.ok v, t1) →
         t1.ctx h.ctx = c → NoStop t1 → RetiresWith i h s t1 d
     done (.ldb h o) 1 1 false (c.gset o.a (bytesWord v.bytes)) ∧
     done (.ldh h o) 2 1 false (c.gset o.a (bytesWord v.bytes)) ∧
     done (.ldw h o) 4 1 true (c.gset o.a (bytesWord v.bytes)) ∧
     done (.ldd h o) 8 1 false ((c.gset o.a (bytesWord (v.bytes.take 4))).gset (o.a + 1) (bytesWord (v.bytes.drop 4))) ∧
     done (.ldc h o) 16 16 false (c.kset (kreg o.a)
       (capOf v.bytes ((List.range 4).all (fun i => t1.seenTag h.ctx (v.pa / 4 + i)) && (c.kget o.auth).perm permLoadCap)))) ∧
  -- R163, R214: a store whose access succeeds writes no register.
  (∀ (h : Hd) (o : MemOp) (s t t1 : State),
     let c := s.ctx h.ctx
     let v := c.kget (kreg o.a)
     let done := fun (i : Instr) (perms : List Nat) (align : Nat) (bs : List Byte) (tag reg : Bool) =>
       Executes i h s t → NoReturn t1 h.ctx → NoStop t1 →
         t.store h.ctx (c.kget o.auth) perms (c.ea o.b o.idx) align bs tag reg = (.ok (), t1) → RetiresWith i h s t1 (t1.ctx h.ctx)
     done (.stb h o) [permStore] 1 (wordBytes 1 (c.gget o.a)) false false ∧
     done (.sth h o) [permStore] 1 (wordBytes 2 (c.gget o.a)) false false ∧
     done (.stw h o) [permStore] 1 (wordBytes 4 (c.gget o.a)) false true ∧
     done (.std h o) [permStore] 1 (wordBytes 4 (c.gget o.a) ++ wordBytes 4 (c.gget (o.a + 1))) false false ∧
     done (.stc h o) (if v.tag then [permStore, permStoreCap] else [permStore]) 16 v.bytes v.tag false) ∧
  -- R241, R277: a load or store whose access fails raises the cause, with the failing address in DATA, and writes no register.
  (∀ (h : Hd) (o : MemOp) (s t t1 : State) (f : Flt),
     let c := s.ctx h.ctx
     let raises := fun (i : Instr) => exec i s = .next (t1.enter h.ctx
       { cause := f.cause, fault := c.pcc.cursor, resume := c.pcc.cursor, data := f.data, split := f.split, info := f.info }).stopCores
     let load := fun (i : Instr) (size align : Nat) (reg : Bool) =>
       Executes i h s t → t1.ctx h.ctx = c → NoStop t1 →
         t.load h.ctx (c.kget o.auth) [permLoad] (c.ea o.b o.idx) size align reg = (.error f, t1) → raises i
     let v := c.kget (kreg o.a)
     let store := fun (i : Instr) (perms : List Nat) (align : Nat) (bs : List Byte) (tag reg : Bool) =>
       Executes i h s t → t1.ctx h.ctx = c → NoStop t1 →
         t.store h.ctx (c.kget o.auth) perms (c.ea o.b o.idx) align bs tag reg = (.error f, t1) → raises i
     load (.ldb h o) 1 1 false ∧ load (.ldh h o) 2 1 false ∧ load (.ldw h o) 4 1 true ∧ load (.ldd h o) 8 1 false ∧
     load (.ldc h o) 16 16 false ∧
     store (.stb h o) [permStore] 1 (wordBytes 1 (c.gget o.a)) false false ∧
     store (.sth h o) [permStore] 1 (wordBytes 2 (c.gget o.a)) false false ∧
     store (.stw h o) [permStore] 1 (wordBytes 4 (c.gget o.a)) false true ∧
     store (.std h o) [permStore] 1 (wordBytes 4 (c.gget o.a) ++ wordBytes 4 (c.gget (o.a + 1))) false false ∧
     store (.stc h o) (if v.tag then [permStore, permStoreCap] else [permStore]) 16 v.bytes v.tag false) ∧
  -- R241: the order of the checks on the authorising capability; the first that fails gives the cause, and nothing is accessed.
  (∀ (s : State) (n : Nat) (k : Cap) (perms : List Nat) (ea size align : Nat) (reg : Bool),
     let hi := min (k.base.toNat + k.len.toNat) (2 ^ 36)
     let fails : Nat → Prop := fun x => s.load n k perms ea size align reg = (.error { cause := x, data := ea }, s)
     (k.tag = false → fails 3) ∧
     (k.tag = true → k.otype ≠ 0 → fails 5) ∧
     (k.tag = true → k.otype = 0 → s.dead k.tenant = true → fails 6) ∧
     (k.tag = true → k.otype = 0 → s.dead k.tenant = false → (∃ p ∈ perms, k.perm p = false) → fails 2) ∧
     (k.tag = true → k.otype = 0 → s.dead k.tenant = false → (∀ p ∈ perms, k.perm p = true) →
       ((ea < k.base.toNat ∨ hi < ea + size) → fails 4) ∧
       (k.base.toNat ≤ ea → ea + size ≤ hi → ea % align ≠ 0 → fails 7) ∧
       (k.base.toNat ≤ ea → ea + size ≤ hi → ea % align = 0 → (s.ctx n).findBlock (ea / 48) = none → fails 8)))

/-- A fetch keeps memory, and a load of a direct block delivers the bytes that its context sees. -/
def Obligations.DirectLoadsDeliverWhatTheContextSees : Prop :=
  -- R139, R140: what a fetch may change: memory words never, but for the error ring.
  (∀ (h : Hd) (s t : State), Fetched h s t → s.mem.gone = [] → SameUnits s t ∧ SameBytes s t) ∧
  -- R162, R163, R213: a load of one line of a direct block delivers the bytes that its context sees there.
  (∀ (h : Hd) (o : MemOp) (s t : State) (pa : Nat),
     let c := s.ctx h.ctx
     let at_ := fun (size align : Nat) =>
       Direct t h.ctx (c.kget o.auth) [permLoad] (c.ea o.b o.idx) size align pa ∧ Sound t (pa / 48)
     let bs := seenBytes t h.ctx pa
     let same := fun (u : State) => SameBytes t u
     (Executes (.ldb h o) h s t → at_ 1 1 → RetiresBeside (.ldb h o) h s t (c.gset o.a (bytesWord (bs 1))) same) ∧
     (Executes (.ldh h o) h s t → at_ 2 1 → RetiresBeside (.ldh h o) h s t (c.gset o.a (bytesWord (bs 2))) same) ∧
     (Executes (.ldw h o) h s t → at_ 4 1 → RetiresBeside (.ldw h o) h s t (c.gset o.a (bytesWord (bs 4))) same) ∧
     (Executes (.ldd h o) h s t → at_ 8 1 → RetiresBeside (.ldd h o) h s t
       ((c.gset o.a (bytesWord ((bs 8).take 4))).gset (o.a + 1) (bytesWord ((bs 8).drop 4))) same) ∧
     (Executes (.ldc h o) h s t → at_ 16 16 → RetiresBeside (.ldc h o) h s t (c.kset (kreg o.a)
       (capOf (bs 16) ((List.range 4).all (fun i => t.seenTag h.ctx (pa / 4 + i)) && (c.kget o.auth).perm permLoadCap))) same))

/-- R58, R59, R163, R213, R361: a store to one line of a direct block: its context then sees the stored bytes and their tags, and
every other byte as before, but for those that a full merging buffer drains and those of the error ring. -/
def Obligations.DirectStoresWriteTheirBytesAlone : Prop :=
  ∀ (h : Hd) (o : MemOp) (s t : State) (pa : Nat),
    let c := s.ctx h.ctx
    let v := c.kget (kreg o.a)
    let done := fun (i : Instr) (perms : List Nat) (align : Nat) (bs : List Byte) (tag : Bool) =>
      Executes i h s t → t.mem.gone = [] → pa % align = 0 → Direct t h.ctx (c.kget o.auth) perms (c.ea o.b o.idx) bs.length align pa →
        RetiresBeside i h s t c (fun u =>
          seenBytes u h.ctx pa bs.length = bs ∧
          (∀ j, j < bs.length → u.seenTag h.ctx ((pa + j) / 4) = tag) ∧
          (∀ a, (a < pa ∨ pa + bs.length ≤ a) → inErrorRing t a = false → a ∉ drainedBytes t h.ctx (pa / 48) →
            u.seenByte h.ctx a = t.seenByte h.ctx a))
    done (.stb h o) [permStore] 1 (wordBytes 1 (c.gget o.a)) false ∧
    done (.sth h o) [permStore] 1 (wordBytes 2 (c.gget o.a)) false ∧
    done (.stw h o) [permStore] 1 (wordBytes 4 (c.gget o.a)) false ∧
    done (.std h o) [permStore] 1 (wordBytes 4 (c.gget o.a) ++ wordBytes 4 (c.gget (o.a + 1))) false ∧
    done (.stc h o) (if v.tag then [permStore, permStoreCap] else [permStore]) 16 v.bytes v.tag

/-- R166, R167, R218: an atomic access to a direct block: earlier stores of its context are visible first; A takes the old value and
memory the new one, untagged; every other byte stays. CAS writes only when the old value equals A, and Z says so. -/
def Obligations.DirectAtomicResults : Prop :=
  ∀ (h : Hd) (o : AtomOp) (s t : State) (pa : Nat),
    let c := s.ctx h.ctx
    let size := if o.dbl then 8 else 4
    let m := (t.drainCtx h.ctx).mem
    let old := mkDouble (m.word (pa / 4)).data (if o.dbl then (m.word (pa / 4 + 1)).data else 0)
    let x := mkDouble (c.gget o.c) (if o.dbl then c.gget (o.c + 1) else 0)
    let want := mkDouble (c.gget o.a) (if o.dbl then c.gget (o.a + 1) else 0)
    let a1 := if o.dbl then (c.gset o.a (lowWord old)).gset (o.a + 1) (highWord old) else c.gset o.a (lowWord old)
    let wrote := fun (new : DWord) (u : State) =>
      u.mem.word (pa / 4) = ⟨lowWord new, false⟩ ∧ (o.dbl = true → u.mem.word (pa / 4 + 1) = ⟨highWord new, false⟩) ∧
        ∀ a, (a < pa ∨ pa + size ≤ a) → inErrorRing t a = false → u.mem.byte a = m.byte a
    let ready := Direct t h.ctx (c.kget o.auth) [permLoad, permStore] (c.gget o.b).toNat size size pa ∧ pa % size = 0 ∧ Sound t (pa / 48)
    let done := fun (i : Instr) (k : AtomK) => Executes i h s t → ready →
      RetiresBeside i h s t a1 (wrote (if o.dbl then atomNew k old x else mkDouble (atomNew k (lowWord old) (lowWord x)) 0))
    done (.atomicSwap h o) .swap ∧ done (.atomicAdd h o) .add ∧ done (.atomicAnd h o) .and ∧ done (.atomicOr h o) .or ∧
    done (.atomicXor h o) .xor ∧ done (.atomicSmin h o) .smin ∧ done (.atomicSmax h o) .smax ∧
    (Executes (.cas h o) h s t → ready →
      RetiresBeside (.cas h o) h s t { a1 with z := decide (old = want) }
        (if old = want then wrote x
         else fun u => ∀ a, inErrorRing t a = false → u.mem.byte a = m.byte a))

/-! ### Block instructions, branches and capabilities -/

/-- Block and pattern instructions go in flight, complete, or fail at a position they name. -/
def Obligations.BlockInstructions : Prop :=
  -- R145, R174 to R176: BLKMOVE, BLKFILL and MATCH go in flight; control goes on behind them.
  (∀ (h : Hd) (o : BlkOp) (s t : State),
     let goes := fun (i : Instr) (k : BlkKind) => Executes i h s t → ∃ u, exec i s = .next u ∧ OnlyCtx t u h.ctx { s.ctx h.ctx with
       longOps := [⟨(s.ctx h.ctx).pcc.cursor, .blk k o, false⟩], pendRet := none, bkskip := false
       pcc := { (s.ctx h.ctx).pcc with cursor := nextAddr h s } }
     goes (.blkmove h o) .move ∧ goes (.blkfill h o) .fill ∧ goes (.matchWords h o) .match_) ∧
  -- R174 to R178: when every access succeeds, the operation completes: A has moved on by as much as C has shrunk, and so has B for
  -- BLKMOVE; C is 0 but for a MATCH that found its word, which Z tells. No other register, flag or context changes. The operands name
  -- three registers.
  (∀ (s s0 u : State) (n : Nat) (a : Word) (al : Bool) (k : BlkKind) (o : BlkOp),
     s.mayIssue n = true → (s.ctx n).longOps = [⟨a, .blk k o, al⟩] → o.a ≠ o.c → o.b ≠ o.a → o.b ≠ o.c →
     s0 = s.setCtx n { s.ctx n with longOps := [] } →
     s0.blkGo n a k o (2 ^ 36) = (none, u) → NoStop u →
     let c := s.ctx n
     let d := u.ctx n
     exec (.longOpComplete n 0) s = .next (u.setCtx n { d with retired := d.retired + 1 }) ∧
     d = { c with longOps := [], g := d.g, z := d.z } ∧
     (∀ m, m ≠ n → u.ctx m = s.ctx m) ∧
     (∀ r, r ≠ o.a → r ≠ o.b → r ≠ o.c → d.gget r = c.gget r) ∧
     d.gget o.a = c.gget o.a + (c.gget o.c - d.gget o.c) ∧
     d.gget o.b = (if k = .move then c.gget o.b + c.gget o.c else c.gget o.b) ∧
     (k ≠ .match_ → d.z = c.z ∧ d.gget o.c = 0) ∧
     (k = .match_ → d.z = false → d.gget o.c = 0)) ∧
  -- R175 to R178: BLKFILL and MATCH with A or C not a multiple of 4 raise cause 7 before any access; an access that fails raises
  -- cause 14 with its own cause in ORIG, and A, B and C name the failing position.
  (∀ (s s0 : State) (n : Nat) (a : Word) (al : Bool) (k : BlkKind) (o : BlkOp),
     s.mayIssue n = true → (s.ctx n).longOps = [⟨a, .blk k o, al⟩] → s0 = s.setCtx n { s.ctx n with longOps := [] } →
     let c := s.ctx n
     let bad := k ≠ .move ∧ ((c.gget o.a).toNat % 4 ≠ 0 ∨ (c.gget o.c).toNat % 4 ≠ 0)
     let fields := [some o.a, some o.b, some o.c]
     (bad → ∃ u, OnlyCtx s u n { c with longOps := [] } ∧ exec (.longOpComplete n 0) s =
       .next (u.enter n { cause := 7, fault := a, resume := c.pcc.cursor, imp := true, ops := fields }).stopCores) ∧
     (¬ bad → ∀ p f s1, s0.blkRun n (c.kget o.auth) k ((c.gget o.c).toNat / blkUnit k) ⟨c.gget o.a, c.gget o.b, c.gget o.c, false⟩
         = (p, some f, s1) →
       ∃ (u : State) (m : Micro), u.ctx n = { (s1.ctx n).putProg k o p with longOps := [] } ∧ exec (.longOpComplete n 0) s =
         .next (u.enter n
           { cause := 14, fault := a, resume := c.pcc.cursor, data := f.data, imp := true, mt := true, orig := f.cause, ops := fields, micro := m }).stopCores))

/-- Branches, calls and gates: the target, the link, and the checks of a gate. -/
def Obligations.BranchesAndGates : Prop :=
  -- R171, R122: branches and calls: the target and the link; a branch whose condition is false does neither.
  (∀ (h : Hd) (d : Disp) (a : GReg) (s t : State),
     let c := s.ctx h.ctx
     let goes := fun (i : Instr) (target : Word) (link : Bool) => i.wf = true → Fetched h s t →
       if condHolds h.cond c = true then BranchesTo i h s t target link else BranchesTo i h s t (nextAddr h s) false
     goes (.br h d) (c.pcc.cursor + dispWord d) false ∧ goes (.call h d) (c.pcc.cursor + dispWord d) true ∧
     goes (.brR h a) (c.gget a) false ∧ goes (.callR h a) (c.gget a) true ∧ goes (.ret h) (c.gget 31) false) ∧
  -- R170: CJUMP through a gate, and its causes in the order of the checks.
  (∀ (h : Hd) (a b : KReg) (r : GReg) (s t : State), Executes (.cjump h a b r) h s t →
     let c := s.ctx h.ctx
     let x := c.kget a
     let y := c.kget b
     if x.tag = false ∨ y.tag = false then Raises (.cjump h a b r) h s t 3 0
     else if x.otype = 0 ∨ y.otype = 0 ∨ x.otype ≠ y.otype then Raises (.cjump h a b r) h s t 5 0
     else if s.dead x.tenant = true ∨ s.dead y.tenant = true then Raises (.cjump h a b r) h s t 6 0
     else if x.perm 2 = false ∨ x.tenant ≠ y.tenant then Raises (.cjump h a b r) h s t 2 0
     else ∃ u d, exec (.cjump h a b r) s = .next u ∧ OnlyCtx t u h.ctx (retired d x.cursor) ∧
       d = { c with pcc := x.withOtype 0, k := d.k, early := none } ∧ d.kget 0 = y.withOtype 0 ∧
       ∀ j, j ≠ 0 → d.kget j = if (c.gget r).getLsbD j.toNat then c.kget j else { c.kget j with tag := false })

/-- The capability instructions: results, and the causes in the order of the checks. -/
def Obligations.CapabilityInstructions : Prop :=
  -- R168, R234: the results of the capability instructions that derive or move a capability, where their requirements are met.
  (∀ (h : Hd) (a b k : KReg) (r : GReg) (s t : State),
     let c := s.ctx h.ctx
     let x := c.kget b
     let y := c.kget k
     let g := c.gget r
     let okB := x.tag = true ∧ s.dead x.tenant = false
     let okC := y.tag = true ∧ y.otype = 0 ∧ s.dead y.tenant = false ∧ (y.tenant = x.tenant ∨ y.perm 11 = true) ∧
       y.base.toNat ≤ y.cursor.toNat ∧ y.cursor.toNat < min (y.base.toNat + y.len.toNat) (2 ^ 36)
     (Executes (.cbound h a b r) h s t → okB → x.otype = 0 → x.base.toNat ≤ x.cursor.toNat →
       x.cursor.toNat + g.toNat ≤ min (x.base.toNat + x.len.toNat) (2 ^ 36) →
       RetiresWith (.cbound h a b r) h s t (c.kset a { x with base := x.cursor, len := g })) ∧
     (Executes (.crestrict h a b r) h s t → okB → x.otype = 0 →
       ∃ v, RetiresWith (.crestrict h a b r) h s t (c.kset a { x with attr := v }) ∧
         ∀ i, i < 36 → v.getLsbD i = (x.attr.getLsbD i && (if 12 ≤ i ∧ i < 24 then g.getLsbD (i - 12) else true))) ∧
     (Executes (.cseal h a b k) h s t → okB → okC → x.otype = 0 → y.perm 5 = true → 1 ≤ y.cursor.toNat → y.cursor.toNat ≤ 4095 →
       RetiresWith (.cseal h a b k) h s t
         (c.kset a { x with tag := true, attr := word (x.attr.toNat / 2 ^ 12 * 2 ^ 12 + y.cursor.toNat) })) ∧
     (Executes (.cunseal h a b k) h s t → okB → okC → x.otype ≠ 0 → y.perm 6 = true → y.cursor.toNat = x.otype →
       RetiresWith (.cunseal h a b k) h s t (c.kset a { x with tag := true, attr := word (x.attr.toNat / 2 ^ 12 * 2 ^ 12) })) ∧
     (Executes (.csetc h a b r) h s t → (x.tag = false ∨ x.otype = 0) →
       RetiresWith (.csetc h a b r) h s t (c.kset a { x with cursor := g })) ∧
     (Executes (.cmove h a b) h s t → RetiresWith (.cmove h a b) h s t (c.kset a x))) ∧
  -- R168, R243: the causes of CBOUND, CRESTRICT, CSEAL, CUNSEAL and CSETC, in the order of the checks.
  (∀ (h : Hd) (a b k : KReg) (r : GReg) (s t : State),
     let x := (s.ctx h.ctx).kget b
     let y := (s.ctx h.ctx).kget k
     let fails := fun (i : Instr) (n : Nat) => Executes i h s t → Raises i h s t n 0
     let one := fun (i : Instr) =>
       (x.tag = false → fails i 3) ∧ (x.tag = true → x.otype ≠ 0 → fails i 5) ∧
       (x.tag = true → x.otype = 0 → s.dead x.tenant = true → fails i 6)
     let two := fun (i : Instr) (sealed : Bool) (p : Nat) (wrong : Prop) =>
       ((x.tag = false ∨ y.tag = false) → fails i 3) ∧
       (x.tag = true → y.tag = true → ((decide (x.otype ≠ 0) ≠ sealed) ∨ y.otype ≠ 0) → fails i 5) ∧
       (x.tag = true → y.tag = true → decide (x.otype ≠ 0) = sealed → y.otype = 0 →
         ((s.dead x.tenant = true ∨ s.dead y.tenant = true) → fails i 6) ∧
         (s.dead x.tenant = false → s.dead y.tenant = false →
           ((y.perm p = false ∨ (y.tenant ≠ x.tenant ∧ y.perm 11 = false)) → fails i 2) ∧
           (y.perm p = true → (y.tenant = x.tenant ∨ y.perm 11 = true) → wrong → fails i 4)))
     let at_ := y.cursor.toNat
     let outside := at_ < y.base.toNat ∨ min (y.base.toNat + y.len.toNat) (2 ^ 36) ≤ at_
     one (.cbound h a b r) ∧ one (.crestrict h a b r) ∧ two (.cseal h a b k) false 5 (outside ∨ at_ = 0 ∨ 4095 < at_) ∧
     two (.cunseal h a b k) true 6 (outside ∨ at_ ≠ x.otype) ∧
     (x.tag = true → x.otype ≠ 0 → fails (.csetc h a b r) 5) ∧
     (x.tag = true → x.otype = 0 → s.dead x.tenant = false →
       (x.cursor.toNat < x.base.toNat ∨
         min (x.base.toNat + x.len.toNat) (2 ^ 36) < x.cursor.toNat + ((s.ctx h.ctx).gget r).toNat) → fails (.cbound h a b r) 4)) ∧
  -- R168: CGET, CGETS and CSETS.
  (∀ (h : Hd) (a : GReg) (ka b : KReg) (s t : State),
     let c := s.ctx h.ctx
     let x := c.kget b
     let get := fun (i : Nat) (v : Word) =>
       Executes (.cget h a b i) h s t → RetiresWith (.cget h a b i) h s t (c.gset a v)
     let gets := fun (i : Nat) (v : Cap) => Executes (.cgets h ka i) h s t → RetiresWith (.cgets h ka i) h s t (c.kset ka v)
     let sets := fun (i : Nat) (d : Ctx) => Executes (.csets h b i) h s t →
       if c.pcc.perm 10 = true then RetiresWith (.csets h b i) h s t d else Raises (.csets h b i) h s t 2 0
     get 0 x.cursor ∧ get 1 x.base ∧ get 2 x.len ∧ get 3 x.attr ∧ get 4 (if x.tag then 1 else 0) ∧
     gets 0 c.pcc ∧ gets 1 c.esc ∧ gets 2 c.evc ∧ sets 1 { c with esc := x } ∧ sets 2 { c with evc := x } ∧
     (Executes (.csets h b 0) h s t → ∃ u, exec (.csets h b 0) s = .next u ∧
       OnlyCtx t u h.ctx (retired { c with pcc := { x with tag := x.tag && decide (x.otype = 0) }, early := none } x.cursor)))

/-! ### System registers, maintenance and barriers -/

/-- System registers: what a read gives, what a write changes, and what faults. -/
def Obligations.SystemRegisters : Prop :=
  -- R154 to R156, R191, R285, R301, R328, R376: GETSR.
  (∀ (h : Hd) (a : GReg) (n : BitVec 18) (s t : State), Executes (.getsr h a n) h s t →
     let c := s.ctx h.ctx
     let m := t.mem
     let gives := fun (k v : Nat) => n.toNat = k → RetiresWith (.getsr h a n) h s t (c.gset a (word v))
     let needs := fun (p : Nat) (x : Prop) => (c.pcc.perm p = true → x)
     gives 0 (b2n c.dl * 16 + b2n c.n * 8 + b2n c.z * 4 + b2n c.c * 2 + b2n c.v) ∧
     gives 1 c.fpstat.toNat ∧ gives 2 h.ctx ∧ gives 3 c.retired.toNat ∧
     needs 9 (gives 4 c.bkaddr.toNat ∧ gives 5 (b2n c.bken)) ∧
     gives 6 ((match c.stack with | x :: _ => x.1 | [] => 0) * 2 ^ 20 + c.stack.length * 2 ^ 16 + c.runPri * 2 ^ 8 + c.floor) ∧
     gives 7 c.pclass ∧
     needs 9 (gives 8 (m.scAgentService * 256 + m.scAgentHost * 16 + m.scAgentEau)) ∧
     needs 9 (∀ i, i < 16 → gives (16 + i) (tget 0o177777 m.scWays i)) ∧
     needs 9 (∀ i, i < 32 → let b := tget {} m.scBank i
       gives (32 + i) (b2n b.en * 2 ^ 35 + b2n b.busy * 2 ^ 34 + b2n b.reject * 2 ^ 33 + b.base)) ∧
     needs 8 (∀ i, i < 16 → let b := c.block i
       gives (64 + 4 * i) b.line ∧ gives (65 + 4 * i) b.lines ∧ gives (66 + 4 * i) b.target.toNat ∧
       gives (67 + 4 * i) (b.owner * 2 ^ 24 + b2n b.en * 2 ^ 12 + b.typ * 2 ^ 10 + b2n b.paged * 2 ^ 9 + b.phi))) ∧
  -- R154 to R156, R191, R285, R301, R376, R382: SETSR of the registers below 64.
  (∀ (h : Hd) (a : GReg) (n : BitVec 18) (s t : State), Executes (.setsr h a n) h s t →
     let c := s.ctx h.ctx
     let v := c.gget a
     let x := v.toNat
     let makes := fun (k : Nat) (d : Ctx) => n.toNat = k → RetiresWith (.setsr h a n) h s t d
     let puts := fun (k : Nat) (m : Mem) => n.toNat = k → RetiresWith (.setsr h a n) h s { t with mem := m } c
     makes 0 { c with n := v.getLsbD 3, z := v.getLsbD 2, c := v.getLsbD 1, v := v.getLsbD 0 } ∧
     makes 1 { c with fpstat := v.setWidth 5 } ∧ makes 2 c ∧ makes 3 c ∧
     (c.pcc.perm 9 = true →
       makes 4 { c with bkaddr := v } ∧ makes 5 { c with bken := v.getLsbD 0 } ∧ makes 6 { c with floor := x % 2 ^ 8 } ∧
       makes 7 { c with pclass := x % 2 ^ 4 } ∧
       puts 8 { t.mem with scAgentService := x / 2 ^ 8 % 2 ^ 4, scAgentHost := x / 2 ^ 4 % 2 ^ 4, scAgentEau := x % 2 ^ 4 } ∧
       (∀ i, i < 16 → puts (16 + i) { t.mem with scWays := tset 0o177777 t.mem.scWays i (x % 2 ^ 16) }) ∧
       (t.mem.notes = [] → ∀ i, i < 32 → puts (32 + i) (t.mem.bankWrite t.popLines i (v.getLsbD 35) (x % 2 ^ 20))))) ∧
  -- R130, R154: an unassigned system register is Illegal; a missing permission is cause 2, and nothing is read or written.
  (∀ (h : Hd) (a : GReg) (n : BitVec 18) (s t : State),
     let k := n.toNat
     let p := fun (j : Nat) => (s.ctx h.ctx).pcc.perm j = false
     let unassigned := (8 < k ∧ k < 16) ∨ 128 ≤ k
     (Executes (.getsr h a n) h s t →
       (unassigned → Raises (.getsr h a n) h s t 1 0) ∧
       ((k = 4 ∨ k = 5 ∨ k = 8 ∨ (16 ≤ k ∧ k < 64)) → p 9 → Raises (.getsr h a n) h s t 2 0) ∧
       (64 ≤ k → k < 128 → p 8 → Raises (.getsr h a n) h s t 2 0)) ∧
     (Executes (.setsr h a n) h s t →
       (unassigned → Raises (.setsr h a n) h s t 1 0) ∧
       (((4 ≤ k ∧ k ≤ 8) ∨ (16 ≤ k ∧ k < 64)) → p 9 → Raises (.setsr h a n) h s t 2 0) ∧
       (64 ≤ k → k < 128 → p 8 → Raises (.setsr h a n) h s t 2 0)))

/-- Block registers, translation invalidation and barriers. -/
def Obligations.TranslationAndBarriers : Prop :=
  -- R329, R330, R333: SETSR of word `w` of block register `i`: the word is written, EN is forced to 0 where R330 rejects the setting,
  -- and no translation of that block stays in the TLB or the walk cache.
  (∀ (h : Hd) (a : GReg) (n : BitVec 18) (s t : State) (i w : Nat), Executes (.setsr h a n) h s t →
     (s.ctx h.ctx).pcc.perm 8 = true → i < 16 → w < 4 → n.toNat = 64 + 4 * i + w →
     let c := s.ctx h.ctx
     let b := (c.block i).writeWord w (c.gget a)
     let rejected := b.typ = 3 ∨ (b.typ = 2 ∧ b.paged = true)
       ∨ (b.paged = false ∧ b.typ ≤ 1 ∧ (b.phi * 2 ^ 36 + b.target.toNat) % 48 ≠ 0)
       ∨ (b.paged = false ∧ b.typ = 2 ∧ (b.phi * 2 ^ 36 + b.target.toNat) % 4 ≠ 0)
       ∨ (b.paged = true ∧ (b.line % 256 ≠ 0 ∨ 2 ^ 32 ≤ b.target.toNat ∨ b.phi ≠ 0))
       ∨ Config.tenants s.hw.variant ≤ b.owner
     ∃ u, exec (.setsr h a n) s = .next u ∧
       (u.ctx h.ctx).block i = (if rejected then { b with en := false } else b) ∧
       (∀ j, j ≠ i → (u.ctx h.ctx).block j = c.block j) ∧
       u.ctx h.ctx = { retired c (nextAddr h s) with
         bd := (u.ctx h.ctx).bd, invalT := (u.ctx h.ctx).invalT, invalW := (u.ctx h.ctx).invalW, early := (u.ctx h.ctx).early } ∧
       (∀ m, m ≠ h.ctx → u.ctx m = t.ctx m) ∧
       (∀ e, e ∈ (u.core (coreOf h.ctx)).tlb ∨ e ∈ (u.core (coreOf h.ctx)).walk → e.ctx = h.ctx % 4 → e.block ≠ i) ∧
       u = { t with ctxs := u.ctxs, cores := u.cores }) ∧
  -- R180, R349: INVPG, INVWALK and INVBLK need TRANSLATE in PCC and remove the context's translations.
  (∀ (h : Hd) (a : GReg) (n : BitVec 4) (s t : State),
     let c := s.ctx h.ctx
     let done := fun (i : Instr) (gone : TlbE → Prop) (goneW : TlbE → Prop) => Executes i h s t →
       if c.pcc.perm 8 = true then
         ∃ u, exec i s = .next u ∧
           u.ctx h.ctx = { retired c (nextAddr h s) with invalT := (u.ctx h.ctx).invalT, invalW := (u.ctx h.ctx).invalW } ∧
           (∀ m, m ≠ h.ctx → u.ctx m = t.ctx m) ∧
           (∀ e ∈ (u.core (coreOf h.ctx)).tlb, e ∈ (t.core (coreOf h.ctx)).tlb ∧ (e.ctx = h.ctx % 4 → ¬ gone e)) ∧
           (∀ e ∈ (u.core (coreOf h.ctx)).walk, e ∈ (t.core (coreOf h.ctx)).walk ∧ (e.ctx = h.ctx % 4 → ¬ goneW e)) ∧
           u = { t with ctxs := u.ctxs, cores := u.cores }
       else Raises i h s t 2 0
     done (.invwalk h) (fun _ => False) (fun _ => True) ∧
     done (.invblk h n) (fun e => e.block = n.toNat) (fun e => e.block = n.toNat) ∧
     done (.invpg h a)
       (fun e => ∃ b, c.findBlock ((c.gget a).toNat / 48) = some (e.block, b) ∧ b.paged = true ∧
         e.idx = ((c.gget a).toNat - 48 * b.line) / 12288)
       (fun _ => False)) ∧
  -- R180, R214, R350: NOP and FENCE.L retire; FENCE.M and FENCE.I leave no store of the context in the merging buffer; after FENCE.T
  -- no invalidated translation can be used.
  (∀ (h : Hd) (s t : State),
     let c := s.ctx h.ctx
     let drained := fun (u : State) => ∀ e ∈ (u.core (coreOf h.ctx)).merge, e.ctx ≠ h.ctx
     (Executes (.nop h) h s t → RetiresWith (.nop h) h s t c) ∧
     (Executes (.fenceL h) h s t → RetiresWith (.fenceL h) h s t c) ∧
     (Executes (.fenceM h) h s t → RetiresBeside (.fenceM h) h s t c drained) ∧
     (Executes (.fenceI h) h s t → RetiresBeside (.fenceI h) h s t { c with early := none } drained) ∧
     (Executes (.fenceT h) h s t → RetiresWith (.fenceT h) h s t { c with invalT := [], invalW := [], early := none }))

/-- Maintenance of lines by address and by set and way. -/
def Obligations.LineMaintenance : Prop :=
  -- R180, R373: CLEAN.A leaves every byte as it is once the stores of the context are visible, and its line equal to its home: a dirty
  -- copy has gone home. INV.A lets the line read as its home, with every byte of every other line as it was.
  (∀ (h : Hd) (a : GReg) (k : KReg) (s t : State) (pa : Nat), Sound t (pa / 48) →
     let c := s.ctx h.ctx
     let l := pa / 48
     let d := t.drainCtx h.ctx
     let m := d.mem.settle (d.asker h.ctx) l
     (Executes (.cleanA h a k) h s t → Direct t h.ctx (c.kget k) [permLoad] (c.gget a).toNat 1 1 pa →
       RetiresBeside (.cleanA h a k) h s t c (fun u => (∀ b, inErrorRing t b = false → u.mem.byte b = d.mem.byte b) ∧
         ((∃ j, j < 16 ∧ m.l2State j l = some .m) ∨ ((m.sysDirty l).isSome = true ∧ tget none m.mid l = none) ∨
             (m.sysDirty l = none ∧ m.home l = m.now l) →
           u.mem.home l = u.mem.now l))) ∧
     (Executes (.invA h a k) h s t → Direct t h.ctx (c.kget k) [permStore] (c.gget a).toNat 1 1 pa →
       (∀ x, tget none m.stale l = some x → x.words.length = 12) →
       RetiresBeside (.invA h a k) h s t c (fun u => tget none u.mem.stale l = none ∧
         (∀ i, i < 12 → u.mem.word (12 * l + i) = match tget none m.stale l with | some x => x.words.getD i {} | none => m.word (12 * l + i)) ∧
         ∀ b, b / 48 ≠ l → inErrorRing t b = false → u.mem.byte b = d.mem.byte b))) ∧
  -- R180, R374: CLEAN.S needs CONTROL in PCC; the line of the way that G names, dirty in the L2 of the context's cluster, is afterwards equal
  -- to its home, and no byte of memory changes but the error ring.
  (∀ (h : Hd) (a : GReg) (s t : State), Executes (.cleanS h a) h s t → t.mem.gone = [] →
     let g := ((s.ctx h.ctx).gget a).toNat
     if (s.ctx h.ctx).pcc.perm 9 = true then
       RetiresBeside (.cleanS h a) h s t (s.ctx h.ctx) (fun u => SameBytes t u ∧
         ∀ w, g / 2 ^ 34 = 0 → tget none (tget [] t.mem.l2 (cluOf h.ctx * 4096 + g % 2 ^ 12)) (g / 2 ^ 12 % 2 ^ 4) = some w → w.st = .m →
           t.mem.l2State (cluOf h.ctx) w.line = some .m → t.mem.poisoned w.line = false → inErrorRing t (48 * w.line) = false →
           u.mem.home w.line = u.mem.now w.line)
     else Raises (.cleanS h a) h s t 2 0)

/-! ### Exceptions and returns -/

/-- TRAP, illegal bytes, and what taking an exception changes. -/
def Obligations.TrapsAndExceptionEntry : Prop :=
  -- R172, R173, R118: TRAP retires and takes cause 21 with the next instruction to resume at; illegal bytes take cause 1 at their address.
  (∀ (h : Hd) (n : BitVec 5) (bytes : List Byte) (s t : State),
     (Executes (.trap h n) h s t → ∃ u, OnlyCtx t u h.ctx (retired (s.ctx h.ctx) (nextAddr h s)) ∧
       exec (.trap h n) s = .next (u.enter h.ctx
         { cause := 21, fault := (s.ctx h.ctx).pcc.cursor, resume := nextAddr h s, trap := n.toNat }).stopCores) ∧
     (lengthDecode bytes = .illegal h.len → h.cond = 0 → Fetched h s t →
       exec (.illegal h.ctx bytes) s = .next (t.enter h.ctx
         { cause := 1, fault := (s.ctx h.ctx).pcc.cursor, resume := (s.ctx h.ctx).pcc.cursor }).stopCores)) ∧
  -- R258, R268, R269: taking an exception whose frame can be written: ESC moves down by 144, PCC becomes EVC unsealed at the vector of
  -- the cause or of the interrupt, and no register, flag or other context changes.
  (∀ (s s1 : State) (n : Nat) (e : Exc) (lines : List (Nat × Bool)),
     let c := s.ctx n
     s.stopping n = false → pushAt s n e = (.ok lines, s1) → s.dead c.evc.tenant = false →
     let u := s.enter n e
     u.ctx n = { c with
       esc := { c.esc with cursor := c.esc.cursor - 144 }
       pcc := { c.evc with
         attr := word (c.evc.attr.toNat / 2 ^ 12 * 2 ^ 12)
         cursor := match e.intr with | some d => d.vec | none => c.evc.base + word (16 * e.cause) }
       run := .run, routine := none, pendRet := none, bkskip := false, early := none
       pendAsync := if e.async then c.pendAsync.drop 1 else c.pendAsync } ∧
     ∀ m, m ≠ n → u.ctx m = s.ctx m)

/-- The frame of an exception reads back as pushed, and ERET restores the context from it. -/
def Obligations.FramesAreWrittenAndRead : Prop :=
  -- R256, R274, R275: the frame that an exception pushes on three lines, read back through them: PCC of the instruction, K0, K14 and
  -- K15 with their tags, then the twenty plain words.
  (∀ (s s1 : State) (n : Nat) (e : Exc) (lines : List (Nat × Bool)),
     let c := s.ctx n
     Unharmed s → s.mem.gone = [] → pushAt s n e = (.ok lines, s1) → s.dead c.evc.tenant = false → (lines.map Prod.fst).Nodup →
     (∀ p ∈ lines, inErrorRing s (48 * p.1) = false) →
     let f := (s.enter n e).readFrame n lines
     frameCap f 0 = { c.pcc with cursor := e.fault } ∧ frameCap f 1 = c.kget 0 ∧ frameCap f 2 = c.kget 14 ∧ frameCap f 3 = c.kget 15 ∧
     (List.range 20).map (fun i => frameWord f (16 + i)) = e.plain c s.nowShort ∧
     frameWord f 16 = e.causeWord ∧ frameWord f 17 = c.flagsWord ∧ frameWord f 18 = e.fault ∧ frameWord f 19 = e.resume ∧
     frameWord f 20 = word e.data ∧ frameWord f 24 = e.opreg) ∧
  -- R281: ERET restores the context from the frame at ESC; with IMP and MT 0 it goes on at RESUME_ADDR, else at FAULT_ADDR, with what
  -- the next instruction is to do, once it comes, pending.
  (∀ (h : Hd) (s t t1 : State) (lines : List (Nat × Bool)), Executes (.eret h) h s t →
     let c := s.ctx h.ctx
     t.frameAt h.ctx false (c.esc.cursor.toNat : Int) = (.ok lines, t1) →
     let f := t1.readFrame h.ctx lines
     ∃ u p, exec (.eret h) s = .next u ∧
       let d := u.ctx h.ctx
       let w := frameWord f 17
       let again := (frameWord f 16).getLsbD 17 || (frameWord f 16).getLsbD 18
       d.pcc = { frameCap f 0 with cursor := if again then frameWord f 18 else frameWord f 19 } ∧
       d.esc = { c.esc with cursor := c.esc.cursor + 144 } ∧
       d.n = w.getLsbD 3 ∧ d.z = w.getLsbD 2 ∧ d.c = w.getLsbD 1 ∧ d.v = w.getLsbD 0 ∧ d.dl = c.dl ∧
       d.kget 0 = frameCap f 1 ∧ d.kget 14 = frameCap f 2 ∧ d.kget 15 = frameCap f 3 ∧
       (∀ r, r ≠ 0 → r ≠ 14 → r ≠ 15 → d.kget r = c.kget r) ∧
       ((frameWord f 24).toNat % 2 ^ 18 = 0 → d.g = c.g) ∧
       d.pendRet = some p ∧ p.fault = frameWord f 18 ∧ p.resume = frameWord f 19 ∧
       p.imp = (frameWord f 16).getLsbD 17 ∧ p.mt = (frameWord f 16).getLsbD 18 ∧
       d.bkskip = (frameWord f 16).getLsbD 23 ∧ d.retired = c.retired + 1 ∧ d.run = .run ∧
       ∀ m, m ≠ h.ctx → u.ctx m = t.ctx m)

/-- A context wedges when its frame cannot be written or read, and RESTART releases it. -/
def Obligations.WedgeAndRestart : Prop :=
  -- R288, R290, R291: when the frame cannot be written, or EVC is of a dead tenant, the context wedges with its reason and cause; held
  -- deliveries return.
  (∀ (s s1 : State) (n : Nat) (e : Exc) (r : Nat), e.intr = none →
     let c := s.ctx n
     s.stopping n = false →
     (pushAt s n e = (.error r, s1) ∨ (r = 11 ∧ s.dead c.evc.tenant = true ∧ ∃ l, pushAt s n e = (.ok l, s1))) →
     let d := (s.enter n e).ctx n
     d.run = .wedged ∧ d.wEret = false ∧ d.wCause = e.cause ∧ d.wReason = r ∧ d.wAddr = e.fault ∧ d.wCount = satInc 255 c.wCount ∧
       d.held = none ∧ d.g = c.g ∧ d.k = c.k ∧ d.pcc = c.pcc ∧ d.esc = c.esc) ∧
  -- R288, R290, R291: an ERET whose frame cannot be read wedges its context with ERET set.
  (∀ (h : Hd) (s t t1 : State) (r : Nat), Executes (.eret h) h s t →
     t.frameAt h.ctx false ((s.ctx h.ctx).esc.cursor.toNat : Int) = (.error r, t1) →
     ∃ u, exec (.eret h) s = .next u ∧
       let d := u.ctx h.ctx
       d.run = .wedged ∧ d.wEret = true ∧ d.wReason = r ∧ d.wCause = 0 ∧ d.wAddr = (s.ctx h.ctx).pcc.cursor) ∧
  -- R292, R250: RESTART of a wedged context whose cluster runs: root PCC at the release vector, root K0 and no other capability, no
  -- alarm, deadline, priority or coach; G registers, flags, FPSTAT, block registers and RETIRED stay.
  (∀ (s : State) (r : Requester) (n : Nat), n < 32 * Config.clusters s.hw.variant →
     RegOpen s r (0x20000 + 0x2000 * (n / 32) + 128 + 2 * (n % 32)) →
     let c := s.ctx n
     if c.run ≠ .wedged ∨ tget false s.ras.coreOff (coreOf n) = true then
       exec (.restart r n) s = .next (s.heard r)
     else s.cluReady (cluOf n) = true → tget none s.pmu.hold (cluOf n) = none → s.cluPower (cluOf n) = some .run →
       ∃ u, exec (.restart r n) s = .next u ∧
         let d := u.ctx n
         d = { c with
           pcc := rootCap (tget {} s.lk.release (coreOf n)).vec, k := [(0, rootCap 0)], esc := {}, evc := {}, alarm := none
           alarmPending := false, deadline := none, dl := false, stack := [], held := none, coaches := [], run := .run
           restartPend := false, pendRet := none, routine := none, bkskip := false, early := none })

/-- R269, R281: an ERET that comes straight after an exception brings the context back to where it was: every register, flag and
capability as before, control at the resume address. The frame lies in direct blocks on three lines of sound DRAM apart from the error
ring, and no hardware error waits. -/
def Obligations.EretUndoesTheEntry : Prop :=
  ∀ (s s1 : State) (n : Nat) (e : Exc) (lines : List (Nat × Bool)),
    let c := s.ctx n
    let lo := c.esc.cursor.toNat - 144
    Unharmed s → pushAt s n e = (.ok lines, s1) → s.dead c.evc.tenant = false → (lines.map Prod.fst).Nodup →
    (∀ i, i < 3 → ∃ j b, c.findBlock ((lo + 48 * i) / 48) = some (j, b) ∧ b.paged = false) →
    (∀ p ∈ lines, Sound s p.1 ∧ inErrorRing s (48 * p.1) = false) →
    e.intr = none → e.imp = false → e.mt = false → e.cause < 64 → e.orig < 64 → e.trap < 32 →
    let d := ((s.enter n e).eretNow n).ctx n
    d = { c with
      pcc := { c.pcc with cursor := e.resume }, k := d.k, run := .run, routine := none, bkskip := e.bkskip
      pendRet := some ⟨e.fault, e.resume, false, false, 0, ⟨0, 0, List.replicate 8 0⟩⟩, early := none
      pendAsync := if e.async then c.pendAsync.drop 1 else c.pendAsync, retired := c.retired + 1 } ∧
    ∀ r, d.kget r = c.kget r

/-! ### Waiting, interrupts, coaches and decisions -/

/-- WAIT, ALARM, and the firing of alarms and deadlines. -/
def Obligations.AlarmsAndWaits : Prop :=
  -- R106, R184, R185: WAIT ends at once on a pending alarm, else blocks; ALARM is armed for a stamp to come, pending at once for one
  -- that has passed, and cause 4 for an invalid one.
  (∀ (h : Hd) (a : GReg) (s t : State),
     let c := s.ctx h.ctx
     let w := c.gget a
     (Executes (.wait h) h s t →
       if c.alarmPending = true then RetiresWith (.wait h) h s t { c with alarmPending := false }
       else ∃ u, exec (.wait h) s = .next u ∧ OnlyCtx t u h.ctx { c with run := .wait h.len }) ∧
     (Executes (.alarm h a) h s t →
       if s.stampOk w = false then Raises (.alarm h a) h s t 4 0
       else if Stamp.le (s.resolve w) s.now = true then RetiresWith (.alarm h a) h s t { c with alarm := none, alarmPending := true }
       else RetiresWith (.alarm h a) h s t { c with alarm := some ⟨s.resolve w, s.tbu.edges⟩, alarmPending := false })) ∧
  -- R106, R184, R501: an alarm that is due sets alarm-pending, and a deadline that is due sets DL, in a context whose cluster runs.
  (∀ (s : State) (n : Nat) (d : Due), s.isDue d = true → s.wedgedFor n = false → s.cluPower (cluOf n) = some .run →
     ((s.ctx n).alarm = some d → (s.ctx n).run = .run →
       exec (.alarmFire n) s = .next (s.setCtx n { s.ctx n with alarm := none, alarmPending := true })) ∧
     ((s.ctx n).alarm = some d → ∀ len, (s.ctx n).run = .wait len → s.boundaryDue n = false → NoReturn s n →
       ∃ u, exec (.alarmFire n) s = .next u ∧ OnlyCtx s u n (retired { s.ctx n with alarm := none, alarmPending := false, run := .run }
         ((s.ctx n).pcc.cursor + word len))) ∧
     ((s.ctx n).deadline = some d → exec (.deadlineDue n) s = .next (s.setCtx n { s.ctx n with deadline := none, dl := true })))

/-- EOI and SGI, and the acceptance of a held interrupt. -/
def Obligations.InterruptServiceBeginsAndEnds : Prop :=
  -- R186, R310, R312: EOI ends the service of the source on top of the priority stack; SGI raises a software-generated source.
  (∀ (h : Hd) (a : GReg) (s t : State),
     let c := s.ctx h.ctx
     let g := (c.gget a).toNat
     (Executes (.eoi h a) h s t →
       (c.pcc.perm 9 = false → Raises (.eoi h a) h s t 2 0) ∧
       (c.pcc.perm 9 = true → (∀ x, c.stack.head? = some x → x.1 ≠ g) → Raises (.eoi h a) h s t 15 g) ∧
       ∀ p rest, c.pcc.perm 9 = true → c.stack = (g, p) :: rest → RetiresBeside (.eoi h a) h s t { c with stack := rest } (fun u =>
         (s.srcExists g = true → u.src g = { t.src g with inserv := false }) ∧ ∀ m, m ≠ g → u.src m = t.src m)) ∧
     (Executes (.sgi h a) h s t →
       (c.pcc.perm 9 = false → Raises (.sgi h a) h s t 2 0) ∧
       (c.pcc.perm 9 = true → (g < 5120 ∨ 8191 < g) → Raises (.sgi h a) h s t 4 0) ∧
       (c.pcc.perm 9 = true → 5120 ≤ g → g ≤ 8191 → RetiresBeside (.sgi h a) h s t c (fun u =>
         (s.glb.rIcu = true → t.icu.gated = false → (t.src g).count < 15 → u.src g = { t.src g with count := (t.src g).count + 1 }) ∧
         ∀ m, m ≠ g → u.src m = t.src m)))) ∧
  -- R300, R307 to R309: a context at a boundary accepts the delivery held for it: the source is pushed on its priority stack, an edge
  -- source counts one arrival less, and the handler is entered at the vector; a delivery no longer above the running priority returns.
  (∀ (s s1 : State) (n m : Nat) (d : Delivery) (lines : List (Nat × Bool)),
     let c := s.ctx n
     Unharmed s → s.mayIssue n = true → c.run = .run → c.routine = none → NoReturn s n → c.longOps = [] → s.boundaryDue n = false →
     c.held = some d →
     (d.pri ≤ c.runPri → ∃ u, exec (.interruptAccept n m) s = .next u ∧ OnlyCtx { s with icu := u.icu } u n { c with held := none } ∧
       (s.srcExists d.src = true → (u.src d.src).inserv = false)) ∧
     (c.runPri < d.pri → pushAt s n ⟨0, c.pcc.cursor, c.pcc.cursor, 0, false, false, false, false, false, 0, 0, [], {}, 0, some d⟩ = (.ok lines, s1) →
       s.dead c.evc.tenant = false →
       ∃ u, exec (.interruptAccept n m) s = .next u ∧
         (u.ctx n).held = none ∧ (u.ctx n).stack = (d.src, d.pri) :: c.stack ∧ (u.ctx n).pcc.cursor = d.vec ∧
         (u.ctx n).esc.cursor = c.esc.cursor - 144 ∧ (u.ctx n).g = c.g ∧ (u.ctx n).k = c.k))

/-- TAKE blocks, returns an alarm, or receives an event. -/
def Obligations.TakeBlocksAndReceives : Prop :=
  -- R181, R492, R495: TAKE: its causes; a pending alarm ends it with A untagged and G28 = 1; else it blocks at the back of the waiting
  -- order.
  (∀ (h : Hd) (a b : KReg) (s t : State), Executes (.take h a b) h s t →
     let c := s.ctx h.ctx
     let x := c.kget b
     if x.tag = false then Raises (.take h a b) h s t 3 0
     else if x.otype < 4032 then Raises (.take h a b) h s t 5 0
     else if c.alarmPending = true then ∃ u d, exec (.take h a b) s = .next u ∧ u.ctx h.ctx = retired d (nextAddr h s) ∧
       d = { c with k := d.k, g := d.g, alarmPending := false } ∧ d.kget a = {} ∧ (∀ r, r ≠ a → d.kget r = c.kget r) ∧
       (∀ r ∈ ([24, 25, 26, 27] : List GReg), d.gget r = 0) ∧ d.gget 28 = 1 ∧ (∀ r, r.toNat < 24 ∨ 28 < r.toNat → d.gget r = c.gget r)
     else ∃ u, exec (.take h a b) s = .next u ∧ u.ctx h.ctx = { c with run := .take a b h.len } ∧
       (∀ m, m ≠ h.ctx → u.ctx m = t.ctx m) ∧ u = { t with ctxs := u.ctxs, ddu := { t.ddu with waiting := t.ddu.waiting ++ [h.ctx] } }) ∧
  -- R181, R489, R495, R499, R501: a grant: the oldest waiting TAKE that may receive an event retires with the coach capability in A, the
  -- descriptor in G24 to G28, and the event's deadline; the event leaves the DDU.
  (∀ (s : State) (n len : Nat) (a : KReg) (k : Cap) (d : Desc) (cr : Tbl Nat) (rest : List Nat),
     s.ddu.waiting = n :: rest → s.waitingTake n = some (a, k, len) → s.select k = some (d, cr) → NoReturn s n →
     let c := s.ctx n
     let ev := d.ev
     let r := (s.pool ev.pool).rec_
     let base := word (r.vbase + 48 * r.slotLines * ev.slot)
     let cap : Cap := ⟨true, base, base, word (48 * r.slotLines), word (ev.owner * 2 ^ 24 + 2 ^ 12)⟩
     ∃ u, exec .takeGrant s = .next u ∧ (∀ m, m ≠ n → u.ctx m = s.ctx m) ∧ n ∉ u.ddu.waiting ∧
       (∀ x, x ∈ u.ddu.descs ↔ x ∈ s.ddu.descs ∧ x.ev.id ≠ ev.id) ∧ u.ddu.credit = cr ∧
       let e := u.ctx n
       e = { c with
         g := e.g, k := e.k, run := .run, deadline := e.deadline, dl := false, coaches := c.coaches ++ [⟨ev, base.toNat, (word (48 * r.slotLines)).toNat, false⟩]
         retired := c.retired + 1, pcc := { c.pcc with cursor := c.pcc.cursor + word len }, pendRet := none, bkskip := false } ∧
       e.deadline.map (·.at_) = some ev.ddl ∧ e.kget a = cap ∧ (∀ x, x ≠ a → e.kget x = c.kget x) ∧
       e.gget 24 = ev.stamp.short ∧ e.gget 25 = word (ev.profile + ev.owner * 2 ^ 10 + ev.cls * 2 ^ 22) ∧
       e.gget 26 = word (ev.flags + ev.arrived * 2 ^ 6 + ev.expected * 2 ^ 17) ∧ e.gget 27 = ev.ddl.short ∧ e.gget 28 = 0 ∧
       ∀ x, x.toNat < 24 ∨ 28 < x.toNat → e.gget x = c.gget x)

/-- DECIDE and DONE, and how decisions reach their record. -/
def Obligations.DecisionsAndCoachSlots : Prop :=
  -- R182, R183: DECIDE and DONE: the capability must be tagged and name a coach dispatched to the context; DECIDE needs its stamp and
  -- posts the word to the event's record, DONE frees the slot and clears the deadline and DL.
  (∀ (h : Hd) (a b : GReg) (k : KReg) (s t : State),
     let c := s.ctx h.ctx
     let x := c.kget k
     (Executes (.decide h a b k) h s t →
       if x.tag = false then Raises (.decide h a b k) h s t 3 0
       else match c.coaches.find? (fun y => decide (y.base = x.base.toNat) && decide (y.len = x.len.toNat)) with
         | none => Raises (.decide h a b k) h s t 4 0
         | some y =>
           if s.stampOk (c.gget a) = false ∨ c.gget a ≠ y.ev.stamp.short then Raises (.decide h a b k) h s t 4 0
           else match y.ev.lane with
             | none => RetiresWith (.decide h a b k) h s t c
             | some l =>
               let r := t.dolDecide l y.ev.stamp (c.gget b) (!y.decided)
               RetiresWith (.decide h a b k) h s r.1
                 { c with coaches := c.coaches.map (fun z => if z = y then { z with decided := z.decided || r.2 } else z) }) ∧
     (Executes (.done h k) h s t →
       if x.tag = false then Raises (.done h k) h s t 3 0
       else match c.coaches.find? (fun y => decide (y.base = x.base.toNat) && decide (y.len = x.len.toNat)) with
         | none => Raises (.done h k) h s t 4 0
         | some y => RetiresWith (.done h k) h s (t.freeSlot y.ev.pool y.ev.slot)
             { c.kset k { x with tag := false } with coaches := c.coaches.erase y, deadline := none, dl := false })) ∧
  -- R507: a decision in time ORs its word into the record of its lane and stamp, and counts once for a coach; a late one, or one for no
  -- record, counts in LATEDEC alone.
  (∀ (s : State) (l : Nat) (st : Stamp) (w : Word) (first : Bool),
     let r := s.dolDecide l st w first
     match s.dol.recs.find? (fun r => decide (r.lane = l) && decide (r.stamp = st)) with
     | some x =>
       if Stamp.le (Stamp.add s.bpt x.release.at_ (-1)) s.now = true then r.2 = false ∧ r.1.dol.recs = s.dol.recs ∧
         tget 0 r.1.dol.cnt 2 = satInc (2 ^ 36 - 1) (tget 0 s.dol.cnt 2)
       else r.2 = true ∧ r.1.dol.recs.find? (fun r => decide (r.lane = l) && decide (r.stamp = st)) =
         some { x with word := x.word ||| w, decided := if first then x.decided + 1 else x.decided }
     | none => r.2 = false ∧ tget 0 r.1.dol.cnt 2 = satInc (2 ^ 36 - 1) (tget 0 s.dol.cnt 2))

/-- R136, R390, R398, R400: a customer instruction that its decode word admits runs its routine; one that the routine ends retires; one
that no decode word admits is Illegal; one stopped at 4,096 micro-operations takes cause 17 with ORIG 1. -/
def Obligations.CustomerInstructionsRunTheirRoutine : Prop :=
  ∀ (h : Hd) (o : CustOp) (s t : State),
    let k := t.core (coreOf h.ctx)
    let i := if k.h1.st = .active then 1 else 0
    let half := if k.h1.st = .active then k.h1 else k.h0
    let w := half.table.getD o.entry 0
    let r : Routine := ⟨o, h.len, i, w, deStart w, List.replicate 8 0, none, 0, false⟩
    (Executes (.customerInstruction h o) h s t → custOk t o w = false → Raises (.customerInstruction h o) h s t 1 0) ∧
    (Executes (.customerInstruction h o) h s t → custOk t o w = true →
      ∀ u, t.microRun h.ctx 4096 r = .fin u → NoReturn u h.ctx → NoStop u →
        RetiresWith (.customerInstruction h o) h s u { u.ctx h.ctx with routine := none }) ∧
    (∀ q, (s.ctx h.ctx).routine = some q → q.limit = true → s.mayIssue h.ctx = true → (s.ctx h.ctx).longOps = [] →
      exec (.customerRoutineLimit h.ctx) s = .next (s.enter h.ctx
        { cause := 17, fault := (s.ctx h.ctx).pcc.cursor, resume := (s.ctx h.ctx).pcc.cursor, mt := true, orig := 1,
          ops := [custReg q.op 0, custReg q.op 1, custReg q.op 2], micro := q.point.getD {}, info := q.op.entry }).stopCores)

/-- Events of the cores: long operations, the merging buffer, store errors, predictor flushes. -/
def Obligations.CoreEvents : Prop :=
  -- R205, R278: the later of two long operations may complete first; it delivers, and the earlier stays in flight.
  (∀ (s s1 : State) (n : Nat) (p q : LongOp), s.mayIssue n = true → (s.ctx n).longOps = [p, q] → s.runLong n q = (none, s1) → NoStop s1 →
     exec (.longOpComplete n 1) s = .next (s1.setCtx n { s1.ctx n with retired := (s1.ctx n).retired + 1, longOps := [p] })) ∧
  -- R361: a merging-buffer entry that has seen no store for 32 cycles becomes eligible to drain; nothing else changes.
  (∀ (s : State) (k i : Nat), ∃ u, exec (.mergeEntryIdle k i) s = .next u ∧
     u = { s with cores := u.cores } ∧ (∀ j, j ≠ k → u.core j = s.core j) ∧ u.core k = { s.core k with merge := (u.core k).merge } ∧
     (u.core k).merge.length = (s.core k).merge.length ∧
     ∀ (j : Nat) (e : MEntry), (s.core k).merge[j]? = some e → (u.core k).merge[j]? = some (if j = i then { e with elig := true } else e)) ∧
  -- R214, R361: the oldest eligible entry of a merging buffer drains to the L2: it leaves the buffer, memory has its bytes, and every
  -- other byte stays but the error ring's.
  (∀ (s : State) (k : Nat) (e : MEntry) (before after : List MEntry), Unharmed s → s.mem.gone = [] →
     (s.core k).merge = before ++ e :: after → e.elig = true → (∀ x ∈ before, x.elig = false) →
     (∃ u, exec (.mergeEntryDrain k true) s = .next u ∧ (u.core k).merge = before ++ after ∧
       (∀ a, (∀ b ∈ e.bytes, 48 * e.line + b.1 ≠ a) → inErrorRing s a = false → u.mem.byte a = s.mem.byte a) ∧
       (twf none e.bytes = true → (∀ b ∈ e.bytes, b.1 < 48) → inErrorRing s (48 * e.line) = false →
         ∀ b v, tget none e.bytes b = some v → u.mem.byte (48 * e.line + b) = v)) ∧
     -- R364: an entry found with bad parity as it drains is discarded, and its core is offlined.
     (∃ u, exec (.mergeEntryDrain k false) s = .next u ∧ tget false u.ras.coreOff k = true)) ∧
  -- R269, R280, R361: a drain that gets an error response is not performed: the entry leaves the buffer, an error record is made, and the
  -- context takes cause 19 with ASYNC at its next boundary, with the SEQ of that record; after a frame write it wedges with reason 10.
  (∀ (s : State) (n : Nat) (e : MEntry) (before after : List MEntry), Unharmed s → s.mem.gone = [] →
     (s.core (coreOf n)).merge = before ++ e :: after → e.ctx = n → e.elig = true → (∀ x ∈ before, x.ctx = n → x.elig = false) →
     (e.frame = none → ∃ u, exec (.asyncStoreError n) s = .next u ∧ (u.core (coreOf n)).merge = before ++ after ∧
       u.ctx n = { s.ctx n with pendAsync := (s.ctx n).pendAsync ++ [(e.first, s.ras.next)] } ∧ (∀ m, m ≠ n → u.ctx m = s.ctx m) ∧
       SameBytes { s with cores := u.cores } u) ∧
     (∀ w, e.frame = some w → (s.ctx n).run ≠ .wedged → ∃ u, exec (.asyncStoreError n) s = .next u ∧
       (u.core (coreOf n)).merge = before ++ after ∧ (u.ctx n).run = .wedged ∧ (u.ctx n).wReason = 10 ∧ (u.ctx n).wCause = w.1 ∧
       (u.ctx n).wAddr = w.2 ∧ (u.ctx n).pendAsync = (s.ctx n).pendAsync)) ∧
  -- R206, R210 to R212: PRED_FLUSH empties the predictor of a core, with the return stacks of its contexts, and stops it until the
  -- flush is done.
  (∀ (s : State) (r : Requester) (k : Nat), k < 8 * Config.clusters s.hw.variant →
     (RegOpen s r (0x20000 + 0x2000 * (k / 8) + 32 + k % 8) →
       ∃ u, exec (.predFlush r k) s = .next u ∧ u.core k = { s.core k with predBusy := true } ∧ u.pred k = {} ∧
         (∀ j, j ≠ k → u.pred j = s.pred j) ∧
         (∀ m, m / 4 = k → (u.ctx m) = { s.ctx m with retStack := [], retTop := 0 }) ∧ (∀ m, m / 4 ≠ k → u.ctx m = s.ctx m)) ∧
     exec (.predFlushDone k) s = .next (s.setCore k { s.core k with predBusy := false }))

/-! ### Registers -/

/-- Register writes: who reaches a word, the lock, the fields that hold what is written, and the words that ignore it. -/
def Obligations.RegisterWrites : Prop :=
  -- R35, R431, R527, R534: a register write by a requester that reaches the word takes effect in the written part; a write of another
  -- size, or to a word that the requester does not reach, changes no register.
  ((∀ (s : State) (r : Requester) (n : Nat) (p : Part) (v : Word), PartOpen s r n p →
     exec (.registerWrite r (.bar0 n) p v) s = .next ((s.heard r).regWrite r n p v)) ∧
   (∀ (s : State) (r : Requester) (n : Nat) (p : Part) (v : Word), p = .other ∨ (s.heard r).canAccess r n p permStore = false →
     ∃ u, exec (.registerWrite r (.bar0 n) p v) s = .next u ∧ u.lk = s.lk ∧ u.glb = s.glb ∧ u.tbu = s.tbu ∧ u.rng = s.rng ∧
       u.eau = s.eau ∧ u.dmc = s.dmc ∧ u.pmu = s.pmu ∧ u.ctxs = s.ctxs) ∧
   (∀ (s : State) (r : Requester) (a : RegAddr) (p : Part) (v : Word), ∃ u, exec (.registerWrite r a p v) s = .next u ∧
     (s.glb.locked = true → u.lk = s.lk ∧ u.glb.locked = true))) ∧
  -- R526, R531, R533: a host's memory request in the window of BAR0 is the access of the register word there; one that no window takes
  -- is an Unsupported Request; a configuration request names a function by its routing ID.
  (∀ (s : State) (p n i d : Nat) (v : Word) (part : Part), (s.port p).merged = false →
     (s.pageOpen (1024 * p) = true → tget 0 (s.fn (1024 * p)).bars 0 % 2 ^ 22 = 0 → 8 * n < 2 ^ 22 →
       let a := tget 0 (s.fn (1024 * p)).bars 0 + 8 * n
       exec (.registerWrite (.host p) (.mem a) .full v) s = exec (.registerWrite (.host p) (.bar0 n) .full v) s ∧
       exec (.rcFieldRead (.host p) (.mem (a + 4)) .low) s = exec (.rcFieldRead (.host p) (.bar0 n) .high) s) ∧
     (s.windowOf p n = none → ∃ u m, exec (.rcFieldRead (.host p) (.mem n) part) s = .next u ∧
       u.outbox = s.outbox ++ m ++ [.unsupported (.host p)]) ∧
     (i < 1024 → exec (.rcFieldRead (.host p) (.routing i d) part) s = exec (.rcFieldRead (.host p) (.config (1024 * p + i) d) part) s)) ∧
  -- R21, R45: GLB_LOCK is set by its own write, and stays set.
  (∀ (s : State) (r : Requester), RegOpen s r 5 →
     exec (.glbLockSet r) s = .next { s.heard r with glb := { (s.heard r).glb with locked := true } }) ∧
  -- R21, R32, R35: with the lock open these RW and LK fields hold the written bits, and a read answers them.
  (∀ (s : State) (r : Requester) (v : Word), s.glb.locked = false →
     ∀ p ∈ ([(0x2006, 24), (0x2009, 11), (0x4000, 24), (0x4004, 4), (0x4005, 12), (0xA000, 16), (0xE005, 16), (0x12000, 16), (0x12002, 16),
         (0x12003, 32), (0x12006, 36), (0x16001, 32), (0x16003, 36)] : List (Nat × Nat)),
       RegOpen s r p.1 → ∃ u, exec (.registerWrite r (.bar0 p.1) .full v) s = .next u ∧
         u.regPeek (reqCode r) p.1 % 2 ^ p.2 = v.toNat % 2 ^ p.2 ∧
         (RegOpen u r p.1 → ∃ w, exec (.rcFieldRead r (.bar0 p.1) .full) u = .next w ∧
           w.outbox = u.outbox ++ [.answer r (word (u.regPeek (reqCode r) p.1))])) ∧
  -- R22, R23: a write of an unassigned word of a block's range is ignored.
  (∀ (s : State) (r : Requester) (p : Part) (v : Word) (n : Nat), (0x18000 ≤ n ∧ n < 0x20000) ∨ n ∈ [9, 63, 109, 0x200C, 0x401B, 0x600A] →
     PartOpen s r n p → exec (.registerWrite r (.bar0 n) p v) s = .next (s.heard r))

/-- Register reads that latch, clear, or restart a clock. -/
def Obligations.RegisterReads : Prop :=
  -- R73, R110: a read of TBU_NOW_LO answers the low word of the current full stamp and latches the high word for its requester; while the TBU
  -- counts, PHASE is a value not before the one of the last sample, which the spec leaves open. The next read of TBU_NOW_HI by that requester
  -- answers the latched word and frees the latch.
  (∀ (s : State) (r : Requester),
     (RegOpen s r 0x2002 → s.glb.rTbu = true → ∃ ph fr : Nat,
       let full := (s.tbu.turn % 2 ^ 48).toNat * 2 ^ 24 + s.tbu.beat % 65536 * 256 + ph % 256
       (s.ticking = false → ph = s.tbu.phase) ∧ (s.ticking = true → s.tbu.phase % 256 ≤ ph ∧ ph < 256) ∧
       exec (.tbuNowLoRead r .full) s = .next (({ s.heard r with
         free := fr
         tbu := { s.tbu with phase := ph, latch := tset none s.tbu.latch (reqCode r) (some (word (full / 2 ^ 36))) } }).emit (.answer r (word (full % 2 ^ 36))))) ∧
     (∀ w, RegOpen s r 0x2003 → tget none s.tbu.latch (reqCode r) = some w →
       exec (.rcFieldRead r (.bar0 0x2003) .full) s = .next (({ s.heard r with tbu := { s.tbu with
         latch := tset none s.tbu.latch (reqCode r) none } }).emit (.answer r w)))) ∧
  -- R30, R35: a read by a requester that reaches the word is answered with the part it asks for; a host's read of another size completes
  -- with Unsupported Request.
  (∀ (s : State) (r : Requester) (n : Nat) (p : Part),
     (PartOpen s r n p → exec (.rcFieldRead r (.bar0 n) p) s =
       .next (((s.heard r).regRead r n p).2.emit (.answer r ((s.heard r).regRead r n p).1))) ∧
     (∀ q, r = .host q → ∃ u m, exec (.rcFieldRead r (.bar0 n) .other) s = .next u ∧ u.outbox = s.outbox ++ m ++ [.unsupported r])) ∧
  -- R25, R113, R320, R441: a read of an RC word answers its counters and clears them; a read of the upper half alone clears nothing.
  (∀ (s : State) (r : Requester),
     (RegOpen s r 0x200A → ∃ u, exec (.rcFieldRead r (.bar0 0x200A) .full) s = .next u ∧
       u.tbu = { s.tbu with lateCmd := 0, cmdDrop := 0, badFrame := 0, crc := 0 } ∧
       (s.tbu.lateCmd ≤ 511 → s.tbu.cmdDrop ≤ 511 → s.tbu.badFrame ≤ 511 → s.tbu.crc ≤ 511 → u.outbox = s.outbox ++
         [.answer r (word (s.tbu.lateCmd * 2 ^ 27 + s.tbu.cmdDrop * 2 ^ 18 + s.tbu.badFrame * 2 ^ 9 + s.tbu.crc))])) ∧
     (PartOpen s r 0x200A .high → ∃ u, exec (.rcFieldRead r (.bar0 0x200A) .high) s = .next u ∧ u.tbu = s.tbu) ∧
     (RegOpen s r 0xA002 → ∃ u, exec (.rcFieldRead r (.bar0 0xA002) .full) s = .next u ∧
       u.rng = { s.rng with badidx := 0, stop := 0, auth := 0, replay := 0 }) ∧
     (RegOpen s r 0xE006 → ∃ u, exec (.rcFieldRead r (.bar0 0xE006) .full) s = .next u ∧ u.icu = { s.icu with lost := 0, returned := 0 })) ∧
  -- R315, R320: a read of ICU_STATUS restarts a stopped interrupt clock, and answers the tokens.
  (∀ (s : State) (r : Requester), RegOpen s r 0xE001 →
     ∃ u, exec (.icuStatusRead r .full) s = .next u ∧ u.icu.gated = false ∧
       (s.icu.srcTok < 2 ^ 13 → s.icu.ctxTok < 2 ^ 9 →
         u.outbox = s.outbox ++ [.answer r (word (s.icu.ctxTok * 2 ^ 14 + s.icu.srcTok * 2))])) ∧
  -- R619: a read of the low word of a residency counter latches the high word for its requester, so that both are of one instant. The
  -- counters advance by an amount that the spec leaves open (log entry 5).
  (∀ (s : State) (r : Requester) (n : Nat), s.isRes n = true → n % 2 = 0 → RegOpen s r (0x12000 + n) →
     ∃ (u : State) (x : Nat), exec (.pmuResLowRead r n .full) s = .next u ∧
       tget none u.pmu.latch (reqCode r) = some (n, word (x / 2 ^ 36)) ∧ u.resCounter n = x ∧
       u.outbox = s.outbox ++ [.answer r (word (x % 2 ^ 36))])

/-! ### The time base -/

/-- BEAT frames start the time base and keep its lock; bad frames are counted. -/
def Obligations.FramesOfTheTimeLinks : Prop :=
  -- R83 to R88, R692 step 1: the first BEAT frame of an idle TBU: its time, corrected by the link delay, is taken up, TBU becomes ready and goes
  -- to ACQUIRING on that link, and the time stays as taken up.
  (∀ (s : State) (l : Nat) (b : Blocks) (mk : Mark) (f : BeatFrame), s.receives l = true → rxBlocks b mk = .beat f → s.tbu.mode = .none →
     s.glb.rTbu = false →
     ∃ u, exec (.beatFrame l ⟨b, mk⟩) s = .next u ∧ u.tbu.mode = .acquiring ∧ u.glb.rTbu = true ∧ u.tbu.active = l ∧ u.tbu.bptM1 = f.bpt - 1 ∧
       u.tbu.acqStep = 1 ∧ u.ticking = false ∧ u.tbu.edges = s.tbu.edges ∧
       ((u.tbu.turn * f.bpt + u.tbu.beat) * 256 + u.tbu.phase : Int) = (f.turn * f.bpt + f.beat) * 256 + s.lk.delay ∧
       u.tbu.beat < f.bpt ∧ u.tbu.phase < 256) ∧
  -- R692 step 3: the second frame on the link, later by the reference clock and in beats, gives the period, to within one of its units.
  (∀ (s : State) (l : Nat) (b : Blocks) (mk : Mark) (f : BeatFrame) (r0 : Nat) (b0 : Int), s.receives l = true → rxBlocks b mk = .beat f →
     s.tbu.mode = .acquiring → s.tbu.acqStep = 1 → s.tbu.active = l → s.tbu.hist = [(r0, b0)] → f.bpt = s.bpt → r0 < f.refTime →
     b0 < (s.linkTime f).beats f.bpt →
     let n := ((s.linkTime f).beats f.bpt - b0).toNat
     f.refTime - r0 < (2 ^ 31 - 1) * n →
     ∃ u, exec (.beatFrame l ⟨b, mk⟩) s = .next u ∧ u.tbu.mode = .acquiring ∧ u.tbu.acqStep = 2 ∧ u.tbu.held = false ∧
       u.tbu.period * n < f.refTime - r0 + n ∧ f.refTime - r0 < u.tbu.period * n + n) ∧
  -- R692 step 4: the third consistent frame in a row on the active link locks the TBU.
  (∀ (s : State) (l : Nat) (b : Blocks) (mk : Mark) (f : BeatFrame), s.receives l = true → rxBlocks b mk = .beat f → s.tbu.mode = .acquiring →
     s.tbu.acqStep = 2 → s.tbu.active = l → s.consistent f = true → s.tbu.acqRun = 2 →
     ∃ u, exec (.beatFrame l ⟨b, mk⟩) s = .next u ∧ u.tbu.mode = .locked ∧ u.tbu.active = l) ∧
  -- R89, R91: a consistent BEAT frame on the active link in LOCKED: the time steps to the frame's at most, the mode stays, and three in a
  -- row make a link good.
  (∀ (s : State) (l : Nat) (b : Blocks) (mk : Mark) (f : BeatFrame), s.receives l = true → rxBlocks b mk = .beat f → s.tbu.mode = .locked →
     s.tbu.active = l → s.consistent f = true →
     ∃ u, exec (.beatFrame l ⟨b, mk⟩) s = .next u ∧ u.tbu.mode = .locked ∧ u.tbu.active = l ∧ (u.tbu.link l).badRun = 0 ∧
       (u.tbu.link l).goodRun = min 3 ((s.tbu.link l).goodRun + 1) ∧
       (3 ≤ (s.tbu.link l).goodRun + 1 → (u.tbu.link l).good = true) ∧
       (u.now = s.now ∨ (s.tbu.slew = 0 ∧ Stamp.le s.now u.now = true ∧
         ((u.tbu.turn * f.bpt + u.tbu.beat) * 256 + u.tbu.phase : Int) = (f.turn * f.bpt + f.beat) * 256 + s.lk.delay))) ∧
  -- R84, R85, R89, R113: blocks and frames that a receiving link discards change no time; TBU_ERR counts them. A frame with its CRC right
  -- breaks the run of failures, eight of which fail the link.
  (∀ (s : State) (l : Nat) (b : Blocks), s.receives l = true →
     (rxBlocks b ⟨0, 0⟩ = .bad 1 → ∃ u, exec (.discardedFrame l b) s = .next u ∧ u.tbu.badFrame = satInc 511 s.tbu.badFrame ∧ u.now = s.now) ∧
     (rxBlocks b ⟨0, 0⟩ = .bad 2 → ∃ u, exec (.discardedFrame l b) s = .next u ∧
       u.tbu.badFrame = satInc 511 (satInc 511 s.tbu.badFrame) ∧ u.now = s.now) ∧
     (rxBlocks b ⟨0, 0⟩ = .crc → (s.tbu.link l).crcRun < 7 → ∃ u, exec (.discardedFrame l b) s = .next u ∧ u.now = s.now ∧
       u.tbu.crc = satInc 511 s.tbu.crc ∧ (u.tbu.link l).crcRun = (s.tbu.link l).crcRun + 1) ∧
     (rxBlocks b ⟨0, 0⟩ = .crc → (s.tbu.link l).crcRun = 7 → ∃ u, exec (.discardedFrame l b) s = .next u ∧ u.now = s.now ∧
       u.tbu.crc = satInc 511 s.tbu.crc ∧ (u.tbu.link l).good = false ∧ (u.tbu.link l).crcRun = 0) ∧
     (rxBlocks b ⟨0, 0⟩ = .idle → ∃ u, exec (.idleFrame ⟨l, b⟩) s = .next u ∧ (u.tbu.link l).crcRun = 0 ∧ u.now = s.now)) ∧
  -- R83, R84, R86: what the facility sends is read back: two blocks with the CRC of R84 carry an IDLE frame and a COMMAND frame.
  (rxBlocks idleBlocks ⟨0, 0⟩ = .idle ∧
   rxBlocks (commandBlocks ⟨0x123456789ABC, 0xBEEF, 5, 0x54321, 0x77⟩) ⟨0, 0⟩ = .command ⟨0x123456789ABC, 0xBEEF, 5, 0x54321, 0x77⟩ ∧
   rxBlocks (beatBlocks ⟨0x123456789ABC, 0xBEEF, 131, 15, 65536, 0, 0⟩) ⟨9, 8⟩ = .beat ⟨0x123456789ABC, 0xBEEF, 131, 15, 65536, 9, 8⟩)

/-- A failing time link is switched or held over; beat edges count beats. -/
def Obligations.LinksFailAndBeatsPass : Prop :=
  -- R89, R90, R92, R93: a link that fails while active in LOCKED gives way to the other link when that is good and enabled; else the TBU
  -- goes to HOLDOVER. A link fails by losing block lock, by silence, or by the end of the wait for its second frame.
  (∀ (s : State) (l : Nat), l < 2 → s.tbu.active = l → s.tbu.mode = .locked → (s.tbu.link l).lock = true →
     ∃ u, exec (.blockLockLoss l) s = .next u ∧ (u.tbu.link l).good = false ∧ (u.tbu.link l).lock = false ∧
       (if (s.tbu.link (1 - l)).good = true ∧ s.linkEn (1 - l) = true then u.tbu.mode = .locked ∧ u.tbu.active = 1 - l
        else u.tbu.mode = .holdover ∧ u.tbu.active = l)) ∧
  (∀ (s : State) (l : Nat), l < 2 → s.tbu.active = l → s.tbu.mode = .locked → s.linkEn l = true → (s.tbu.link l).heard = true →
     4 * 2 ^ (s.tbu.link l).m ≤ s.tbu.edges - (s.tbu.link l).lastEdge →
     ∃ u, exec (.linkFail l) s = .next u ∧ (u.tbu.link l).good = false ∧
       (if (s.tbu.link (1 - l)).good = true ∧ s.linkEn (1 - l) = true then u.tbu.mode = .locked ∧ u.tbu.active = 1 - l
        else u.tbu.mode = .holdover ∧ u.tbu.active = l)) ∧
  (∀ (s : State) (l : Nat), l < 2 → s.tbu.active = l → s.tbu.mode = .acquiring → s.tbu.acqStep = 1 →
     ∃ u, exec (.acquireTimeout l) s = .next u ∧ u.tbu.mode = .acquiring ∧ u.tbu.acqStep = 0 ∧ (u.tbu.link l).good = false ∧ u.now = s.now) ∧
  (∀ (s : State) (l : Nat), l < 2 →
     ∃ u, exec (.blockLockAcquired l) s = .next u ∧ (u.tbu.link l).lock = true ∧ u.tbu.mode = s.tbu.mode ∧ u.now = s.now) ∧
  -- R87, R93, R94: a beat edge of its own moves the TBU on by one beat, to the next turn after the last; one step of a slew is spent.
  (∀ (s : State), s.glb.rTbu = true → 0 < s.tbu.period → s.tbu.held = false → s.tbu.mode ≠ .none → s.tbu.beat < s.bpt →
     exec .beatEdge s = .next { s with tbu := { s.tbu with
       turn := if s.tbu.beat + 1 = s.bpt then s.tbu.turn + 1 else s.tbu.turn
       beat := if s.tbu.beat + 1 = s.bpt then 0 else s.tbu.beat + 1
       phase := 0, edges := s.tbu.edges + 1, noAct := false, slew := s.tbu.slew - 1 } })

/-- Commands of the time links wait for their stamp and take effect. -/
def Obligations.TimedCommands : Prop :=
  -- R98, R99: an accepted COMMAND frame with a stamp to come waits for it, and its sequence number is remembered; a repeat of one of the
  -- last sixteen numbers is ignored; a seventeenth command counts in CMDDROP; a late one takes effect at once and counts in LATECMD.
  (∀ (s : State) (l : Nat) (b : Blocks) (f : CmdFrame), s.receives l = true → rxBlocks b ⟨0, 0⟩ = .command f →
     (f.seq ∈ s.tbu.seqs → ∃ u, exec (.commandFrame l b) s = .next u ∧ u.tbu.cmds = s.tbu.cmds ∧ u.tbu.seqs = s.tbu.seqs ∧
       u.tbu.event = s.tbu.event) ∧
     (f.seq ∉ s.tbu.seqs → s.glb.rTbu = true → f.beat < s.bpt → 1 ≤ f.code → f.code ≤ 7 → f.code ≠ 5 → (f.arg = 0 ∨ f.code = 1 ∨ f.code = 7) →
       (s.tbu.cmds.length < 16 → Stamp.le ⟨f.turn, f.beat⟩ s.now = false →
         ∃ u, exec (.commandFrame l b) s = .next u ∧ u.tbu.cmds = s.tbu.cmds ++ [⟨f.code, f.arg, ⟨⟨f.turn, f.beat⟩, s.tbu.edges⟩⟩] ∧
           f.seq ∈ u.tbu.seqs ∧ u.tbu.seqs.length ≤ max 16 s.tbu.seqs.length) ∧
       (16 ≤ s.tbu.cmds.length → Stamp.le ⟨f.turn, f.beat⟩ s.now = false →
         ∃ u, exec (.commandFrame l b) s = .next u ∧ u.tbu.cmds = s.tbu.cmds ∧ u.tbu.cmdDrop = satInc 511 s.tbu.cmdDrop) ∧
       (f.code = 3 → Stamp.le ⟨f.turn, f.beat⟩ s.now = true →
         ∃ u, exec (.commandFrame l b) s = .next u ∧ u.tbu.cmds = s.tbu.cmds ∧ u.tbu.throttle = true ∧
           u.tbu.lateCmd = satInc 511 s.tbu.lateCmd))) ∧
  -- R78, R100, R104, R112: commands that are due take effect: QUIET_START opens a window, announced when ARG is not 0; QUIET_END closes it;
  -- THROTTLE_ON and OFF; RESYNC; CAL. Each sets its bit of TBU_EVENT and leaves the waiting list.
  (∀ (s : State) (c : PendCmd), s.tbu.cmds = [c] → s.isDue c.due = true →
     (c.code = 1 → ∃ u, exec .quietStart s = .next u ∧ u.tbu.cmds = [] ∧ u.tbu.event.testBit 3 = true ∧ u.now = s.now ∧
       u.tbu.quiet = some ⟨if c.arg = 0 then none else some (s.due (s.after c.due.at_ c.arg))⟩) ∧
     (c.code = 2 → c.arg = 0 → s.tbu.quiet.isSome = true → ∃ u, exec .quietEnd s = .next u ∧ u.tbu.cmds = [] ∧ u.tbu.event.testBit 4 = true ∧ u.now = s.now ∧ u.tbu.quiet = none) ∧
     (c.code = 3 → c.arg = 0 → ∃ u, exec .throttleOn s = .next u ∧ u.tbu.cmds = [] ∧ u.tbu.event.testBit 5 = true ∧ u.now = s.now ∧ u.tbu.throttle = true) ∧
     (c.code = 4 → c.arg = 0 → ∃ u, exec .throttleOff s = .next u ∧ u.tbu.cmds = [] ∧ u.tbu.event.testBit 6 = true ∧ u.now = s.now ∧ u.tbu.throttle = false) ∧
     (c.code = 6 → c.arg = 0 → ∃ u, exec .resync s = .next u ∧ u.tbu.cmds = [] ∧ u.tbu.event.testBit 8 = true ∧ u.now = s.now ∧
       u.tbu.mode = .acquiring ∧ u.tbu.acqStep = 0 ∧ u.tbu.mismatch = false ∧ u.tbu.slew = 0) ∧
     (c.code = 7 → ∃ u, exec .cal s = .next u ∧ u.tbu.cmds = [] ∧ u.tbu.event.testBit 9 = true ∧ u.now = s.now ∧ u.tbu.calPend = some c.arg)) ∧
  (∀ (s : State) (d : Due), s.tbu.quiet = some ⟨some d⟩ → s.isDue d = true →
     exec .quietWindowExpiry s = .next { s with tbu := { s.tbu with quiet := none } }) ∧
  -- R102: TURN_RESET renumbers the turns once every item due at its stamp has acted: the current turn and the stamp of every waiting alarm,
  -- deadline, command and decision record fall by the turn of the command's stamp, so that every distance stays.
  (∀ (s : State) (c : PendCmd), s.tbu.cmds = [c] → s.isDue c.due = true → c.code = 5 → c.arg = 0 → s.lk.acceptReset = true → twf {} s.ctxs = true →
     s.itemsDue = false →
     let T := c.due.at_.turn
     let f := fun (x : Stamp) => (⟨x.turn - T, x.beat⟩ : Stamp)
     ∃ u, exec .turnReset s = .next u ∧ u.tbu.turn = s.tbu.turn - T ∧ u.tbu.beat = s.tbu.beat ∧ u.tbu.edges = s.tbu.edges ∧
       u.tbu.event.testBit 7 = true ∧ u.tbu.cmds = [] ∧
       (∀ n, (u.ctx n).alarm = (s.ctx n).alarm.map (fun d => ⟨f d.at_, d.edge⟩) ∧
         (u.ctx n).deadline = (s.ctx n).deadline.map (fun d => ⟨f d.at_, d.edge⟩)) ∧
       u.ddu.descs.map (fun d => d.ev.ddl) = s.ddu.descs.map (fun d => f d.ev.ddl) ∧
       u.dol.recs.map (fun r => (r.stamp, r.release.at_)) = s.dol.recs.map (fun r => (f r.stamp, f r.release.at_)) ∧
       (∀ a b : Stamp, Stamp.le (f a) (f b) = Stamp.le a b ∧ ∀ B, Stamp.to B (f a) (f b) = Stamp.to B a b)) ∧
  (∀ (s : State), s.itemsDue = true → exec .turnReset s = .next s)

/-! ### The interrupt controller -/

/-- Arrivals are counted and routed, and the interrupt clock stops and restarts. -/
def Obligations.InterruptsArriveAndAreRouted : Prop :=
  -- R294, R297, R299, R312: an arrival counts in its source up to 15, beyond which it is lost with OVF set; a source that no chapter assigns
  -- is never raised; a level source follows its line.
  (∀ (s : State) (n : Nat), s.srcExists n = true → s.glb.rIcu = true → s.icu.gated = false → assigned n = true →
     (edgeAlways n = true → ∃ u, exec (.sourceArrival n) s = .next u ∧ (∀ m, m ≠ n → u.src m = s.src m) ∧
       u.src n = (if (s.src n).count < 15 then { s.src n with count := (s.src n).count + 1 } else { s.src n with ovf := true })) ∧
     (416 ≤ n → n < 432 → (s.src n).level = false → (s.src n).line = false → (s.src n).count < 15 →
       ∃ u, exec (.sourceArrival n) s = .next u ∧ u.src n = { s.src n with line := true, count := (s.src n).count + 1 } ∧
         ∀ m, m ≠ n → u.src m = s.src m) ∧
     (416 ≤ n → n < 432 → (s.src n).level = true → ∀ b,
       ∃ u, exec (.levelLineChange n b) s = .next u ∧ u.src n = { s.src n with line := b, count := b2n b } ∧ ∀ m, m ≠ n → u.src m = s.src m)) ∧
  (∀ (s : State) (n : Nat), assigned n = false → exec (.sourceArrival n) s = .next s) ∧
  -- R314: an arrival on a source below 32 is signalled to the service core too, whatever its entry holds.
  (∀ (s : State) (n : Nat), n < 17 → ∃ u, exec (.sourceArrival n) s = .next u ∧ .signal n ∈ u.outbox) ∧
  -- R303 to R305, R307: a decision takes a pending source of the highest priority that some context may take, and holds it for an eligible
  -- context of the lowest running priority: the source is in service there. With no such source nothing changes.
  (∀ (s : State), s.icu.gated = false → s.glb.rIcu = true → twf {} s.icu.srcs = true →
     let can := fun (n : Nat) => (∃ e ∈ s.icu.srcs, e.1 = n) ∧ (s.src n).pending = true ∧ ∃ x ∈ s.contexts, s.eligible (s.src n) x = true
     ((∃ n, can n) → s.ras.tbl = [] → ∃ u n x, exec .interruptDelivery s = .next u ∧ can n ∧ x ∈ s.contexts ∧ s.eligible (s.src n) x = true ∧
       (∀ m, can m → (s.src m).pri ≤ (s.src n).pri) ∧
       (∀ y ∈ s.contexts, s.eligible (s.src n) y = true → (s.ctx x).runPri ≤ (s.ctx y).runPri) ∧
       ((s.ctx x).restartPend = false → (u.ctx x).held = some ⟨n, (s.src n).pri, (s.src n).vec⟩) ∧ u.icu.srcTok = n ∧ u.icu.ctxTok = x) ∧
     ((∀ n, ¬ can n) → exec .interruptDelivery s = .next s)) ∧
  -- R315: the interrupt clock stops when no present cluster runs, nothing is pending and nothing is held; the first edge on a source's
  -- line starts it again, and is counted.
  (∀ (s : State) (n : Nat),
     (s.lk.gateEn = true → s.glb.rIcu = true →
       (∀ k, k < Config.clusters s.hw.variant → s.cluPresent k = true → s.cluPower k ≠ some .run) →
       (∀ e ∈ s.icu.srcs, e.2.pending = false) → (∀ e ∈ s.ctxs, e.2.held = none) →
       exec .icuClockStop s = .next { s with icu := { s.icu with gated := true } }) ∧
     (s.icu.gated = true → s.glb.rIcu = true → s.srcExists n = true → assigned n = true → edgeAlways n = true → (s.src n).count < 15 →
       twf {} s.icu.srcs = true →
       ∃ u, exec (.icuClockRestart n) s = .next u ∧ u.icu.gated = false ∧ (u.src n).latch = false ∧ (u.src n).count = (s.src n).count + 1))

/-- The edit lease of the interrupt controller. -/
def Obligations.InterruptEntryEditing : Prop :=
  -- R316, R317, R321 to R323: the edit lease: ACQUIRE loads the shadow and gives the lease to its requester; COMMIT by the holder writes
  -- the shadow's configuration into the entry and ends the lease; ABORT ends it with nothing written; another requester's ACQUIRE, COMMIT
  -- and ABORT are ignored.
  (∀ (s : State) (r : Requester) (n : Nat), RegOpen s r 0xE002 → n < 8192 → s.icu.lease = none →
     ∃ u until_, exec (.icuEditAcquire r n) s = .next u ∧
       u.icu = { s.icu with source := n, lease := some ⟨reqCode r, n, s.src n, false, false, false, until_⟩ }) ∧
  (∀ (s : State) (r : Requester) (l : IcuLease), RegOpen s r 0xE002 → s.icu.lease = some l → l.owner = reqCode r →
     ∃ u, exec (.icuEditCommit r) s = .next u ∧ u.icu.lease = none ∧ (s.srcExists l.src = true →
       (u.src l.src).pri = l.shadow.pri ∧ (u.src l.src).tset = l.shadow.tset ∧ (u.src l.src).vec = l.shadow.vec ∧
       (u.src l.src).level = l.shadow.level ∧ (u.src l.src).wake = l.shadow.wake ∧ (u.src l.src).inserv = (s.src l.src).inserv ∧
       (l.shadow.level = false → (u.src l.src).count = if l.clrcnt then 0 else (s.src l.src).count)) ∧
       ∀ m, m ≠ l.src → u.src m = s.src m) ∧
  (∀ (s : State) (r : Requester) (l : IcuLease), RegOpen s r 0xE002 → s.icu.lease = some l → l.owner = reqCode r →
     ∃ u, exec (.icuEditAbort r) s = .next u ∧ u.icu = { s.icu with lease := none }) ∧
  (∀ (s : State) (r : Requester) (n : Nat) (l : IcuLease), RegOpen s r 0xE002 → n < 8192 → s.icu.lease = some l → l.owner ≠ reqCode r →
     exec (.icuEditAcquire r n) s = .next (s.heard r) ∧ exec (.icuEditCommit r) s = .next (s.heard r) ∧
       exec (.icuEditAbort r) s = .next (s.heard r)) ∧
  -- R316, R587, R590, R594: an edit lease that has run out, or that BSU_LEASEBRK breaks, ends with its shadow discarded; BROKEN counts
  -- it.
  (∀ (s : State) (l : IcuLease), s.icu.lease = some l → s.leaseOver l.until_ = true →
     exec .icuLeaseExpiry s = .next { s with icu := { s.icu with lease := none, broken := satInc 255 s.icu.broken } }) ∧
  (∀ (s : State) (r : Requester) (l : IcuLease), s.icu.lease = some l → RegOpen s r 0x14028 → BreakFree s →
     ∃ u, exec (.leaseBreakIcu r) s = .next u ∧ u.icu.lease = none ∧ u.icu.broken = satInc 255 s.icu.broken ∧ u.bsu.brkKind = 0)

/-! ### Rings and carriages -/

/-- The indices of the rings, and the ring lease: its start, its ends, and its commit. -/
def Obligations.RingIndicesAndLeases : Prop :=
  -- R425, R430: SQ_TAIL takes a value at most a ring's size ahead of SQ_HEAD, and CQ_HEAD one that does not pass the records written;
  -- any other value is ignored and counted in BADIDX. No other function's rings change.
  (∀ (s : State) (t n : Nat) (v : BitVec 32), n < 4 → s.pageOpen t = true →
     let r := s.rings t
     let ahead := fun (a b : Nat) => (b + 2 ^ 32 - a) % 2 ^ 32
     (∃ u, exec (.sqTailWrite t n v) s = .next u ∧ (∀ x, x ≠ t → u.rings x = s.rings x) ∧
       if ahead (tget 0 r.sqHead n) v.toNat ≤ 2 ^ (r.cfg n).size then
         u.rings t = { r with tail := (u.rings t).tail } ∧ tget 0 (u.rings t).tail n = v.toNat ∧
         (∀ m, m ≠ n → tget 0 (u.rings t).tail m = tget 0 r.tail m) ∧ u.rng.badidx = s.rng.badidx
       else u.rings t = r ∧ u.rng.badidx = satInc 511 s.rng.badidx) ∧
     (∃ u, exec (.cqHeadWrite t n v) s = .next u ∧ (∀ x, x ≠ t → u.rings x = s.rings x) ∧
       if ahead (tget 0 r.cqHead n) v.toNat ≤ ahead (tget 0 r.cqHead n) (tget 0 r.written n) then
         u.rings t = { r with cqHead := (u.rings t).cqHead } ∧ tget 0 (u.rings t).cqHead n = v.toNat ∧
         (∀ m, m ≠ n → tget 0 (u.rings t).cqHead m = tget 0 r.cqHead m) ∧ u.rng.badidx = s.rng.badidx
       else u.rings t = r ∧ u.rng.badidx = satInc 511 s.rng.badidx)) ∧
  -- R429, R545: the ring lease of a function. ACQUIRE loads the shadow, unless a lease lies there or a freeze lease holds the port; ABORT
  -- ends it and clears STOPPED; expiry ends it with BROKEN set.
  (∀ (s : State) (t n : Nat), s.pageOpen t = true → n < 8 → (s.rings t).lease = none →
     ((s.port (portOf t)).frozen = false ∨ (s.port (portOf t)).frzLease = none) →
     ∃ u until_, exec (.ringLeaseAcquire t n) s = .next u ∧
       u.rings t = { s.rings t with sel := n, lease := some ⟨n, (s.rings t).cfg n, until_⟩ }) ∧
  (∀ (s : State) (t n : Nat), s.pageOpen t = true → n < 8 →
     ((s.rings t).lease.isSome = true ∨ ((s.port (portOf t)).frozen = true ∧ (s.port (portOf t)).frzLease.isSome = true)) →
     ∃ u, exec (.ringLeaseAcquire t n) s = .next u ∧ u.rng = s.rng) ∧
  (∀ (s : State) (t : Nat) (l : RingLease), s.pageOpen t = true → (s.rings t).lease = some l →
     ∃ u, exec (.ringLeaseAbort t) s = .next u ∧ u.rings t = { s.rings t with lease := none, stopped := (u.rings t).stopped } ∧
       (l.ring < 4 → tget false (u.rings t).stopped l.ring = false) ∧
       ∀ m, m ≠ l.ring → tget false (u.rings t).stopped m = tget false (s.rings t).stopped m) ∧
  (∀ (s : State) (t : Nat) (l : RingLease), (s.rings t).lease = some l → s.leaseOver l.until_ = true →
     ∃ u, exec (.ringLeaseExpiry t) s = .next u ∧ u.rings t = { s.rings t with lease := none, broken := true }) ∧
  -- R429: COMMIT gives the ring its shadow, with EN 0 where the shadow is refused; a submission ring is no longer STOPPED; a ring that is
  -- enabled begins with its indices at 0; a completion ring that is disabled loses its reservations.
  (∀ (s : State) (t : Nat) (l : RingLease), s.pageOpen t = true → (s.rings t).lease = some l → l.ring < 8 →
     let r := s.rings t
     let k := l.ring
     let c := l.shadow
     let refused := c.size < 4 ∨ 16 < c.size ∨ c.lo % 4096 ≠ 0 ∨ (k < 4 ∧ c.weight = 0) ∨
       (4 ≤ k ∧ (if t % 1024 = 0 then 2048 else 64) ≤ c.vector)
     ∃ u, exec (.ringLeaseCommit t) s = .next u ∧
       let d := u.rings t
       d.lease = none ∧ d.cfg k = (if refused then { c with en := false } else c) ∧
       (∀ m, m < 8 → m ≠ k → d.cfg m = r.cfg m) ∧
       (k < 4 → tget false d.stopped k = false) ∧
       ((d.cfg k).en = true → (r.cfg k).en = false →
         (k < 4 → tget 0 d.tail k = 0 ∧ tget 0 d.sqHead k = 0 ∧ tget none d.fetch k = none) ∧
         (4 ≤ k → tget 0 d.cqHead (k - 4) = 0 ∧ tget 0 d.written (k - 4) = 0)) ∧
       ((d.cfg k).en = false → 4 ≤ k → tget 0 d.reserved (k - 4) = 0))

/-- Fetching from a submission ring, and what completions and timeouts do. -/
def Obligations.CarriagesAreFetched : Prop :=
  -- R425, R427, R537, R580: with one function at its port, the eligible ring of the smallest pass, the lower on a tie, is read next: a record
  -- slot is reserved and the slot at SQ_HEAD is asked for.
  (∀ (s : State) (p t n g : Nat), s.portPresent p = true → s.ringFns p = [t] →
     (tget 0 s.rng.round p = 0 ∨ tget 0 s.rng.round p = t + 1) → s.freeTag p = some g → (s.rings t).awaitsHeader = false →
     (∀ m ∈ s.eligRings t, (s.rings t).elig.testBit m = true) → n ∈ s.startRings t →
     (∀ m ∈ s.startRings t, m ≠ n → (s.rings t).passOf n < (s.rings t).passOf m ∨ ((s.rings t).passOf n = (s.rings t).passOf m ∧ n < m)) →
     let r := s.rings t
     let c := r.cfg n
     ∃ u, exec (.carriageFetch p) s = .next u ∧
       tget none (u.rings t).fetch n = some ⟨s.serial, c.cq, none, []⟩ ∧
       (u.rings t).slots n = r.slots n ++ [⟨s.serial, c.cq, none⟩] ∧
       tget 0 (u.rings t).reserved c.cq = tget 0 r.reserved c.cq + 1 ∧
       (u.port p).reads = (s.port p).reads ++ [⟨g, t, n, true, true⟩] ∧
       u.outbox = s.outbox ++ [.read p g t (c.hi * 2 ^ 32 + c.lo + 64 * (tget 0 r.sqHead n % 2 ^ c.size)) 64]) ∧
  -- R409, R426, R427, R538, R542, R543: what a completion for an outstanding read does: a header asks for its payload; the last slot moves
  -- SQ_HEAD past the carriage.
  (∀ (s : State) (p g q : Nat) (r : HostRead) (f : Fetching) (os : List Octet), s.portPresent p = true → s.findRead p g = some (q, r) →
     r.live = true → tget none (s.rings r.tenant).fetch r.ring = some f →
     let t := r.tenant
     let n := r.ring
     let head := tget 0 (s.rings t).sqHead n
     (f.header = none → f.payload = [] → os.length = 64 → 1 ≤ hSlots os → hSlots os ≤ 63 →
       ∃ u, exec (.readCompletion p g (.ok os)) s = .next u ∧ tget none (u.rings t).fetch n = some { f with header := some os } ∧
         tget 0 (u.rings t).sqHead n = head ∧
         u.outbox = s.outbox ++ [.read (portOf t) g t (((s.rings t).cfg n).slotAddr (head + 1) 64) 64]) ∧
     (∀ h, f.header = some h → hSlots h ≤ 63 → f.payload.length + 64 = 64 * hSlots h →
       ∃ u, exec (.readCompletion p g (.ok os)) s = .next u ∧ tget none (u.rings t).fetch n = none ∧
         tget 0 (u.rings t).sqHead n = (head + 1 + hSlots h) % 2 ^ 32)) ∧
  -- SLOTS above 63, a failed completion and a completion timeout stop the ring.
  (∀ (s : State) (p g q : Nat) (r : HostRead) (f : Fetching) (os : List Octet), s.portPresent p = true → s.findRead p g = some (q, r) →
     r.live = true → tget none (s.rings r.tenant).fetch r.ring = some f → f.header = none → os.length = 64 → 63 < hSlots os →
     ∃ u, exec (.readCompletion p g (.ok os)) s = .next u ∧ tget false (u.rings r.tenant).stopped r.ring = true ∧
       tget none (u.rings r.tenant).fetch r.ring = none ∧ tget 0 (u.rings r.tenant).sqHead r.ring = tget 0 (s.rings r.tenant).sqHead r.ring ∧
       u.rng.stop = satInc 511 s.rng.stop) ∧
  (∀ (s : State) (p g q : Nat) (r : HostRead) (f : Fetching) (c : Cpl), s.portPresent p = true → s.findRead p g = some (q, r) →
     r.live = true → tget none (s.rings r.tenant).fetch r.ring = some f → (c = .ur ∨ c = .ca) →
     ∃ u, exec (.readCompletion p g c) s = .next u ∧ tget false (u.rings r.tenant).stopped r.ring = true ∧
       tget none (u.rings r.tenant).fetch r.ring = none ∧ tget 0 (u.rings r.tenant).sqHead r.ring = tget 0 (s.rings r.tenant).sqHead r.ring ∧
       u.rng.stop = satInc 511 s.rng.stop) ∧
  (∀ (s : State) (p g q : Nat) (r : HostRead) (f : Fetching), s.findRead p g = some (q, r) →
     r.live = true → tget none (s.rings r.tenant).fetch r.ring = some f →
     ∃ u, exec (.completionTimeout p g) s = .next u ∧ tget false (u.rings r.tenant).stopped r.ring = true ∧
       tget none (u.rings r.tenant).fetch r.ring = none ∧ tget 0 (u.rings r.tenant).sqHead r.ring = tget 0 (s.rings r.tenant).sqHead r.ring ∧
       u.rng.stop = satInc 511 s.rng.stop) ∧
  -- A poisoned completion freezes the port; one to be discarded counts in LATECPL; one for no read is an error alone.
  (∀ (s : State) (p g q : Nat) (r : HostRead), s.portPresent p = true → s.findRead p g = some (q, r) →
     (r.live = true → ∃ u, exec (.readCompletion p g .poisoned) s = .next u ∧ (u.port q).frozen = true ∧
       (u.port q).cause.testBit 5 = true) ∧
     (r.live = false → ∀ c, ∃ u, exec (.readCompletion p g c) s = .next u ∧ u.rng = s.rng ∧ (u.port q).reads = (s.port q).reads.erase r ∧
       (u.port q).latecpl = if r.late then satInc 511 (s.port q).latecpl else (s.port q).latecpl)) ∧
  (∀ (s : State) (p g : Nat) (c : Cpl), s.portPresent p = true → s.findRead p g = none →
     ∃ u, exec (.readCompletion p g c) s = .next u ∧ u.rng = s.rng)

/-- The aperture, the carriages of the ring engine, and the key engine. -/
def Obligations.CarriagesAreChecked : Prop :=
  -- R434 to R436, R542: a slot that arrives in an aperture queue begins a carriage or adds to one; a carriage whose last slot is there is
  -- ready; a timeout and a poisoned write discard what has come; BAR2 reads as zero octets.
  (∀ (s : State) (t off : Nat) (os : List Octet), s.portPresent (portOf t) = true → s.pageOpen t = true → off % 64 = 0 → os.length = 64 →
     off + 64 ≤ s.apertureSize t → (s.port (portOf t)).frozen = false → s.rng.intake = true → s.bsu.recovery = false → s.dead t = false →
     let k := off / 4096
     let was := tget none s.rng.pushes (t * 2 ^ 24 + k)
     let holds := fun (u : State) (q : Option Push) => tget none u.rng.pushes (t * 2 ^ 24 + k) = q ∧
       u.rng = { s.rng with pushes := u.rng.pushes } ∧ ∀ j, j ≠ t * 2 ^ 24 + k → tget none u.rng.pushes j = tget none s.rng.pushes j
     (was = none → 1 ≤ hSlots os → hSlots os ≤ 63 → s.staged (portOf t) + 1 + hSlots os ≤ 4096 → s.openPushes (portOf t) < 256 →
       ∃ u, exec (.apertureWrite t off os) s = .next u ∧ holds u (some ⟨os, [], false⟩)) ∧
     (was = none → 63 < hSlots os → ∃ u, exec (.apertureWrite t off os) s = .next u ∧ u.rng.pushes = s.rng.pushes ∧
       u.rng.drop = satInc 511 s.rng.drop) ∧
     (∀ q, was = some q → q.drop = false → q.payload.length + 64 < 64 * hSlots q.header →
       ∃ u, exec (.apertureWrite t off os) s = .next u ∧ holds u (some { q with payload := q.payload ++ os })) ∧
     (∀ q, was = some q → q.drop = false → q.payload.length + 64 = 64 * hSlots q.header → s.readyQ (portOf t) = [] →
       let c : Carriage := ⟨s.serial, t, .queue k, none, q.header, q.payload ++ os⟩
       s.check c = none → (c.op = 0x02 ∨ c.op = 0x3F) → ∃ u, exec (.apertureWrite t off os) s = .next u ∧ u.readyQ (portOf t) = [c] ∧
         tget none u.rng.pushes (t * 2 ^ 24 + k) = none)) ∧
  (∀ (s : State) (t k : Nat) (q : Push), tget none s.rng.pushes (t * 2 ^ 24 + k) = some q → q.drop = false →
     ∃ u, exec (.apertureTimeout t k) s = .next u ∧ tget none u.rng.pushes (t * 2 ^ 24 + k) = none ∧ u.rng.drop = satInc 511 s.rng.drop) ∧
  (∀ (s : State) (t k : Nat) (q : Push), tget none s.rng.pushes (t * 2 ^ 24 + k) = some q → q.drop = false → s.pageOpen t = true →
     4096 * k < s.apertureSize t →
     ∃ u, exec (.poisonedWrite t k) s = .next u ∧ tget none u.rng.pushes (t * 2 ^ 24 + k) = none ∧ u.rng.drop = satInc 511 s.rng.drop) ∧
  (∀ (s : State) (t off : Nat), s.pageOpen t = true → ∃ u, exec (.rcFieldRead (.host (portOf t)) (.aperture t off) .full) s = .next u ∧
     u.outbox = s.outbox ++ [.answer (.host (portOf t)) 0]) ∧
  -- R412, R414, R416, R418, R432: the carriages that RNG carries out itself. NOP completes with OK; an opcode that is not assigned with
  -- UNSUPPORTED; a carriage that fails an earlier check with that check's status; a MAILBOX of no octets with OK, and one while mailboxes are
  -- off with NOT_READY. The next ready carriage of the port then has its turn.
  (∀ (s : State) (p : Nat) (c : Carriage), (s.readyQ p).head? = some c →
     (c.op = 0x3F → s.check c = none → ∃ u, exec (.fragmentCarriageNop p) s = .next u ∧ Answered s u c 0 []) ∧
     (∀ st, c.op = 0x3F → s.check c = some st → ∃ u, exec (.fragmentCarriageNop p) s = .next u ∧ Answered s u c st []) ∧
     (bodyFields c.op = none → (s.port (portOf c.tenant)).frozen = false → hSlots c.header ≤ 63 →
       ∃ u, exec (.unknownOpcode p) s = .next u ∧ Answered s u c 8 []) ∧
     (c.op = 0x02 → s.check c = none → hLength c.header = 0 → ∃ u, exec (.mailbox p) s = .next u ∧ Answered s u c 0 []) ∧
     (c.op = 0x02 → s.check c = none → hLength c.header ≠ 0 → s.lk.mbEn = false →
       ∃ u, exec (.mailbox p) s = .next u ∧ Answered s u c 1 [])) ∧
  -- R27, R416, R437 to R439, R582: the key engine: a wrong MAC gets AUTH and counts in AUTH; a SEQ that is not above the last accepted gets
  -- REPLAY, with that SEQ in INFO, and counts in REPLAY; an accepted SEQ is the last accepted, and the carriage goes to the service core, or
  -- gets RANGE when a field is out of range.
  (∀ (s : State) (p : Nat) (e : Crit), s.nextCrit = some (p, e) →
     let c := e.c
     let k := s.keyRec c.tenant
     let seq := hSeq c.header
     ∃ u, exec .keyEngineCheck s = .next u ∧
       (s.macOk c = false → Answered s u c 3 [] ∧ u.rng.auth = satInc 511 s.rng.auth ∧ u.bsu.keys = s.bsu.keys) ∧
       (s.macOk c = true → seq ≤ k.last → Answered s u c 4 (octetsLe 7 k.last) ∧ u.rng.replay = satInc 511 s.rng.replay ∧
         u.bsu.keys = s.bsu.keys) ∧
       (s.macOk c = true → k.last < seq →
         u.keyRec c.tenant = { k with last := seq, ceiling := if k.ceiling < seq then min (seq + 65536) (2 ^ 64 - 1) else k.ceiling } ∧
         (∀ t, t ≠ c.tenant → u.keyRec t = s.keyRec t) ∧
         (s.rangeOk c = false → Answered s u c 2 []) ∧
         (s.rangeOk c = true → u.rng.eauQ = s.rng.eauQ ∧ ∃ l, u.rng.svcQ = s.rng.svcQ ++ c :: l)))

/-- R432, R433: a delivery to a mailbox writes the header line and the data words into the slot of PROD, and PROD + 1; its record's INFO
is the new PROD. A mailbox that is full gets QUOTA. -/
def Obligations.MailboxDelivery : Prop :=
  ∀ (s : State) (p : Nat) (c : Carriage), (s.readyQ p).head? = some c → c.op = 0x02 → s.check c = none → hLength c.header ≠ 0 →
    s.lk.mbEn = true →
    let line := s.lk.mbLine + c.tenant
    let at_ := fun (i : Nat) => (s.mem.word (12 * line + i)).data.toNat
    let base := at_ 0
    let lg := at_ 1
    let prod := at_ 2
    let slot := base + 85 * (prod % 2 ^ lg)
    let seq := hSeq c.header
    PlainLines s line (line + 1) → 1 ≤ lg → lg ≤ 12 → base + 85 * 2 ^ lg ≤ s.popLines →
    (2 ^ lg ≤ (prod + 2 ^ 36 - at_ 3) % 2 ^ 36 → ∃ u, exec (.mailbox p) s = .next u ∧ Answered s u c 5 []) ∧
    ((prod + 2 ^ 36 - at_ 3) % 2 ^ 36 < 2 ^ lg → PlainLines s slot (slot + 85) → (line < base ∨ base + 85 * 2 ^ lg ≤ line) →
      ∃ u, exec (.mailbox p) s = .next u ∧ Answered s u c 0 (octetsLe 4 ((prod + 1) % 2 ^ 36)) ∧
        (∀ i, i < 12 → u.mem.word (12 * slot + i) = ⟨[word (hLength c.header), word (hMode c.header), word seq, word (seq / 2 ^ 36),
          word (c.body 24 8), word (c.body 24 8 / 2 ^ 36), word c.origin.source, s.nowShort, 0, 0, 0, 0].getD i 0, false⟩) ∧
        (∀ i, i < c.words.length → u.mem.word (12 * (slot + 1) + i) = ⟨c.words.getD i 0, false⟩) ∧
        u.mem.word (12 * line + 2) = ⟨word (prod + 1), false⟩)

/-! ### The event assembly unit -/

/-- Carts that are refused, duplicates and stragglers. -/
def Obligations.CartsThatChangeNoEntry : Prop :=
  -- R460 steps 1 to 3 and 7: the carts that are refused, with their statuses; the table, the pools and the charges stay.
  (∀ (s : State) (b : Nat) (c : Carriage), BankTakes s b c 0x01 →
     let p := c.body 18 2
     let x := s.prof p
     let src := c.body 16 2
     let fed := x.owner = c.tenant ∨ (x.rec_.feed = 1 ∧ c.tenant ∈ x.rec_.feeders) ∨ x.rec_.feed = 2
     let ends := fun (st : Nat) => ∃ u, exec (.fragment b) s = .next u ∧ Answered s u c st [0, 0] ∧
       u.eau = { s.eau with cnt := u.eau.cnt, event := u.eau.event }
     let good := x.owned = true ∧ s.dead x.owner = false ∧ x.susp = false ∧ x.bad = false ∧ fed
     let place := x.rec_.srcbase ≤ src ∧ src < x.rec_.srcbase + x.rec_.nsrc ∧ x.rec_.expects (src - x.rec_.srcbase) = true
     let w := word (c.body 24 8)
     (x.owned = false → ends 2) ∧
     (x.owned = true → (s.dead x.owner = true ∨ x.susp = true ∨ x.bad = true ∨ ¬ fed) → ends 3) ∧
     (good → ¬ place → ends 2) ∧
     (good → place → s.findEntry b p w = none → (s.victimsOf b).all (fun v => decide (v.profile ≠ p) || decide (v.key ≠ w)) = true →
       Stamp.le (s.after (s.resolve w) x.rec_.asmdl) s.now = false →
       (x.release.isSome = true → ends 2) ∧
       (x.release = none → ((s.pool x.rec_.pool).owned = false ∨ (s.pool x.rec_.pool).rec_.en = false ∨ (s.pool x.rec_.pool).drain.isSome = true ∨ (s.pool x.rec_.pool).bad = true ∨
         (s.pool x.rec_.pool).takeSlot = none ∨ (s.quota x.owner).maxEnt ≤ (s.charged x.owner).1 ∨
         (s.quota x.owner).maxSlots ≤ (s.charged x.owner).2) → ends 5))) ∧
  -- R460 steps 4 and 9, R472: a cart for an event that has its position already is a DUPLICATE, and one for an event whose deadline has
  -- passed a STRAGGLER: INFO is the arrived count, and the entry stays.
  (∀ (s : State) (b : Nat) (c : Carriage) (k : Nat) (e : Entry), BankTakes s b c 0x01 →
     let p := c.body 18 2
     let x := s.prof p
     let pos := c.body 16 2 - x.rec_.srcbase
     s.feedCheck c x = none → x.rec_.srcbase ≤ c.body 16 2 → pos < x.rec_.nsrc → x.rec_.expects pos = true →
     s.findEntry b p (word (c.body 24 8)) = some (k, e) → e.st = .assembling → e.ended = none →
     (Stamp.le e.adl.at_ s.now = false → e.h4 = false → e.bitmap.testBit pos = true →
       ∃ u, exec (.fragment b) s = .next u ∧ Answered s u c 6 (octetsLe 2 e.arrived) ∧ u.eau.table = s.eau.table ∧
         tget 0 u.eau.cnt 4 = satInc (2 ^ 36 - 1) (tget 0 s.eau.cnt 4)) ∧
     (Stamp.le e.adl.at_ s.now = false → e.h4 = true →
       (∀ m v, s.bitmapFind b e.id = some m → m.lines.getD (pos / 432) none = some v → v.testBit (pos % 432) = true →
         ∃ u, exec (.fragment b) s = .next u ∧ Answered s u c 6 (octetsLe 2 e.arrived) ∧ u.eau.table = s.eau.table)) ∧
     (Stamp.le e.adl.at_ s.now = true →
       ∃ u, exec (.fragment b) s = .next u ∧ Answered s u c 7 (octetsLe 2 e.arrived) ∧ u.eau.table = s.eau.table ∧
         tget 0 u.eau.cnt 5 = satInc (2 ^ 36 - 1) (tget 0 s.eau.cnt 5)))

/-- Carts are appended and create entries; a TASK is a whole event. -/
def Obligations.CartsMakeEvents : Prop :=
  -- R460 steps 10 to 12, R464, R467, R475: a cart whose position is new and whose record fits is appended: its two head words and its
  -- data stand in the coach behind the words used; the arrived count and the bitmap gain it; the event that it completes ends COMPLETE.
  (∀ (s : State) (b : Nat) (c : Carriage) (k : Nat) (e : Entry), BankTakes s b c 0x01 →
     let p := c.body 18 2
     let x := s.prof p
     let pos := c.body 16 2 - x.rec_.srcbase
     let q := s.pool e.pool
     let line := q.rec_.base + e.slot * q.rec_.slotLines
     let ws := [word (c.body 16 2 + hLength c.header * 2 ^ 16 + hMode c.header * 2 ^ 28), s.nowShort] ++ c.words
     let e1 := { e with used := e.used + ws.length, arrived := e.arrived + 1, bitmap := e.bitmap ||| 2 ^ pos }
     s.feedCheck c x = none → x.rec_.srcbase ≤ c.body 16 2 → pos < x.rec_.nsrc → x.rec_.expects pos = true →
     s.findEntry b p (word (c.body 24 8)) = some (k, e) → e.st = .assembling → e.ended = none →
     Stamp.le e.adl.at_ s.now = false → e.bitmap.testBit pos = false → e.h4 = false →
     e.used + ws.length ≤ (q.rec_.slotLines - 1) * 12 → s.closeRoom = true →
     q.rec_.en = true → PlainLines s line (line + q.rec_.slotLines) →
     ∃ u, exec (.fragment b) s = .next u ∧ Answered s u c 0 (octetsLe 2 e1.arrived) ∧
       u.entry k = some (if e1.arrived = e.expected then { e1 with st := .closing, ended := some ⟨.complete, s.nowShort, s.serial⟩ } else e1) ∧
       (∀ j, j ≠ k → u.entry j = s.entry j) ∧
       (∀ i, i < ws.length → u.mem.word (12 * line + 12 + e.used + i) = ⟨ws.getD i 0, false⟩)) ∧
  -- R460 step 8, R452, R456, R459, R461: the first cart of an event takes a free way of its set and the slot at the head of its pool's free
  -- list: a new ASSEMBLING entry with the deadlines of its profile and one arrival.
  (∀ (s : State) (b : Nat) (c : Carriage) (k slot : Nat) (q1 : Pool), BankTakes s b c 0x01 →
     let p := c.body 18 2
     let w := word (c.body 24 8)
     let x := s.prof p
     let pos := c.body 16 2 - x.rec_.srcbase
     let st := s.resolve w
     s.feedCheck c x = none → x.rec_.srcbase ≤ c.body 16 2 → pos < x.rec_.nsrc → x.rec_.expects pos = true →
     s.findEntry b p w = none → (s.victimsOf b).all (fun v => decide (v.profile ≠ p) || decide (v.key ≠ w)) = true →
     Stamp.le (s.after st x.rec_.asmdl) s.now = false → s.roomCheck x true = none →
     s.chooseEntry b (eauSet p w) x.owner = some (k, none) → (s.pool x.rec_.pool).takeSlot = some (slot, q1) →
     x.rec_.h4 = false → 2 + c.words.length ≤ (q1.rec_.slotLines - 1) * 12 → 1 < x.rec_.expected →
     ∃ u e, exec (.fragment b) s = .next u ∧ Answered s u c 0 [1, 0] ∧ u.entry k = some e ∧ (∀ j, j ≠ k → u.entry j = s.entry j) ∧
       e.st = .assembling ∧ e.ended = none ∧ e.profile = p ∧ e.key = w ∧ e.owner = x.owner ∧ e.cls = x.rec_.cls ∧ e.pool = x.rec_.pool ∧
       e.slot = slot ∧ e.stamp = st ∧ e.adl.at_ = s.after st x.rec_.asmdl ∧ e.ddl = s.after st x.rec_.dispdl ∧
       e.expected = x.rec_.expected ∧ e.arrived = 1 ∧ e.bitmap = 2 ^ pos ∧ u.pool x.rec_.pool = q1 ∧
       (q1.owner = x.owner → u.charged x.owner = ((s.charged x.owner).1 + 1, (s.charged x.owner).2 + 1))) ∧
  -- R476: a TASK takes a slot and is at once an event of one arrival, COMPLETE, at the tail of the close queue; a full close queue holds
  -- it back.
  (∀ (s : State) (b slot : Nat) (c : Carriage) (q1 : Pool), BankTakes s b c 0x03 →
     let p := c.body 18 2
     let w := word (c.body 24 8)
     let x := s.prof p
     s.feedCheck c x = none → s.roomCheck x false = none →
     (s.closeRoom = false → Ignored (.task b) s) ∧
     (s.closeRoom = true → (s.pool x.rec_.pool).takeSlot = some (slot, q1) →
       2 + c.words.length ≤ (q1.rec_.slotLines - (if x.rec_.h4 then 4 else 1)) * 12 →
       ∃ u ev, exec (.task b) s = .next u ∧ Answered s u c 0 [1, 0] ∧ u.eau.closeQ = s.eau.closeQ ++ [ev] ∧ u.eau.table = s.eau.table ∧
         ev.profile = p ∧ ev.owner = x.owner ∧ ev.cls = x.rec_.cls ∧ ev.pool = x.rec_.pool ∧ ev.slot = slot ∧ ev.stamp = s.resolve w ∧
         ev.ddl = s.after (s.resolve w) x.rec_.dispdl ∧ ev.flags = 17 + (if x.rec_.h4 then 32 else 0) ∧ ev.arrived = 1 ∧ ev.expected = 1 ∧
         u.pool x.rec_.pool = q1))

/-- PROFILE_SET, POOL_SET and QUOTA_SET. -/
def Obligations.ProfilesPoolsAndQuotas : Prop :=
  -- R442 to R448, R691: PROFILE_SET. A record with a bit that is not assigned is a RANGE error; another tenant's profile is AUTH; a
  -- record in range is the profile's; EN = 0 starts the release of an owned profile, whose record comes when it ends.
  (∀ (s : State) (c : Carriage), EauTakes s c 0x10 →
     let p := c.body 16 2
     let x := s.prof p
     let owner := if x.owned then x.owner else c.tenant
     let ends := fun (st : Nat) (y : Profile) => ∃ u, exec .profileSet s = .next u ∧ Answered s u c st [] ∧ u.prof p = y ∧
       u.eau = { s.eau with profs := u.eau.profs } ∧ ∀ j, j ≠ p → u.prof j = s.prof j
     (parseProf c.words = none → ends 2 x) ∧
     (∀ r, parseProf c.words = some r →
       (x.owned = true → x.owner ≠ c.tenant → c.tenant ≠ 0 → ends 3 x) ∧
       ((x.owned = false ∨ x.owner = c.tenant ∨ c.tenant = 0) →
         (r.en = false → x.owned = false → ends 0 x) ∧
         (r.en = false → x.owned = true → x.release = none → ∃ u l, exec .profileSet s = .next u ∧ u.outbox = s.outbox ∧
           u.prof p = { x with release := some (c, l) } ∧ u.rng.eauQ = s.handOver.rng.eauQ.drop 1) ∧
         (r.en = true → s.profOk owner r = false → ends 2 x) ∧
         (r.en = true → s.profOk owner r = true → (x.owned = true ∨ s.profsOf owner < (s.quota owner).maxProf) →
           (x.release = none → ends 0 { x with owned := true, owner := owner, rec_ := r, bad := x.bad && decide (c.tenant ≠ x.owner) }) ∧
           (x.release.isSome = true → exec .profileSet s = .next s.handOver)) ∧
         (r.en = true → s.profOk owner r = true → x.owned = false → (s.quota owner).maxProf ≤ s.profsOf owner → ends 5 x)))) ∧
  -- R449 to R453, R691: POOL_SET. A new pool has all its slots free; a change of an owned pool drains it first.
  (∀ (s : State) (c : Carriage), EauTakes s c 0x12 →
     let q := c.body 16 2
     let x := s.pool q
     let owner := if x.owned then x.owner else c.tenant
     let ends := fun (st : Nat) (y : Pool) => ∃ u, exec .poolSet s = .next u ∧ Answered s u c st [] ∧ u.pool q = y ∧
       u.eau = { s.eau with pools := u.eau.pools } ∧ ∀ j, j ≠ q → u.pool j = s.pool j
     (parsePool c.words = none → ends 2 x) ∧
     (∀ r, parsePool c.words = some r →
       (x.owned = true → x.owner ≠ c.tenant → c.tenant ≠ 0 → ends 3 x) ∧
       ((x.owned = false ∨ x.owner = c.tenant ∨ c.tenant = 0) →
         let used := s.eau.profs.any (fun e => e.2.owned && decide (e.2.rec_.pool = q))
         let drains := ∃ u l, exec .poolSet s = .next u ∧ u.outbox = s.outbox ∧ u.pool q = { x with drain := some (c, r, l) }
         (r.en = false → x.owned = false → ends 0 x) ∧
         (r.en = false → x.owned = true → used = true → ends 2 x) ∧
         (r.en = false → x.owned = true → used = false → x.drain = none → drains) ∧
         (r.en = true → s.poolOk q owner r = false → ends 2 x) ∧
         (r.en = true → s.poolOk q owner r = true → x.owned = false → s.poolsOf owner < (s.quota owner).maxPool →
           (1048576 < s.slotsBut q + r.nslots → ends 5 x) ∧
           (s.slotsBut q + r.nslots ≤ 1048576 → ends 0 { owned := true, owner := owner, rec_ := r })) ∧
         (r.en = true → s.poolOk q owner r = true → x.owned = true → s.slotsBut q + r.nslots ≤ 1048576 → x.drain = none → drains)))) ∧
  -- R455, R456: QUOTA_SET: the record's fields are the tenant's quota, where no bit that is not assigned is set, the grant lies in
  -- populated DRAM and every enabled pool of the tenant lies in it; else RANGE.
  (∀ (s : State) (c : Carriage), EauTakes s c 0x11 →
     let t := c.body 16 2
     let w := fun (i : Nat) => (c.words.getD i 0).toNat
     let ok := w 0 < 2 ^ 20 ∧ w 1 < 2 ^ 21 ∧ w 2 < 2 ^ 25 ∧ (w 2).testBit 11 = false ∧ w 3 < 2 ^ 32 ∧ w 4 < 2 ^ 32 ∧ w 5 = 0 ∧ w 6 = 0 ∧ w 7 = 0 ∧
       w 3 + w 4 ≤ s.popLines ∧ ∀ e ∈ s.eau.pools, e.2.owned = true → e.2.owner = t → e.2.rec_.en = true →
         w 3 ≤ e.2.rec_.base ∧ e.2.rec_.base + e.2.rec_.nslots * e.2.rec_.slotLines ≤ w 3 + w 4
     (ok → ∃ u, exec .quotaSet s = .next u ∧ Answered s u c 0 [] ∧ u.quota t = ⟨w 0, w 1, w 2 % 2 ^ 11, w 2 / 2 ^ 12, w 3, w 4⟩ ∧
       ∀ j, j ≠ t → u.quota j = s.quota j) ∧
     (¬ ok → ∃ u, exec .quotaSet s = .next u ∧ Answered s u c 2 [] ∧ u.eau = s.eau))


/-- How edit leases end, and what BSU_LEASEBRK breaks. -/
def Obligations.LeasesEnd : Prop :=
  -- R448, R453, R590, R594: how the edit leases of the EAU end. A release ends when no event of the profile is open, and a drain when no
  -- slot of the pool is in use; a lease that has run out, or that BSU_LEASEBRK breaks, changes nothing and answers TIMEOUT.
  (∀ (s : State) (n : Nat) (c : Carriage) (l : LeaseEnd), (s.prof n).release = some (c, l) →
     let open_ := s.eau.table.any (fun e => match e.2 with | some e => decide (e.profile = n) && decide (e.st ≠ AsmState.spent) | none => false)
     (open_ = true → Ignored (.profileReleaseComplete n) s) ∧
     (open_ = false → ∃ u, exec (.profileReleaseComplete n) s = .next u ∧ Answered s u c 0 [] ∧ u.prof n = {} ∧
       (∀ k e, (k, some e) ∈ u.eau.table → e.profile ≠ n) ∧ ∀ j, j ≠ n → u.prof j = s.prof j)) ∧
  (∀ (s : State) (n : Nat) (c : Carriage) (l : LeaseEnd), (s.prof n).release = some (c, l) → s.leaseOver l = true →
     ∃ u, exec (.profileLeaseExpiry n) s = .next u ∧ Answered s u c 10 [] ∧
       u.prof n = { s.prof n with release := none } ∧ u.eau.event.testBit 2 = true) ∧
  (∀ (s : State) (r : Requester) (n : Nat) (c : Carriage) (l : LeaseEnd), (s.prof n).release = some (c, l) → n < 8192 → RegOpen s r 0x14028 →
     BreakFree s → ∃ u, exec (.leaseBreakProfile r n) s = .next u ∧ Answered s u c 10 [] ∧
       u.prof n = { s.prof n with release := none } ∧ u.bsu.brkKind = 2 ∧ u.bsu.brkIndex = n) ∧
  (∀ (s : State) (n : Nat) (c : Carriage) (d : PoolRec) (l : LeaseEnd), (s.pool n).drain = some (c, d, l) →
     ((s.pool n).used ≠ 0 → Ignored (.poolDrainCommit n) s) ∧
     ((s.pool n).used = 0 → ∃ u, exec (.poolDrainCommit n) s = .next u ∧ Answered s u c 0 [] ∧
       u.pool n = (if d.en then { owned := true, owner := (s.pool n).owner, rec_ := d } else {}) ∧
       u.charged (s.pool n).owner = ((s.charged (s.pool n).owner).1, (s.charged (s.pool n).owner).2 - (s.pool n).lost) ∧
       ∀ j, j ≠ n → u.pool j = s.pool j)) ∧
  (∀ (s : State) (n : Nat) (c : Carriage) (d : PoolRec) (l : LeaseEnd), (s.pool n).drain = some (c, d, l) → s.leaseOver l = true →
     ∃ u, exec (.poolLeaseExpiry n) s = .next u ∧ Answered s u c 10 [] ∧
       u.pool n = { s.pool n with drain := none } ∧ u.eau.event.testBit 2 = true) ∧
  (∀ (s : State) (r : Requester) (n : Nat) (c : Carriage) (d : PoolRec) (l : LeaseEnd), (s.pool n).drain = some (c, d, l) → n < 8192 →
     RegOpen s r 0x14028 → BreakFree s →
     ∃ u, exec (.leaseBreakPool r n) s = .next u ∧ Answered s u c 10 [] ∧
       u.pool n = { s.pool n with drain := none } ∧ u.bsu.brkKind = 3 ∧ u.bsu.brkIndex = n) ∧
  -- R594, R664: what BSU_LEASEBRK breaks besides: the ring lease of a function, the DRAM maintenance lease before COMMIT, the freeze lease
  -- of a port. BSU_WDOG restarts its period, which the machine does not count.
  (∀ (s : State) (r : Requester) (t : Nat) (l : RingLease), RegOpen s r 0x14028 → BreakFree s → t < 8192 → (s.rings t).lease = some l →
     ∃ u, exec (.leaseBreakRing r t) s = .next u ∧
       u.rings t = { s.rings t with lease := none, broken := true } ∧ (∀ x, x ≠ t → u.rings x = s.rings x) ∧
       u.bsu = { s.bsu with brkKind := 1, brkIndex := t }) ∧
  (∀ (s : State) (r : Requester) (l : MaintLease), RegOpen s r 0x14028 → BreakFree s → s.dmc.lease = some l → l.committed = false →
     ∃ u, exec (.leaseBreakDram r) s = .next u ∧
       u.dmc = { s.dmc with chans := u.dmc.chans, lease := none, broken := true, target := l.target, quiet := l.quiet } ∧
       u.bsu = { s.bsu with brkKind := 4 }) ∧
  (∀ (s : State) (r : Requester) (p : Nat) (l : LeaseEnd), RegOpen s r 0x14028 → BreakFree s → p < 4 → (s.port p).frzLease = some l →
     ∃ u, exec (.leaseBreakFreeze r p) s = .next u ∧
       (u.port p).frzLease = none ∧ (u.port p).lapsed = true ∧ (u.port p).frozen = (s.port p).frozen ∧
       u.bsu = { s.bsu with brkKind := 5, brkIndex := p }) ∧
  -- R595: a break that is requested while the service core carries out a critical carriage waits, BUSY; until then a further one is ignored.
  (∀ (s : State) (r : Requester) (t : Nat), RegOpen s r 0x14028 → t < 8192 → s.bsu.job ≠ none ∨ s.pmu.job ≠ none →
     (s.bsu.brk = none → ∃ u, exec (.leaseBreakRing r t) s = .next u ∧ u.fns = (s.heard r).fns ∧ u.rng = s.rng ∧
       u.bsu = { s.bsu with brkKind := 1, brkIndex := t, brk := some (1, t) }) ∧
     (s.bsu.brk ≠ none → exec (.leaseBreakRing r t) s = .next (s.heard r))) ∧
  (∀ s : State, exec .bsuWdogWrite s = .next s)

/-- R94, R459, R463, R467 to R470: an event whose assembly deadline is due ends PARTIAL; an ended event enters the close queue when it has
room and leaves its way SPENT after COMPLETE and FREE after PARTIAL; a SPENT entry and a victim key go at their deadline. -/
def Obligations.EventsEnd : Prop :=
  (∀ (s : State) (b k : Nat) (e : Entry), s.glb.rEau = true → (k, e) ∈ s.bankEntries b →
     let due := fun (x : Entry) => x.st = .assembling ∧ x.ended = none ∧ s.isDue x.adl = true
     due e → (∀ x ∈ s.bankEntries b, x ≠ (k, e) → due x.2 → Stamp.le x.2.adl.at_ e.adl.at_ = false) →
     ∃ u, exec (.assemblyDeadline b) s = .next u ∧
       u.entry k = some { e with st := if s.closeRoom then .closing else .assembling, ended := some ⟨.partial_, s.nowShort, s.serial⟩ } ∧
       (∀ j, j ≠ k → u.entry j = s.entry j) ∧ tget 0 u.eau.cnt 2 = satInc (2 ^ 36 - 1) (tget 0 s.eau.cnt 2)) ∧
  (∀ (s : State) (b k o : Nat) (e : Entry) (r : EndRec), s.glb.rEau = true → s.endedOf b = [(o, some (k, e, r))] →
     (s.closeRoom = false → Ignored (.closeQueueEntry b) s) ∧
     (s.closeRoom = true → ∃ u, exec (.closeQueueEntry b) s = .next u ∧ u.eau.closeQ = s.eau.closeQ ++ [e.event r.kind] ∧
       u.entry k = (if r.kind = .complete then some { e with st := .spent } else none) ∧ (∀ j, j ≠ k → u.entry j = s.entry j) ∧
       u.charged e.owner = ((s.charged e.owner).1 - 1, (s.charged e.owner).2))) ∧
  (∀ (s : State) (b o : Nat) (ev : Event × Nat), s.glb.rEau = true → s.endedOf b = [(o, none)] → tget none s.eau.evict b = some ev →
     s.closeRoom = true →
     ∃ u, exec (.closeQueueEntry b) s = .next u ∧ u.eau.closeQ = s.eau.closeQ ++ [ev.1] ∧ tget none u.eau.evict b = none ∧
       u.eau.table = s.eau.table) ∧
  (∀ (s : State) (b k : Nat) (e : Entry), (s.bankEntries b).find? (fun x => decide (x.2.st = .spent) && s.isDue x.2.adl) = some (k, e) →
     ∃ u, exec (.spentEntryExpiry b) s = .next u ∧ u.entry k = none ∧ ∀ j, j ≠ k → u.entry j = s.entry j) ∧
  (∀ (s : State) (b : Nat) (v : Victim), (s.victimsOf b).find? (fun v => s.isDue v.adl) = some v →
     ∃ u, exec (.victimKeyExpiry b) s = .next u ∧ u.victimsOf b = (s.victimsOf b).erase v ∧ ∀ j, j ≠ b → u.victimsOf j = s.victimsOf j)

/-- Events are accepted, picked by deadline, shed, and their decisions released. -/
def Obligations.EventsAreDispatched : Prop :=
  -- R488, R490, R516: the DDU takes the event at the head of the close queue while it is ready and a descriptor is free; it is to be shed
  -- GRACE beats after its dispatch deadline, with GRACE as it stands, and never with the largest GRACE.
  (∀ (s : State) (e : Event) (rest : List Event), s.eau.closeQ = e :: rest →
     (s.glb.rDdu = false ∨ 65536 ≤ s.ddu.descs.length → Ignored .dduAccept s) ∧
     (s.glb.rDdu = true → s.ddu.descs.length < 65536 → s.ras.tbl = [] → ∃ u d, exec .dduAccept s = .next u ∧ u.eau.closeQ = rest ∧
       u.ddu.descs = s.ddu.descs ++ [d] ∧ d.ev = e ∧
       (u.shedDue d).map (·.at_) = (if (s.dduCtl e.cls).grace = 2 ^ 24 - 1 then none else some (s.after e.ddl (s.dduCtl e.cls).grace)) ∧
       tget 0 u.ddu.cnt 0 = satInc (2 ^ 36 - 1) (tget 0 s.ddu.cnt 0))) ∧
  -- R494 to R497: a TAKE may receive the events of the classes that its capability serves, and of its own tenant without CROSS; where no
  -- eligible class is owed a share, the event with the earliest deadline is picked.
  (∀ (s : State) (k : Cap) (d : Desc) (cr : Tbl Nat), s.select k = some (d, cr) →
     let may := fun (x : Desc) => (x.ev.owner = k.tenant ∨ k.perm 11 = true) ∧
       (match (s.dduCtl (k.otype - 4032)).serve with | none => x.ev.cls = k.otype - 4032 | some m => m.testBit x.ev.cls = true)
     d ∈ s.ddu.descs ∧ may d ∧
     ((∀ x ∈ s.ddu.descs, may x → tget 0 s.ddu.credit x.ev.cls + min (s.dduCtl x.ev.cls).share 256 < 256) →
       ∀ x ∈ s.ddu.descs, may x → Stamp.le d.ev.ddl x.ev.ddl = true)) ∧
  -- R490, R452: an event whose DDL and GRACE have passed is shed, the one of the earliest such stamp first: its slot returns to the tail of
  -- its pool's free list, and SHED counts it.
  (∀ (s : State) (cls : Nat) (d : Desc), s.shedNext cls = some d →
     let q := s.pool d.ev.pool
     d ∈ s.ddu.descs ∧ d.ev.cls = cls ∧ s.shedNow d = true ∧
     (∀ x ∈ s.ddu.descs, x.ev.cls = cls → s.shedNow x = true → ∀ y z, s.shedDue d = some y → s.shedDue x = some z →
       Stamp.le y.at_ z.at_ = true) ∧
     ∃ u, exec (.eventShed cls) s = .next u ∧ (∀ x, x ∈ u.ddu.descs ↔ x ∈ s.ddu.descs ∧ x.ev.id ≠ d.ev.id) ∧
       u.pool d.ev.pool = { q with freed := q.freed ++ [d.ev.slot], used := q.used - 1 } ∧
       tget 0 u.ddu.cnt 2 = satInc (2 ^ 36 - 1) (tget 0 s.ddu.cnt 2)) ∧
  -- R49, R508 to R512: the due record of a lane is released as one frame in two blocks: its word, or the default, or both, by how many
  -- decisions came; a lane that is not ready loses it.
  (∀ (s : State) (lane phase : Nat) (r : DRec), lane < 4 → phase < 66 → s.dolNext lane = some r → s.ras.tbl = [] →
     let dflt := tget 0 s.lk.dflt lane
     let w := if r.decided = 0 then dflt else if r.decided = r.expect then r.word else r.word ||| dflt
     let fl := (if r.decided < r.expect then 1 else 0) + r.flags + (if r.decided = 0 then 8 else 0) + (if r.taken < r.expect then 32 else 0)
     ∃ u, exec (.decisionRelease lane phase) s = .next u ∧
       (∀ x, x ∈ u.dol.recs ↔ x ∈ s.dol.recs ∧ (x.lane ≠ lane ∨ x.stamp ≠ r.stamp)) ∧
       (s.glb.rLanes.testBit lane = false → u.outbox = s.outbox ∧ tget 0 u.dol.cnt 5 = satInc (2 ^ 36 - 1) (tget 0 s.dol.cnt 5)) ∧
       (s.glb.rLanes.testBit lane = true → ∃ start, u.outbox = s.outbox ++ [.frame lane start
           (blocksOf (decisionFrame r.stamp.short w (r.devid.getD s.bsu.devid) fl (min start 127)))] ∧
         tget 0 u.dol.cnt 0 = satInc (2 ^ 36 - 1) (tget 0 s.dol.cnt 0) ∧ start % 66 = phase ∧
         (tget none s.dol.lastEnd lane = none → start = phase))) ∧
  -- R508: the frame of R511 is read back from its two blocks.
  (∀ (stamp w : Word) (devid flags edge : Nat), devid < 2 ^ 14 → flags < 64 → edge < 128 →
     let b := blocksOf (decisionFrame stamp w devid flags edge)
     blockSync b.first = 2 ∧ blockSync b.second = 1 ∧ crcOk (blocksOctets b) = true ∧
       frameField (blocksOctets b) 1 13 = stamp.toNat + w.toNat * 2 ^ 36 + devid * 2 ^ 72 + flags * 2 ^ 86 + edge * 2 ^ 92)

/-! ### The service core -/

/-- DEVID_SET, KEY_ROLL, RELEASE_CORE, TENANT_KILL and REVIVE. -/
def Obligations.ServiceCarriages : Prop :=
  -- R49, R414, R440: DEVID_SET writes DEVID; KEY_ROLL gives a tenant the unwrapped key, and zeroes its counter when ZERO is set and the
  -- tenant is not 0; a key that does not unwrap is AUTH.
  (∀ (s : State) (c : Carriage), Serves s c 0x13 →
     ∃ u, exec .devidSet s = .next u ∧ Answered s u c 0 [] ∧ u.bsu = { s.bsu with devid := c.body 16 2 }) ∧
  (∀ (s : State) (c : Carriage), Serves s c 0x23 →
     let t := c.body 16 2
     let k := s.keyRec t
     let new := (s.keyRec c.tenant).key.bind (fun x => kwUnwrap x c.data)
     (new = none → ∃ u, exec .keyRoll s = .next u ∧ Answered s u c 3 [] ∧ u.bsu = s.bsu) ∧
     (∀ x, new = some x → ∃ u, exec .keyRoll s = .next u ∧ Answered s u c 0 [] ∧
       u.keyRec t = (if c.body 18 1 = 1 ∧ t ≠ 0 then ⟨some x, 0, 0⟩ else { k with key := some x }) ∧ ∀ j, j ≠ t → u.keyRec j = s.keyRec j)) ∧
  -- R250, R329, R414, R647, R648: a core that is released starts its four contexts at the vector of its release register with the root
  -- capabilities and blocks 0 and 1; RELEASE_CORE releases the cores of its mask that wait ON_HOST, and answers how many; an armed core is
  -- released when its condition is met.
  (∀ (s : State) (c : Carriage), Serves s c 0x25 →
     let mask := c.body 16 16
     (mask < 2 ^ (8 * Config.clusters s.hw.variant) → ∃ u, exec .releaseCore s = .next u ∧ Answered s u c 0 (octetsLe 1 (s.hostCores mask).length) ∧
       ∀ k, (s.canRelease k = true → s.condOf k = 3 → mask.testBit k = true → (u.core k).released = true ∧
           ∀ i, i < 4 → u.ctx (4 * k + i) = { run := .run, pcc := rootCap (tget {} s.lk.release k).vec, k := [(0, rootCap 0)], bd := s.releaseBlocks }) ∧
         (mask.testBit k = false ∨ s.condOf k ≠ 3 → u.core k = s.core k ∧ ∀ i, i < 4 → u.ctx (4 * k + i) = s.ctx (4 * k + i))) ∧
     (2 ^ (8 * Config.clusters s.hw.variant) ≤ mask → ∃ u, exec .releaseCore s = .next u ∧ Answered s u c 2 [] ∧
       u.ctxs = s.ctxs ∧ u.cores = s.cores)) ∧
  (∀ (s : State) (k : Nat), s.cluPresent (k / 8) = true → s.cluReady (k / 8) = true → tget false s.ras.coreOff k = false →
     (s.core k).released = false → (s.core k).relArmed = true →
     ((∃ d, (s.core k).relDue = some d ∧ s.isDue d = true) ∨
       ((s.core k).relDue = none ∧ s.condOf k = 2 ∧ s.namedReady (tget {} s.lk.release k).arg.toNat = true)) →
     ∃ u, exec (.coreRelease k) s = .next u ∧ (u.core k).released = true ∧ ∀ i, i < 4 → u.ctx (4 * k + i) =
       { run := .run, pcc := rootCap (tget {} s.lk.release k).vec, k := [(0, rootCap 0)], bd := s.releaseBlocks }) ∧
  -- R259 to R264, R415, R477, R593: TENANT_KILL sets the dead mark, makes every store of a running core visible, suspends the tenant's
  -- profiles, discards its events and breaks its ring lease; a REVIVE clears the mark and the suspension. Killing a tenant that is dead, and
  -- reviving one that is not, changes nothing.
  (∀ (s : State) (c : Carriage), Serves s c 0x24 → c.body 16 2 ≠ c.tenant → c.body 18 1 = 0 → Unharmed s →
     (∀ x l, (∃ n, (s.prof n).release = some (x, l)) ∨ (∃ n d, (s.pool n).drain = some (x, d, l)) → x.id ≠ c.id) →
     let t := c.body 16 2
     ∃ u, exec .tenantKill s = .next u ∧ Answered s u c 0 [] ∧ (s.dead t = true → u.bsu = s.bsu ∧ u.eau = s.eau) ∧
       (s.dead t = false → u.dead t = true ∧ (∀ j, j ≠ t → u.dead j = s.dead j) ∧
         (∀ k, s.cluPower (k / 8) = some .run → (u.core k).merge = []) ∧
         (∀ p, (s.prof p).owned = true → (s.prof p).owner = t → (u.prof p).susp = true) ∧
         (∀ k e, (k, some e) ∈ u.eau.table → e.owner ≠ t) ∧ (u.rings t).lease = none ∧
         ∀ n, n < 4 → tget none (u.rings t).fetch n = none)) ∧
  (∀ (s : State) (c : Carriage), Serves s c 0x24 → c.body 18 1 = 1 →
     let t := c.body 16 2
     ∃ u, exec .tenantRevive s = .next u ∧ Answered s u c 0 [] ∧ (s.dead t = false → u.bsu = s.bsu ∧ u.eau = s.eau) ∧
       (s.dead t = true → u.dead t = false ∧ (∀ j, j ≠ t → u.dead j = s.dead j) ∧
         ∀ p, (s.prof p).owned = true → (s.prof p).owner = t → (u.prof p).susp = false))

/-- Microcode loads: their checks, and the flip of each core. -/
def Obligations.MicrocodeLoads : Prop :=
  -- R402, R404, R414, R420, R537: PATCH_LOAD reads its image from the host and checks it: a read that times out, octets that are not those
  -- announced, and an image that fails a check answer their statuses and load nothing; an image that passes closes the retired half of every
  -- core that takes part, and sets LOADPEND. With no core ready the load is complete at once.
  (∀ (s : State) (c : Carriage) (d : List Octet), Serves s c 0x21 →
     let reads := fun (g : Nat) => (readSizes (128 * 2 ^ (s.fn c.tenant).mrrs) (c.body 32 4 / 64 + 2) (c.body 24 8) (c.body 32 4)).map
       (fun r => Out.read (portOf c.tenant) g c.tenant r.1 r.2)
     (∃ u, exec (.patchLoad .timeout) s = .next u ∧ Answered s u c 10 [] ∧ u.bsu = s.bsu ∧ u.cores = s.cores) ∧
     (d.length ≠ c.body 32 4 ∨ d.take 96 ≠ c.data →
       ∃ u, exec (.patchLoad (.octets d)) s = .next u ∧ Answered s u c 2 [] ∧ u.bsu = s.bsu ∧ u.cores = s.cores) ∧
     (d.length = c.body 32 4 → d.take 96 = c.data →
       (∀ st, s.checkImage true d = .error st → ∃ u, exec (.patchLoad (.octets d)) s = .next u ∧
         Answered s u c st (if st = 4 then octetsLe 7 (s.keyRec c.tenant).last else []) ∧ u.bsu = s.bsu ∧ u.cores = s.cores) ∧
       (∀ x, s.checkImage true d = .ok x → s.loadCores = [] → ∃ u, exec (.patchLoad (.octets d)) s = .next u ∧
         Answered s u c 0 (octetsLe 2 x.ver) ∧ u.bsu.flash.patch = some (x.ver, x.words, x.table) ∧ u.cores = s.cores) ∧
       (∀ x, s.checkImage true d = .ok x → s.loadCores ≠ [] → ∃ u g, exec (.patchLoad (.octets d)) s = .next u ∧ u.outbox = s.outbox ++ reads g ∧
         u.bsu = { s.bsu with job := some ⟨c, true, x.ver, x.words, x.table, s.loadCores, s.loadCores.map (fun k => (k, (s.core k).pair true))⟩ } ∧
         ∀ k, u.core k = if k ∈ s.loadCores then
           let h := (s.core k).pair true
           { (if h.1.st = .active then (s.core k).setPair true h.1 { h.2 with st := .closed } else (s.core k).setPair true { h.1 with st := .closed } h.2) with
             loadPend := true }
           else s.core k))) ∧
  (∀ (s : State) (c : Carriage) (d : List Octet), Serves s c 0x22 →
     (∃ u, exec (.decodeLoad .timeout) s = .next u ∧ Answered s u c 10 [] ∧ u.bsu = s.bsu ∧ u.cores = s.cores) ∧
     (d.length ≠ c.body 32 4 ∨ d.take 96 ≠ c.data →
       ∃ u, exec (.decodeLoad (.octets d)) s = .next u ∧ Answered s u c 2 [] ∧ u.bsu = s.bsu ∧ u.cores = s.cores) ∧
     (d.length = c.body 32 4 → d.take 96 = c.data →
       (∀ st, s.checkImage false d = .error st → ∃ u, exec (.decodeLoad (.octets d)) s = .next u ∧
         Answered s u c st (if st = 4 then octetsLe 7 (s.keyRec c.tenant).last else []) ∧ u.bsu = s.bsu ∧ u.cores = s.cores) ∧
       (∀ x, s.checkImage false d = .ok x → s.loadCores ≠ [] → ∃ u, exec (.decodeLoad (.octets d)) s = .next u ∧
         u.bsu = { s.bsu with job := some ⟨c, false, x.ver, x.words, x.table, s.loadCores, s.loadCores.map (fun k => (k, (s.core k).pair false))⟩ } ∧
         ∀ k, u.core k = if k ∈ s.loadCores then
           let h := (s.core k).pair false
           { (if h.1.st = .active then (s.core k).setPair false h.1 { h.2 with st := .closed } else (s.core k).setPair false { h.1 with st := .closed } h.2) with
             loadPend := true }
           else s.core k))) ∧
  -- R394, R404: each core that takes part writes the image into its other half, whose load generation rises by 1, and flips; the last one
  -- ends the load: the image is in secure flash, and the record's INFO is its version. A customer load waits while a routine runs in that
  -- half.
  (∀ (s : State) (j : LoadJob) (k : Nat), s.bsu.job = some j → k ∈ j.left → s.bsu.brk = none →
     (s.halfBusy k j.patch = true → Ignored (.microcodeFlip k) s) ∧
     (s.halfBusy k j.patch = false →
       let h := (s.core k).pair j.patch
       let new := fun (x : Half) => (⟨.active, (x.gen + 1) % 2 ^ 21, j.ver, j.words, j.table⟩ : Half)
       ∃ u, exec (.microcodeFlip k) s = .next u ∧ (∀ i, i ≠ k → u.core i = s.core i) ∧ (u.core k).loadPend = false ∧
         (u.core k).pair j.patch = (if h.1.st = .active then ({ h.1 with st := .retired }, new h.2) else (new h.1, { h.2 with st := .retired })) ∧
         ((∃ i ∈ j.left, i ≠ k) → u.bsu.job = some { j with left := j.left.filter (· ≠ k) } ∧ u.outbox = s.outbox) ∧
         ((∀ i ∈ j.left, i = k) → u.bsu.job = none ∧ Answered s u j.c 0 (octetsLe 2 j.ver) ∧
           (if j.patch then u.bsu.flash.patch else u.bsu.flash.custom) = some (j.ver, j.words, j.table))))

/-- POWER moves clusters, is refused, or waits for its window. -/
def Obligations.PowerCarriages : Prop :=
  -- R602 to R607, R414: POWER with STATE 0 and 1, when it may start: each named cluster that is in EMBER or OFF runs; each that runs goes
  -- to EMBER, or to OFF where CLOFF says so, which empties its contexts and clears its ready bit.
  (∀ (s : State) (c : Carriage) (k : Nat), Serves s c 0x20 → k < Config.clusters s.hw.variant → (c.body 18 2).testBit k = true →
     (c.body 17 1 ≠ 1 ∨ s.glb.rTbu = true) → s.mayStart ⟨c, c.body 16 1, c.body 18 2, true, []⟩ = true → Unharmed s →
     (c.body 16 1 = 0 → s.runBarred (c.body 18 2) = false → (s.cluPower k = some .ember ∨ s.cluPower k = some .off) →
       ∃ u, exec .power s = .next u ∧ Answered s u c 0 [] ∧ u.cluPower k = some .run) ∧
     (c.body 16 1 = 1 → s.cluPower k = some .run → ∃ u, exec .power s = .next u ∧ Answered s u c 0 [] ∧ u.pmu.job = none ∧
       u.cluPower k = some (if s.pmu.cloff.testBit k then .off else .ember) ∧
       (s.pmu.cloff.testBit k = true → (∀ n, n / 32 = k → u.ctx n = {}) ∧ u.cluReady k = false))) ∧
  -- R603: a POWER that waited does the same when its window opens.
  (∀ (s : State) (c : Carriage) (k : Nat), s.bsu.job = none → s.bsu.brk = none → k < Config.clusters s.hw.variant →
     (c.body 18 2).testBit k = true →
     s.pmu.job = some ⟨c, c.body 16 1, c.body 18 2, true, []⟩ → s.mayStart ⟨c, c.body 16 1, c.body 18 2, true, []⟩ = true → Unharmed s →
     (c.body 16 1 = 0 → s.runBarred (c.body 18 2) = false → (s.cluPower k = some .ember ∨ s.cluPower k = some .off) →
       ∃ u, exec .powerEntryStart s = .next u ∧ Answered s u c 0 [] ∧ u.cluPower k = some .run) ∧
     (c.body 16 1 = 1 → s.cluPower k = some .run → ∃ u, exec .powerEntryStart s = .next u ∧ Answered s u c 0 [] ∧ u.pmu.job = none ∧
       u.cluPower k = some (if s.pmu.cloff.testBit k then .off else .ember) ∧
       (s.pmu.cloff.testBit k = true → (∀ n, n / 32 = k → u.ctx n = {}) ∧ u.cluReady k = false))) ∧
  -- R602 to R605, R603: a POWER that names no cluster is OK at once; one that would keep too many banks is a RANGE error; one that needs a
  -- quiet window without a time base, or a cluster that cannot run, is NOT_READY; one whose window is not there waits, and TIMEOUT ends the
  -- wait.
  (∀ (s : State) (c : Carriage), Serves s c 0x20 →
     let st := c.body 16 1
     let m := c.body 18 2
     let j : PowerJob := ⟨c, st, m, true, []⟩
     let ends := fun (x : Nat) => ∃ u, exec .power s = .next u ∧ Answered s u c x [] ∧ u.pmu = s.pmu
     (st < 2 → m = 0 → ends 0) ∧
     (st = 2 → 20 < s.retained → ends 2) ∧
     ((2 ≤ st ∨ m ≠ 0) → (st ≠ 2 ∨ s.retained ≤ 20) → c.body 17 1 = 1 → s.glb.rTbu = false → ends 1) ∧
     (st = 0 → m ≠ 0 → (c.body 17 1 ≠ 1 ∨ s.glb.rTbu = true) → s.runBarred m = true → ends 1) ∧
     ((2 ≤ st ∨ m ≠ 0) → (st ≠ 2 ∨ s.retained ≤ 20) → (c.body 17 1 ≠ 1 ∨ s.glb.rTbu = true) → (st ≠ 0 ∨ s.runBarred m = false) →
       s.mayStart j = false → exec .power s = .next { s with rng := { s.rng with svcQ := s.rng.svcQ.drop 1 }, pmu := { s.pmu with job := some j } })) ∧
  (∀ (s : State) (j : PowerJob), s.pmu.job = some j → j.waiting = true → j.c.body 17 1 = 1 → s.bsu.brk = none →
     ∃ u, exec .powerQuietTimeout s = .next u ∧ Answered s u j.c 10 [] ∧ u.pmu = { s.pmu with job := none, wakeHeld := none })

/-- Entry to PEAT and ASH, and the wake. -/
def Obligations.PeatAndAsh : Prop :=
  -- R601, R609, R617: a POWER with STATE 2 or 3 that starts stops intake and turns every cluster off; with no link up the device is in PEAT or
  -- ASH at once, with its clusters, contexts and interrupts lost; a link that is up is first waited for: a handshake puts it in L2, and a
  -- timeout drops it.
  (∀ (s : State) (c : Carriage), 2 ≤ c.body 16 1 → c.body 16 1 ≤ 3 → s.pmu.wakeHeld = none → s.pmu.wakeLevel = 0 →
     let j : PowerJob := ⟨c, c.body 16 1, c.body 18 2, true, []⟩
     let asleep := fun (u : State) => u.pmu.dev = (if c.body 16 1 = 2 then .peat else .ash) ∧ u.pmu.regLp = true ∧ u.pmu.job = none ∧
       u.clamps.map (fun c => (c.pwrState, c.dramResetN)) = some (if c.body 16 1 = 2 then (2, true) else (3, false)) ∧
       u.ctxs = [] ∧ u.icu = { lines := u.icu.lines } ∧ u.glb.rHost = 0 ∧ u.glb.rDram = 0 ∧ (∀ k, u.cluPower k = none) ∧ u.lk = s.lk
     (s.mayStart j = true → Serves s c 0x20 → (c.body 17 1 ≠ 1 ∨ s.glb.rTbu = true) → (c.body 16 1 = 2 → s.retained ≤ 20) →
       (s.upPorts = [] → ∃ u, exec .power s = .next u ∧ asleep u) ∧
       (s.upPorts ≠ [] → ∃ u, exec .power s = .next u ∧ u.rng.intake = false ∧ u.pmu.dev = s.pmu.dev ∧
         u.pmu.job = some { j with waiting := false, l2 := s.upPorts })) ∧
     (s.mayStart j = true → s.pmu.job = some j →
       (s.upPorts = [] → ∃ u, exec .powerEntryStart s = .next u ∧ asleep u) ∧
       (s.upPorts ≠ [] → ∃ u, exec .powerEntryStart s = .next u ∧ u.rng.intake = false ∧ u.pmu.dev = s.pmu.dev ∧
         u.pmu.job = some { j with waiting := false, l2 := s.upPorts })) ∧
     (∀ p, s.pmu.job = some { j with waiting := false, l2 := [p] } → (s.port p).merged = false → (s.port p).linkUp = true →
       (∃ u, exec (.pmeTurnOffHandshake p) s = .next u ∧ asleep u) ∧ (∃ u, exec (.pmeTurnOffTimeout p) s = .next u ∧ asleep u))) ∧
  (∀ (s : State) (p : Nat), s.pmu.job = none → (s.port p).merged = false → (s.port p).linkUp = true →
     ∃ u, exec (.pmeTurnOffHandshake p) s = .next u ∧ u.port p = { s.port p with lpower := .l2 } ∧ ∀ q, q ≠ p → u.port q = s.port q) ∧
  -- R611 to R613, R616, R264, R46: a wake event that is enabled ends PEAT and ASH: its cause shows, the regulator leaves low power, and
  -- the device waits for PWR_OK; from ASH the lock, the LK fields and the dead marks are at reset. One that comes while an entry is under
  -- way is held. A brown-out in PEAT wakes.
  (∀ (s : State) (w : WakeSrc),
     let woken := fun (u : State) (ash : Bool) (w : WakeSrc) =>
       u.pmu.dev = .reset ∧ u.pmu.regLp = false ∧ u.pmu.causeFrom = (if ash then 3 else 2) ∧ u.pmu.causePerst = decide (w = .perst) ∧
       u.pmu.causeStamp = decide (w = .stamp) ∧ u.pmu.causeGpio = (match w with | .gpio n _ => 2 ^ n | _ => 0) ∧
       u.pmu.wakeN = decide (w ≠ .perst) ∧ u.mem = s.mem
     (s.wakes w = true →
       (s.pmu.dev = .peat → ∃ u, exec (.wakeEvent w) s = .next u ∧ woken u false w ∧ u.lk = s.lk ∧ u.bsu = s.bsu ∧ u.glb = s.glb) ∧
       (s.pmu.dev = .ash → ∃ u, exec (.wakeEvent w) s = .next u ∧ woken u true w ∧ u.lk = {} ∧ u.glb.locked = false ∧ u.bsu.dead = [] ∧
         u.bsu.roottab = 0) ∧
       (∀ j, s.pmu.dev = .run → s.pmu.job = some j → 2 ≤ j.state → s.pmu.wakeHeld = none →
         exec (.wakeEvent w) s = .next { s.pinTo w with pmu := { s.pmu with wakeHeld := some w } })) ∧
     (s.wakes w = false → exec (.wakeEvent w) s = .next (s.pinTo w)) ∧
     (s.pmu.dev = .peat → ∃ u, exec .brownOut s = .next u ∧ woken u false .brownOut ∧ u.pmu.causeBrown = true) ∧
     (s.pmu.dev ≠ .peat → Ignored .brownOut s))

/-! ### The host ports -/

/-- Links come and go, and functions are reset. -/
def Obligations.LinksAndFunctionReset : Prop :=
  -- R44, R521, R523, R542, R549, R612: a link that can train comes up; one that is lost freezes both its ports, unless it was in L2, where
  -- its functions are reset; PERST# takes its port's link down.
  (∀ (s : State) (p sp w : Nat), s.canTrain p = true → 1 ≤ sp → sp ≤ 5 → (w ∈ [1, 2, 4, 8] ∨ (w = 16 ∧ (s.port p).merged = true)) →
     ∃ u, exec (.linkUp p sp w) s = .next u ∧ ∀ q ∈ s.linkPorts p,
       u.port q = { s.port q with linkUp := true, lpower := .l0, speed := sp, width := w } ∧ u.glb.rHost.testBit q = true ∧
       (q = 0 → u.pmu.wakeN = false)) ∧
  (∀ (s : State) (p : Nat), (s.port p).linkUp = true → (s.port p).lpower ≠ .l2 →
     (∃ u, exec (.linkDown p) s = .next u ∧ ∀ q ∈ s.linkPorts p, (u.port q).linkUp = false ∧ (u.port q).frozen = true ∧
       (u.port q).cause.testBit 0 = true) ∧
     (s.portPresent p = true → ∃ u, exec (.hostPortPerstN p true) s = .next u ∧ (u.port p).perst = true ∧ ∀ q ∈ s.linkPorts p,
       (u.port q).linkUp = false ∧ (u.port q).frozen = true ∧ (u.port q).cause.testBit 0 = true)) ∧
  (∀ (s : State) (p : Nat), (s.port p).linkUp = true → (s.port p).lpower = .l2 →
     ∃ u, exec (.linkDown p) s = .next u ∧ ∀ q ∈ s.linkPorts p, (u.port q).linkUp = false ∧ (u.port q).frozen = (s.port q).frozen ∧
       ∀ t, t / 1024 = q → u.fn t = s.fnReset t) ∧
  (∀ (s : State) (p : Nat) (b : Bool), s.portPresent p = true → (s.port p).linkUp = false →
     exec (.hostPortPerstN p b) s = .next (s.setPort p { s.port p with perst := b })) ∧
  -- R527, R541, R542: what resets functions: Function Level Reset of one function, or of every function of a port through its PF; VF Enable
  -- cleared; a hot reset of the link. A function that is reset has its configuration at reset and its rings disabled.
  (∀ (s : State) (t p : Nat),
     let clean := fun (u : State) (x : Nat) => u.fn x = s.fnReset x ∧ (u.rings x).lease = none ∧
       (∀ n, n < 8 → ((u.rings x).cfg n).en = false) ∧ ∀ n, n < 4 → tget none (u.rings x).fetch n = none
     (s.fnExists t = true → t % 1024 ≠ 0 → ∃ u, exec (.functionLevelReset t) s = .next u ∧ clean u t ∧
       ∀ x, x ≠ t → u.fn x = s.fn x ∧ u.rings x = s.rings x) ∧
     (s.fnExists t = true → t % 1024 = 0 → ∃ u, exec (.functionLevelReset t) s = .next u ∧
       (∀ x, x / 1024 = t / 1024 → clean u x) ∧ ∀ x, x / 1024 ≠ t / 1024 → u.fn x = s.fn x ∧ u.rings x = s.rings x) ∧
     (s.portPresent p = true → ∃ u, exec (.vfEnableClear p) s = .next u ∧ (∀ x, x / 1024 = p → x % 1024 ≠ 0 → clean u x) ∧
       u.fn (1024 * p) = { s.fn (1024 * p) with vfEn := false } ∧ u.rings (1024 * p) = s.rings (1024 * p)) ∧
     ((s.port p).linkUp = true → ∃ u, exec (.hotReset p) s = .next u ∧
       ∀ q ∈ s.linkPorts p, (u.port q).linkUp = false ∧ (u.port q).frozen = (s.port q).frozen ∧ ∀ x, x / 1024 = q → clean u x))

/-- Functions and ports stop and resume; time measurement. -/
def Obligations.PortsStopAndResume : Prop :=
  -- R422, R535, R539, R540: a function that loses Bus Master Enable, or goes to D3hot, drops what it is reading; one that gets it back
  -- writes its waiting records; a message that is pending and not masked is sent.
  (∀ (s : State) (t : Nat), s.fnExists t = true →
     (∃ u, exec (.busMasterEnableClear t) s = .next u ∧ u.fn t = { s.fn t with bme := false } ∧
       (∀ n, n < 4 → tget none (u.rings t).fetch n = none) ∧ u.outbox = s.outbox) ∧
     (∃ u, exec (.d3hotEntry t) s = .next u ∧ u.fn t = { s.fn t with d3 := true } ∧
       (∀ n, n < 4 → tget none (u.rings t).fetch n = none) ∧ u.outbox = s.outbox)) ∧
  (∀ (s : State) (t id q : Nat) (os : List Octet) (m : Bool), s.fnExists t = true → (s.fn t).d3 = false →
     (s.rings t).slots 0 = [⟨id, q, some (some (os, m))⟩] → os.length = 16 → (s.port (portOf t)).frozen = false →
     ∃ u n o after, exec (.busMasterEnableSet t) s = .next u ∧ u.outbox = s.outbox ++ .record t q n o :: after ∧
       o.take 15 = os.take 15 ∧ (u.rings t).slots 0 = [] ∧ (u.fn t).bme = true) ∧
  (∀ (s : State) (t id q : Nat) (os : List Octet) (m : Bool), s.fnExists t = true → (s.fn t).bme = true →
     (s.rings t).slots 0 = [⟨id, q, some (some (os, m))⟩] → os.length = 16 → (s.port (portOf t)).frozen = false →
     ∃ u n o after, exec (.d0Return t) s = .next u ∧ u.outbox = s.outbox ++ .record t q n o :: after ∧
       o.take 15 = os.take 15 ∧ (u.rings t).slots 0 = [] ∧ (u.fn t).d3 = false) ∧
  (∀ (s : State) (t v : Nat), s.fnExists t = true →
     let f := s.fn t
     (f.vec v).pend = true → f.msixEn = true → f.fmask = false → (f.vec v).mask = false → f.bme = true → f.d3 = false →
     (s.port (portOf t)).frozen = false → ∃ u, exec (.msixPendingSend t v) s = .next u ∧
       u.outbox = s.outbox ++ [.msix t v ((f.vec v).addrHi * 2 ^ 32 + (f.vec v).addrLo) (f.vec v).data] ∧
       ((u.fn t).vec v).pend = false) ∧
  -- R524, R538, R541 to R545: a freeze gives its port a lease, drops what it reads and puts the reads in quarantine, which ends in time; the
  -- freeze lease ends by its expiry with the port still frozen; ASPM takes an idle link to L1, and a request of the host brings it back.
  (∀ (s : State) (p c : Nat), s.portPresent p = true → 1 ≤ c → c ≤ 6 → s.pmu.dev = .run → (s.port p).merged = false →
     (s.port p).frozen = false →
     ∃ u, exec (.freeze p c) s = .next u ∧ (u.port p).frozen = true ∧ (u.port p).cause.testBit c = true ∧ (u.port p).lapsed = false ∧
       (u.port p).frzLease.isSome = true ∧ (u.port p).freezes = satInc 511 (s.port p).freezes ∧
       (∀ r ∈ (u.port p).reads, r.live = false) ∧ (∀ r ∈ (s.port p).reads, r.tag ∈ (u.port p).quar) ∧
       ∀ t n, t / 1024 = p → n < 4 → tget none (u.rings t).fetch n = none) ∧
  (∀ (s : State) (p : Nat), ∃ u, exec (.quarantineEnd p) s = .next u ∧ (u.port p).quar = [] ∧
     ∀ r, r ∈ (u.port p).reads ↔ r ∈ (s.port p).reads ∧ (r.live = true ∨ r.tag ∉ (s.port p).quar)) ∧
  (∀ (s : State) (p : Nat) (l : LeaseEnd), (s.port p).frzLease = some l → s.leaseOver l = true →
     exec (.freezeLeaseExpiry p) s = .next (s.setPort p { s.port p with frzLease := none, lapsed := true })) ∧
  (∀ (s : State) (p : Nat), (s.port p).linkUp = true → (s.port p).lpower = .l0 → (s.fn (s.linkFn0 p)).aspm = true → s.portIdle p = true →
     ∃ u, exec (.aspmL1Entry p) s = .next u ∧ ∀ q ∈ s.linkPorts p, u.port q = { s.port q with lpower := .l1 }) ∧
  (∀ (s : State) (p n : Nat) (a : Part), (s.port p).lpower = .l1 →
     ∃ u, exec (.rcFieldRead (.host p) (.bar0 n) a) s = .next u ∧ (u.port p).lpower = .l0) ∧
  -- R544, R546: GO unfreezes a frozen port whose link is up and writes the held records; DROP disables the rings of its functions first,
  -- and writes none.
  (∀ (s : State) (p : Nat), (s.port p).frozen = true → (s.port p).linkUp = true →
     let thawed := fun (u : State) => ∀ q ∈ s.linkPorts p, (u.port q).frozen = false ∧ (u.port q).hold = [] ∧ (u.port q).frzLease = none ∧
       (u.port q).lapsed = false
     (∃ u, exec (.hpcUnfreezeGo p) s = .next u ∧ thawed u ∧
       ∀ t q os m, (s.port p).merged = false → (s.port p).hold = [(t, q, os, m)] → s.fnSends t = true → os.length = 16 →
         ∃ n o after, u.outbox = s.outbox ++ .record t q n o :: after ∧ o.take 15 = os.take 15) ∧
     (∃ u, exec (.hpcUnfreezeDrop p) s = .next u ∧ thawed u ∧
       ∀ t, s.linkPorts p = [p] → t / 1024 = p → ∀ n, n < 8 → ((u.rings t).cfg n).en = false)) ∧
  -- R547: precision time measurement: a dialog starts when none is under way and no result waits, or ERR sets where PTM is not enabled; the
  -- response gives the master time and the local stamp; a dialog that gets none sets ERR. HP0_WAKE_N is released at its time limit (R612).
  (∀ (s : State) (p : Nat), s.portPresent p = true →
     ((s.port p).ptmValid = true ∨ (s.port p).ptmBusy = true → Ignored (.ptmDialog p) s) ∧
     ((s.port p).ptmValid = false → (s.port p).ptmBusy = false →
       ((s.fn (s.linkFn0 p)).ptmEn = true → ∃ u, exec (.ptmDialog p) s = .next u ∧ (u.port p).ptmBusy = true ∧
         (u.port p).ptmErr = (s.port p).ptmErr) ∧
       ((s.fn (s.linkFn0 p)).ptmEn = false → exec (.ptmDialog p) s = .next (s.setPort p { s.port p with ptmErr := true })))) ∧
  (∀ (s : State) (p : Nat), (s.port p).ptmPeriod ≠ 0 → (s.fn (s.linkFn0 p)).ptmEn = true →
     ((s.port p).ptmValid = true ∨ (s.port p).ptmBusy = true → Ignored (.ptmPeriod p) s) ∧
     ((s.port p).ptmValid = false → (s.port p).ptmBusy = false → ∃ u, exec (.ptmPeriod p) s = .next u ∧ (u.port p).ptmBusy = true ∧
       (u.port p).ptmErr = (s.port p).ptmErr)) ∧
  (∀ (s : State) (p m ph : Nat), (s.port p).ptmBusy = true →
     ((s.port p).linkUp = true → ∃ u, exec (.ptmResponse p m ph) s = .next u ∧ u.port p = { s.port p with
       ptmBusy := false, ptmValid := true, ptmErr := false, ptmTime := m % 2 ^ 64, ptmStamp := s.ptmStampAt ph }) ∧
     exec (.ptmTimeout p) s = .next (s.setPort p { s.port p with ptmBusy := false, ptmErr := true })) ∧
  (∀ s : State, exec .hp0WakeNTimeout s = .next { s with pmu := { s.pmu with wakeN := false } })

/-! ### The DRAM controllers -/

/-- Refresh, retraining, scrubbing and write back of a DRAM channel. -/
def Obligations.DramCommands : Prop :=
  -- R562, R563, R576: the refresh commands of a running channel: a per-bank refresh closes its bank and owes it nothing; a bank with a
  -- write queued may postpone it, up to eight times; an MR4 read sets the multiplier; a neighbour refresh is counted and closes its bank.
  (∀ (s : State) (c b m : Nat), s.chanRuns c = true →
     let x := s.chan c
     let done := { x with postponed := tset 0 x.postponed b 0, openRow := tset none x.openRow b none }
     let later := { x with postponed := tset 0 x.postponed b (tget 0 x.postponed b + 1) }
     (b < 32 → ∃ u, exec (.perBankRefresh c b) s = .next u ∧ (∀ i, i ≠ c → u.chan i = s.chan i) ∧
       ((x.wq.any (fun l => decide ((s.place l).bank = b)) = false ∨ 8 ≤ tget 0 x.postponed b) → u.chan c = done) ∧
       (u.chan c = done ∨ u.chan c = later)) ∧
     (∃ u, exec (.mr4Read c m) s = .next u ∧ u.chan c = { x with mult := m } ∧ ∀ i, i ≠ c → u.chan i = s.chan i) ∧
     (∀ r rest, tget [] x.neigh b = r :: rest → ∃ u, exec (.neighbourRefresh c b) s = .next u ∧
       (u.chan c).rhref = satInc (2 ^ 18 - 1) x.rhref ∧ tget none (u.chan c).openRow b = none ∧
       ((s.dmcLk c).rhEn = false → tget [] (u.chan c).neigh b = rest)) ∧
     (tget [] x.neigh b = [] → Ignored (.neighbourRefresh c b) s)) ∧
  -- R555, R571: a write that has waited too long is counted and drains its channel, the oldest write first; with nothing commanded, a running
  -- channel serves one write (the model's choice, log entry 2).
  (∀ (s : State) (c l : Nat) (rest : List Nat), s.chanRuns c = true → (s.chan c).wq = l :: rest →
     (∃ u, exec (.writeAgeExpiry c) s = .next u ∧ (u.chan c).drain = true ∧ (u.chan c).aged = true ∧ (u.chan c).wq = l :: rest ∧
       (u.chan c).forced = if (s.chan c).drain then (s.chan c).forced else satInc 511 (s.chan c).forced) ∧
     (s.pending = [] → (s.chan c).aged = true → c < 16 → ∃ u, step s = .next u ∧ (u.chan c).wq = rest ∧ (u.chan c).aged = false)) ∧
  (∀ (s : State) (c : Nat), (s.chan c).wq = [] → Ignored (.writeAgeExpiry c) s) ∧
  -- R565, R566: a retraining pause that falls due is taken at its command; when neither attempt passes, the channel is offlined, not ready
  -- any more, and its slots are lost.
  (∀ (s : State) (c : Nat), s.chanRuns c = true →
     let x := s.chan c
     exec (.retrainingPauseDue c) s = .next (s.setChan c { x with pauseDue := true }) ∧
     ((x.pauseDue = false ∨ s.dmc.busy = true) → ∀ a b, Ignored (.retrainingPause c a b) s) ∧
     (x.pauseDue = true → s.dmc.busy = false →
       (∀ a b, (a || b) = true → ∃ u, exec (.retrainingPause c a b) s = .next u ∧
         u.chan c = { x with pauseDue := false, lastTimer := (u.chan c).lastTimer } ∧
         ((s.dmcLk c).quiet = false → (u.chan c).lastTimer = true)) ∧
       ∃ u, exec (.retrainingPause c false false) s = .next u ∧ (u.chan c).st = .offline ∧ (u.chan c).lastFail = true ∧
         u.glb.rDram.testBit c = false ∧ u.mem.gone = s.mem.gone ++ [s.activeChans.idxOf c])) ∧
  -- R64, R571 to R573: a scrub read moves on to the next slot of its channel and counts what it finds; one beneath a scratch bank is not
  -- read (R383).
  (∀ (s : State) (c y : Nat), s.chanRuns c = true → c < 16 → (s.dmcLk c).scrubEn = true →
     let x := s.chan c
     let l := x.scrubPos * s.activeChans.length + s.activeChans.idxOf c
     let moved := fun (u : State) => (u.chan c).scrubPos = (x.scrubPos + 1) % max 1 (2 ^ (24 + x.density) * x.ranks)
     (s.mem.inScratch l = true → ∀ f, ∃ u, exec (.scrubRead c f) s = .next u ∧ moved u ∧ u.mem = s.mem) ∧
     (s.mem.inScratch l = false →
       (∃ u, exec (.scrubRead c .uncorrectable) s = .next u ∧ moved u ∧ (u.chan c).uncorr = satInc 511 x.uncorr) ∧
       (s.mem.dramUp l = none →
         ((s.mem.home l).bad = false →
           (∃ u, exec (.scrubRead c .clean) s = .next u ∧ moved u ∧ (u.chan c).corr = x.corr ∧ (u.chan c).uncorr = x.uncorr) ∧
           ∃ u, exec (.scrubRead c (.corrected y)) s = .next u ∧ moved u ∧ (u.chan c).corr = satInc 511 x.corr ∧ l ∈ (u.chan c).wback) ∧
         ((s.mem.home l).bad = true →
           (∃ u, exec (.scrubRead c .clean) s = .next u ∧ moved u ∧ (u.chan c).poisonrd = satInc 511 x.poisonrd) ∧
           ∃ u, exec (.scrubRead c (.corrected y)) s = .next u ∧ moved u ∧ (u.chan c).poisonrd = satInc 511 x.poisonrd)))) ∧
  -- R571: the write back of a corrected slot is an ordinary write, which joins the queue of its channel, after which the slot holds no error;
  -- it changes no word of memory.
  (∀ (s : State) (c l : Nat) (rest : List Nat), s.chanRuns c = true → (s.chan c).wback = l :: rest → s.chanOf l = c → s.mem.notes = [] →
     ∃ u, exec (.eccWriteback c) s = .next u ∧ (u.chan c).wback = rest.erase l ∧ l ∈ (u.chan c).wq ∧ u.mem.dramUp l = none ∧
       ∀ w, u.mem.word w = s.mem.word w) ∧
  -- R63: the slot of a line: its words, its tags, four spare bits of zero and the check bits.
  (∀ (ws : List MWord), ws.length = 12 →
     slotLine (lineSlot ws) = ws ∧ ∀ i, 444 ≤ i → i < 448 → (lineSlot ws).testBit i = false)

/-- The maintenance lease and the frequency change. -/
def Obligations.FrequencyChangeAndItsLease : Prop :=
  -- R567, R569, R590: the maintenance lease: ACQUIRE keeps what a break must restore; COMMIT by the holder makes the change wait and cannot
  -- be undone; ABORT and expiry before it restore TARGET and QUIET, and expiry sets BROKEN.
  (∀ (s : State) (r : Requester) (l : MaintLease), RegOpen s r 0x10008 →
     (s.dmc.lease = none → ∃ u k, exec (.dmcMaintAcquire r) s = .next u ∧ u.dmc = { s.dmc with lease := some k } ∧ k.owner = reqCode r ∧
       k.target = s.dmc.target ∧ k.quiet = s.dmc.quiet ∧ k.committed = false ∧
       k.saved = s.activeChans.map (fun c => (c, (s.chan c).tsa, (s.chan c).tsb))) ∧
     (s.dmc.lease = some l →
       (∃ u, exec (.dmcMaintAcquire r) s = .next u ∧ u.dmc = s.dmc) ∧
       (l.owner = reqCode r → l.committed = false →
         (∃ u, exec (.dmcMaintCommit r) s = .next u ∧ u.dmc = { s.dmc with lease := some { l with committed := true }, busy := true }) ∧
         ∃ u, exec (.dmcMaintAbort r) s = .next u ∧
           u.dmc = { s.dmc with chans := u.dmc.chans, lease := none, target := l.target, quiet := l.quiet } ∧
           ∀ c a b, l.saved = [(c, a, b)] →
             u.chan c = if (s.chan c).tset = true then { s.chan c with tsa := a } else { s.chan c with tsb := b }) ∧
       ((l.owner ≠ reqCode r ∨ l.committed = true) →
         (∃ u, exec (.dmcMaintCommit r) s = .next u ∧ u.dmc = s.dmc) ∧ ∃ u, exec (.dmcMaintAbort r) s = .next u ∧ u.dmc = s.dmc) ∧
       (l.committed = false → s.leaseOver l.until_ = true → ∃ u, exec .dmcLeaseExpiry s = .next u ∧
         u.dmc = { s.dmc with chans := u.dmc.chans, lease := none, broken := true, target := l.target, quiet := l.quiet }) ∧
       (l.committed = true → Ignored .dmcLeaseExpiry s))) ∧
  -- R567, R568: a committed frequency change: every running channel goes to the other timing set and the target rate; when one fails at
  -- it, all stay, FAIL sets, and a channel that fails at the old rate too is offlined. The lease ends, and the busy bit clears.
  (∀ (s : State) (bad dead : List Nat), s.dmc.busy = true → (s.dmc.quiet = false ∨ s.glb.rTbu = false ∨ s.quietAllows 25000 = true) →
     let runs := fun (c : Nat) => c ∈ s.activeChans ∧ (s.chan c).st = .running
     ∃ u, exec (.frequencyChange bad dead) s = .next u ∧ u.dmc.busy = false ∧ u.dmc.lease = none ∧
       ((∀ c, runs c → c ∉ bad) → s.dmc.target ≤ 4 → u.dmc.fail = false ∧
         ∀ c, runs c → (u.chan c).st = .running ∧ (u.chan c).rate = s.dmc.target ∧ (u.chan c).tset = !(s.chan c).tset) ∧
       ((∃ c, runs c ∧ (c ∈ bad ∨ 4 < s.dmc.target)) → u.dmc.fail = true ∧
         ∀ c, runs c → (u.chan c).rate = (s.chan c).rate ∧ (u.chan c).tset = (s.chan c).tset ∧
           (s.dmc.target ≤ 4 → (u.chan c).st = if c ∈ bad ∧ c ∈ dead then .offline else .running)))

/-! ### Power, start-up and errors -/

/-- The thermal hold, crossings that wedge and flush, and changes of scratch banks. -/
def Obligations.ThermalCrossingsAndScratchBanks : Prop :=
  -- R665: the thermal alert drives its pin; a trip at 115 degrees takes every running cluster to EMBER and holds it; when the sensors have
  -- cooled the held clusters run again, and pin and hold are released.
  (∀ (s : State) (tj k : Nat), s.pmu.dev = .run →
     (s.pmu.alert = false → s.lk.talert ≤ tj → ∃ u, exec (.thermalAlert tj) s = .next u ∧ u.pmu = { s.pmu with alert := true }) ∧
     ((s.pmu.alert = true ∨ tj < s.lk.talert) → Ignored (.thermalAlert tj) s) ∧
     (115 ≤ tj → s.pmu.tripHold = false → Unharmed s → ∃ u, exec (.thermalTrip tj) s = .next u ∧ u.pmu.tripHold = true ∧
       ∀ i, i < Config.clusters s.hw.variant → (s.cluPower i = some .run ∨ s.cluPower i = some .ember) →
         u.cluPower i = some .ember ∧ tget none u.pmu.hold i = s.cluPower i) ∧
     ((tj < 115 ∨ s.pmu.tripHold = true) → Ignored (.thermalTrip tj) s) ∧
     ∃ u, exec .thermalHoldEnd s = .next u ∧ u.pmu.hold = [] ∧ u.pmu.tripHold = false ∧ u.pmu.alert = false ∧
       ((k, some .run) ∈ s.pmu.hold → u.cluPower k = some .run)) ∧
  -- R619 to R623: a register access that waits too long wedges its crossing group, which counts it; a reset on one side of a group is
  -- counted and changes nothing else.
  (∀ (s : State) (g : Nat), g < 45 → s.pmu.dev = .run →
     (∃ u, exec (.fabricTimeout g) s = .next u ∧ tget false u.glb.cdcWedged g = true ∧
       tget 0 u.glb.cdcTimeouts g = satInc 511 (tget 0 s.glb.cdcTimeouts g) ∧
       ∀ i, i ≠ g → tget false u.glb.cdcWedged i = tget false s.glb.cdcWedged i ∧ tget 0 u.glb.cdcTimeouts i = tget 0 s.glb.cdcTimeouts i) ∧
     ∃ u, exec (.crossingFlush g) s = .next u ∧ u = { s with glb := { s.glb with cdcResets := u.glb.cdcResets } } ∧
       tget 0 u.glb.cdcResets g = satInc 511 (tget 0 s.glb.cdcResets g) ∧ ∀ i, i ≠ g → tget 0 u.glb.cdcResets i = tget 0 s.glb.cdcResets i) ∧
  -- R383: the change of a scratch bank ends with BUSY 0, and the bank is the home of its range or of none; no word of memory changes.
  (∀ (s : State) (b : Nat), NoErrors s →
     let k := tget {} s.mem.scBank b
     (k.busy = false → Ignored (.scbankChangeDone b) s) ∧
     (k.busy = true → ∃ u, exec (.scbankChangeDone b) s = .next u ∧
       (let v := tget {} u.mem.scBank b
        v.busy = false ∧ v.en = k.en ∧ v.base = k.base ∧ v.live = k.en ∧ (k.en = true → v.range = k.base)) ∧
       (∀ i, i ≠ b → tget {} u.mem.scBank i = tget {} s.mem.scBank i) ∧
       ∀ w, u.mem.word w = s.mem.word w))

/-- Error records, and the errors of the on-die tables. -/
def Obligations.ErrorRecords : Prop :=
  -- R655 to R658: what a new error record says, and where it goes: a line of twelve words at the slot of RAS_PROD while the ring is enabled
  -- and has room; RAS_LAST has its first seven words; SEQ counts every record, and the source of its class is raised. Shown for the record that a
  -- thermal alert makes.
  (∀ (s : State) (tj : Nat), s.pmu.dev = .run → s.pmu.alert = false → s.lk.talert ≤ tj → tget none s.ras.wait 10 = none →
     let words := [word s.ras.next, word (10 + 42 * 64), s.nowShort, 0, 0, word (tj % 256), 1]
     let slot := s.lk.rasLine + s.ras.prod % 2 ^ s.lk.rasSize
     let room := (s.ras.prod + 2 ^ 36 - s.ras.cons) % 2 ^ 36 < 2 ^ s.lk.rasSize
     (s.ras.en = true → room → slot < s.popLines → NoErrors s →
       ∃ u, exec (.thermalAlert tj) s = .next u ∧ u.outbox = s.outbox ++ [.signal 10] ∧
       u.ras.last = words ∧ u.ras.next = (s.ras.next + 1) % 2 ^ 36 ∧ u.ras.prod = (s.ras.prod + 1) % 2 ^ 36 ∧ u.ras.lost = s.ras.lost ∧
       (∀ i, i < 12 → u.mem.word (12 * slot + i) = ⟨words.getD i 0, false⟩) ∧
       ∀ w, w / 12 ≠ slot → u.mem.word w = s.mem.word w) ∧
     ((s.ras.en = false ∨ slot ≥ s.popLines ∧ room) → ∃ u, exec (.thermalAlert tj) s = .next u ∧ u.ras.last = words ∧
       u.ras.next = (s.ras.next + 1) % 2 ^ 36 ∧ u.ras.prod = s.ras.prod ∧ u.ras.lost = satInc 262143 s.ras.lost ∧ u.ras.en = false ∧
       u.mem = s.mem) ∧
     (s.ras.en = true → ¬ room → ∃ u, exec (.thermalAlert tj) s = .next u ∧ u.mem = s.mem ∧ u.ras.prod = s.ras.prod ∧
       (s.ras.lostRec = true → u.ras.last = words ∧ u.ras.lost = satInc 262143 s.ras.lost) ∧
       (s.ras.lostRec = false → u.ras.lostRec = true ∧ u.ras.next = (s.ras.next + 2) % 2 ^ 36 ∧
         (u.ras.last.getD 1 0).toNat % 16 = 15 ∧ u.ras.lost = satInc 262143 (satInc 262143 s.ras.lost)))) ∧
  -- R659: an error that is corrected, with a record of its class, unit and address that waits, counts in that record.
  (∀ (s : State) (tj : Nat) (r : ErrRec), s.pmu.dev = .run → s.pmu.alert = false → s.lk.talert ≤ tj → tget none s.ras.wait 10 = some r →
     r.cls = 10 → r.sev = 0 → r.unit = 42 → r.addr = none → s.rasWaits r = true →
     ∃ u, exec (.thermalAlert tj) s = .next u ∧ tget none u.ras.wait 10 = some { r with count := r.count + 1 } ∧
       u.ras.last = (if s.ras.last.head? = some (word r.seq) then { r with count := r.count + 1 }.words.take 7 else s.ras.last) ∧
       u.ras.next = s.ras.next ∧ u.ras.prod = s.ras.prod) ∧
  -- R661: an error in an on-die table is recorded in class 13 with the number of the table: a corrected one changes nothing else; by one that
  -- is uncorrectable, a descriptor's event is discarded, a record of decisions is discarded and counted, an interrupt entry takes its
  -- reset values.
  (∀ (s : State) (e : Event) (rest : List Event), s.eau.closeQ = e :: rest → s.glb.rDdu = true → s.ddu.descs.length < 65536 →
     let q := s.pool e.pool
     (∃ u, exec .dduAccept (withTableError s 4 .corrected) = .next u ∧ Recorded s u 13 0 38 4 ∧ u.eau.closeQ = rest ∧
       u.ddu.descs.map (·.ev) = s.ddu.descs.map (·.ev) ++ [e]) ∧
     ∃ u, exec .dduAccept (withTableError s 4 .lost) = .next u ∧ Recorded s u 13 1 38 4 ∧ u.eau.closeQ = rest ∧
       (∀ x, x ∈ u.ddu.descs ↔ x ∈ s.ddu.descs ∧ x.ev.id ≠ e.id) ∧ u.pool e.pool = { q with used := q.used - 1, lost := q.lost + 1 }) ∧
  (∀ (s : State) (lane phase : Nat) (r : DRec), lane < 4 → phase < 66 → s.dolNext lane = some r →
     (∃ u, exec (.decisionRelease lane phase) (withTableError s 5 .corrected) = .next u ∧ Recorded s u 13 0 39 5 ∧
       ∀ x, x ∈ u.dol.recs ↔ x ∈ s.dol.recs ∧ (x.lane ≠ lane ∨ x.stamp ≠ r.stamp)) ∧
     ∃ u, exec (.decisionRelease lane phase) (withTableError s 5 .lost) = .next u ∧ Recorded s u 13 1 39 5 ∧
       (∀ x, x ∈ u.dol.recs ↔ x ∈ s.dol.recs ∧ (x.lane ≠ lane ∨ x.stamp ≠ r.stamp)) ∧
       tget 0 u.dol.cnt 5 = satInc (2 ^ 36 - 1) (tget 0 s.dol.cnt 5) ∧ ∀ l n b, .frame l n b ∈ u.outbox → .frame l n b ∈ s.outbox) ∧
  (∀ (s : State) (n : Nat), s.icu.gated = false → s.glb.rIcu = true → s.icuChoose = some n → 17 ≤ n → n ≠ 401 → s.srcExists n = true →
     ∃ u, exec .interruptDelivery (withTableError s 6 .lost) = .next u ∧ Recorded s u 13 1 41 6 ∧ u.src n = { latch := (s.src n).latch, line := (s.src n).line }) ∧
  -- R661: the same for the tables that a cart looks up, here for a cart that is refused: its assembly entry is freed without a coach, its slot
  -- leaving circulation; its profile is suspended; its pool allocates nothing; its quota takes its reset values.
  (∀ (s : State) (b st : Nat) (c : Carriage), BankTakes s b c 0x01 →
     let p := c.body 18 2
     let x := s.prof p
     let q := s.pool x.rec_.pool
     s.feedCheck c x = some st →
     (∀ t, t < 4 → ∃ u, exec (.fragment b) (withTableError s t .corrected) = .next u ∧ Answered s u c st [0, 0] ∧ Recorded s u 13 0 37 t ∧ u.eau.table = s.eau.table) ∧
     (∀ k e, s.findEntry b p (word (c.body 24 8)) = some (k, e) → e.st ≠ .spent →
       ∃ u, exec (.fragment b) (withTableError s 0 .lost) = .next u ∧ Answered s u c st [0, 0] ∧ Recorded s u 13 1 37 0 ∧ u.entry k = none ∧
         (u.pool e.pool).lost = (s.pool e.pool).lost + 1 ∧ tget 0 u.eau.cnt 9 = satInc (2 ^ 36 - 1) (tget 0 s.eau.cnt 9)) ∧
     (x.owned = true → ∃ u, exec (.fragment b) (withTableError s 1 .lost) = .next u ∧ Answered s u c 3 [0, 0] ∧ Recorded s u 13 1 37 1 ∧ (u.prof p).bad = true) ∧
     (q.owned = true → ∃ u, exec (.fragment b) (withTableError s 2 .lost) = .next u ∧ Answered s u c st [0, 0] ∧ Recorded s u 13 1 37 2 ∧
       (u.pool x.rec_.pool).bad = true) ∧
     ∃ u, exec (.fragment b) (withTableError s 3 .lost) = .next u ∧ Answered s u c st [0, 0] ∧ Recorded s u 13 1 37 3 ∧ tget none u.eau.quotas x.owner = none)

/-- Power-on reset, kindling that halts, recovery, and fatal errors. -/
def Obligations.ResetAndKindling : Prop :=
  -- R626, R679: PWR_OK falling in RUN, or before, resets every part of the device but what no reset touches: the part, its fuses and
  -- flash, the key records and the pins. In PEAT and ASH it has no effect.
  (∀ (s : State),
     ((s.pmu.dev = .peat ∨ s.pmu.dev = .ash) → Ignored .pwrOkFall s) ∧
     (s.pmu.dev ≠ .peat → s.pmu.dev ≠ .ash → ∃ u, exec .pwrOkFall s = .next u ∧
       u = { State.reset with
         pending := s.pending, hw := s.hw, ports := u.ports, free := s.free, serial := s.serial, outbox := s.outbox
         bsu := { keys := s.bsu.keys, flash := s.bsu.flash, fuses := s.bsu.fuses } } ∧
       (twf {} s.ports = true → ∀ p, u.port p = { perst := (s.port p).perst }))) ∧
  -- R627 to R630, R636 to R638: where kindling from power-on halts, and with which code; PWR_OK rising has no effect while the device is
  -- not in reset.
  (∀ (s : State) (k : Kindle),
     (s.pmu.dev ≠ .reset → Ignored (.pwrOkRise k) s) ∧
     (s.pmu.dev = .reset → s.pmu.causeFrom < 2 →
       let halts := fun (code : Nat) => ∃ u, exec (.pwrOkRise k) s = .next u ∧ u.pmu.dev = .halted ∧ u.bsu.bootCode = code ∧ u.bsu.haltN = false
       let alive := ∃ i, i < 4 ∧ (s.bsu.fuses.vendor.getD i none).isSome = true ∧ s.bsu.fuses.revoked.testBit i = false
       (k.bootMode % 4 = 3 → halts 0x13) ∧
       (k.bootMode % 4 ≠ 3 → (k.selfTest = .rom → halts 0xF1) ∧ (k.selfTest = .ram → halts 0xF2) ∧ (k.selfTest = .keyEngine → halts 0xF3) ∧
         (k.selfTest = .pass → (k.fusesOk = false → halts 0x21) ∧
           (k.fusesOk = true → (¬ alive → halts 0x22) ∧
             (alive → (k.flashOk = false → halts 0x31) ∧
               (k.flashOk = true → k.badAreas = [] → k.recovery = false →
                 (k.bootFlash = none → halts 0x14) ∧
                 (∀ da db, k.bootFlash = some (da, db) → (s.verdict da).1 < 7 → (s.verdict db).1 < 7 →
                   let m := max (s.verdict da).1 (s.verdict db).1
                   halts (if m = 5 then 0x2C else if m = 6 then 0x12 else 0x11))))))))) ∧
  -- R645, R646: recovery: kindling with the recovery strap enables host port 0 alone; a recovery image that passes goes to the slot of the
  -- lower verdict, and one that fails answers its status and changes no slot.
  (∀ (s : State) (k : Kindle) (c : Carriage) (d : List Octet) (ok : Bool),
     (s.pmu.dev = .reset → s.pmu.causeFrom < 2 → k.bootMode % 4 ≠ 3 → k.recovery = true → k.selfTest = .pass → k.fusesOk = true →
       k.flashOk = true → k.badAreas = [] →
       (∃ i, i < 4 ∧ (s.bsu.fuses.vendor.getD i none).isSome = true ∧ s.bsu.fuses.revoked.testBit i = false) →
       ∃ u, exec (.pwrOkRise k) s = .next u ∧ u.bsu.recovery = true ∧ u.bsu.devid = s.ownerNat 6 2 % 2 ^ 14 ∧ u.bsu.bootCode = 0x8E ∧ (u.port 0).enabled = true ∧
         (u.port 0).recovery = true ∧ (∀ p, p ≠ 0 → u.port p = s.port p) ∧ u.rng.intake = true) ∧
     (s.bsu.recovery = true → s.pmu.dev = .run → s.rng.svcQ.head? = some c →
       let slots := s.bsu.bootSlots.getD ([], [])
       let ends := fun (im : ImageRead) (ok : Bool) (st : Nat) => ∃ u, exec (.recoveryImageLoad im ok) s = .next u ∧ Answered s u c st [] ∧
         u.bsu = s.bsu
       ends .timeout ok 10 ∧
       ((d.length ≠ c.body 32 4 ∨ 1048576 < d.length ∨ d.take 96 ≠ c.data) → ends (.octets d) ok 2) ∧
       (d.length = c.body 32 4 → d.length ≤ 1048576 → d.take 96 = c.data →
         (∀ b, s.verdict d = (7, some b) → ends (.octets d) false 10 ∧
           ∃ u, exec (.recoveryImageLoad (.octets d) true) s = .next u ∧ Answered s u c 0 (octetsLe 2 b.version) ∧
             u.bsu = { s.bsu with
               bootCode := 0x8F, bootSlots := some (if (s.verdict slots.2).1 < (s.verdict slots.1).1 then (slots.1, d) else (d, slots.2)) }) ∧
         ((s.verdict d).1 ≤ 2 → ends (.octets d) ok 2) ∧
         (3 ≤ (s.verdict d).1 → (s.verdict d).1 ≤ 5 → ends (.octets d) ok 3) ∧ ((s.verdict d).1 = 6 → ∃ u, exec (.recoveryImageLoad (.octets d) ok) s = .next u ∧
           Answered s u c 4 (octetsLe 7 (s.keyRec c.tenant).last) ∧ u.bsu = s.bsu)))) ∧
  -- R663, R664: a device-fatal error, and a second watchdog expiry within a second, begin a kindling that keeps the record and counts it;
  -- the first expiry ends the load in progress with TIMEOUT, which leaves the halves as they were. Here the kindling halts at its first check.
  (∀ (s : State) (k : Kindle) (r : Nat), s.pmu.dev = .run → r < 4 →
     let begun := fun (u : State) => u.pmu.dev = .halted ∧ u.bsu.bootCode = 0xF2 ∧ u.ctxs = [] ∧ u.preds = [] ∧ u.rng = {} ∧ u.eau = {} ∧
       u.mem = {} ∧ u.ras.fatals = satInc 511 s.ras.fatals ∧ u.ras.en = false ∧ u.lk = s.lk
     (s.bsu.bootMode ≠ 3 → k.selfTest = .ram →
       (∃ u, exec (.deviceFatalError r k) s = .next u ∧ begun u) ∧
       (s.bsu.recovery = false → ∃ u, exec (.watchdogExpiry true k) s = .next u ∧ begun u)) ∧
     (∀ j, s.bsu.recovery = false → s.bsu.job = some j → s.pmu.job = none → s.bsu.brk = none → ∃ u, exec (.watchdogExpiry false k) s = .next u ∧
       Answered s u j.c 10 [] ∧ u.bsu = { s.bsu with job := none } ∧
       (∀ e ∈ j.before, s.cluReady (e.1 / 8) = true → (u.core e.1).loadPend = false) ∧
       ∀ n old, j.before = [(n, old)] → s.cluReady (n / 8) = true →
         let p := (s.core n).pair j.patch
         (u.core n).pair j.patch = ({ old.1 with gen := p.1.gen }, { old.2 with gen := p.2.gen })))

/-- R629, R630, R636, R639, R643 to R645, R648, R653: kindling from power-on with a good image in slot A alone, no DRAM section and no
owner configuration: boot code 0, the units ready, the verdicts recorded, and the minimum version and the revocation fuses never less
than the image asks. -/
def Obligations.KindlingReachesRun : Prop :=
  ∀ (s : State) (k : Kindle) (da db : List Octet) (b : Boot), s.pmu.dev = .reset → s.pmu.causeFrom < 2 → k.bootMode % 4 ≠ 3 → k.recovery = false →
    k.selfTest = .pass → k.fusesOk = true → k.flashOk = true → k.badAreas = [] →
    (∃ i, i < 4 ∧ (s.bsu.fuses.vendor.getD i none).isSome = true ∧ s.bsu.fuses.revoked.testBit i = false) →
    k.bootFlash = some (da, db) → s.verdict da = (7, some b) → (s.verdict db).1 ≠ 7 → b.section_ 3 = none →
    (∀ x ∈ b.secs, x.kind ≠ 2) → s.bsu.flash.owner = none → s.cluPresent 0 = true → k.avsAck = true → 0 ∉ k.clusterBad →
    (∃ c, c < Config.channels s.hw.variant ∧ c ∉ k.channelBad) → 1 ≤ k.ranks → 0 ∉ k.phyBad →
    ∃ u, exec (.pwrOkRise k) s = .next u ∧ u.pmu.dev = .run ∧ u.bsu.bootCode = 0 ∧ u.bsu.haltN = true ∧ u.bsu.slot = false ∧
      u.bsu.verda = 7 ∧ u.bsu.verdb = (s.verdict db).1 ∧ u.bsu.flash.minver = max s.bsu.flash.minver b.minset ∧
      u.bsu.fuses.revoked = s.bsu.fuses.revoked ||| b.revoke ∧ u.glb.rEau = true ∧ u.glb.rDdu = true ∧ u.glb.rIcu = true ∧
      u.rng.intake = true ∧ u.cluPower 0 = some .run ∧ u.cluReady 0 = true ∧
      (∀ c, c < Config.channels s.hw.variant → (u.glb.rDram.testBit c = true ↔ c ∉ k.channelBad))

/-! ### The whole machine -/

/-- R1, R636, R639, R641: what no step undoes: the part, the key hashes and the key-encryption key in its fuses; a revocation fuse that is
set stays set, and the minimum version never falls below what it has been. -/
def Obligations.StepsKeepTheFusesSealed : Prop :=
  ∀ (hw : Hw) (f : Fuses) (v : Nat) (s t : State), Sealed hw f v s → step s = .next t → Sealed hw f v t

/-- The state of power-on reset, and that it is sealed (the part is the model’s choice, log entry 1). -/
def Obligations.ResetHoldsItsValues : Prop :=
  -- R626 and the reset values that the spec states: the state of power-on reset.
  (let s := State.reset
   s.pending = [] ∧ s.pmu.dev = .reset ∧ s.bsu.bootCode = 0x81 ∧ s.glb.locked = false ∧ s.tbu.mode = .none ∧
   (∀ n, (s.ctx n).run = .off ∧ s.cluPower n = none ∧ (s.port n).linkUp = false ∧ (s.port n).frozen = false ∧
     (s.chan n).st = .off ∧ (s.prof n).owned = false ∧ s.dead n = false ∧ ((s.rings n).cfg (n % 8)).en = false ∧
     tget false s.ras.coreOff n = false ∧ (s.src n).count = 0) ∧
   s.icu.srcTok = 8191 ∧ s.icu.ctxTok = 511 ∧ s.lk.rngLease = 1024 ∧ s.lk.lat = 4096 ∧ s.lk.fabLimit = 1048576 ∧ s.lk.qwait = 100 ∧
   s.ras.next = 1 ∧ s.ras.en = false ∧ s.eau.closeQ = [] ∧ s.outbox = []) ∧
  -- Power-on reset has the seal of a part with its fuses unprogrammed (the model's choice of the part at reset, log entry 1).
  (Sealed {} {} 0 State.reset)
end

