-- ==== Sys2Proof/Laws/Tbl.lean ====
section
/-!
SUPPORT. The laws of sparse tables: what an entry reads after a write, and that every operation keeps the canonical form.
-/

namespace Sys2Proof.Machine

variable {α : Type}

theorem tget_tput_same (d : α) (t : Tbl α) (k : Nat) (v : α) : tget d (tput t k v) k = v := by
  induction t with
  | nil => simp [tput, tget]
  | cons e t ih =>
    obtain ⟨j, w⟩ := e
    unfold tput
    split
    · simp [tget]
    split
    · simp [tget]
    · rename_i h; simp [tget, h, ih]

theorem tget_tput_other (d : α) (t : Tbl α) {k i : Nat} (v : α) (h : i ≠ k) : tget d (tput t k v) i = tget d t i := by
  induction t with
  | nil => simp [tput, tget, h]
  | cons e t ih =>
    obtain ⟨j, w⟩ := e
    unfold tput
    split
    · simp [tget, h]
    split
    · rename_i hk; subst hk; simp [tget, h]
    · simp [tget, ih]

theorem tget_remove (d : α) (t : Tbl α) (k i : Nat) :
    tget d (t.filter (fun e => decide (e.1 ≠ k))) i = if i = k then d else tget d t i := by
  induction t with
  | nil => simp [tget]
  | cons e t ih =>
    obtain ⟨j, w⟩ := e
    by_cases hj : j = k
    · subst hj
      simp only [List.filter_cons, ne_eq, not_true_eq_false, decide_false, Bool.false_eq_true, if_false, ih, tget]
      split <;> simp_all
    · simp only [List.filter_cons, ne_eq, hj, not_false_eq_true, decide_true, if_true, tget, ih]
      split <;> simp_all

/-- An entry reads what was last written to it; the other entries are unchanged. -/
theorem tget_tset [DecidableEq α] (d : α) (t : Tbl α) (k : Nat) (v : α) (i : Nat) :
    tget d (tset d t k v) i = if i = k then v else tget d t i := by
  unfold tset
  split
  · rename_i hv; rw [tget_remove, hv]
  · split
    · rename_i hi; rw [hi, tget_tput_same]
    · rename_i hi; exact tget_tput_other d t v hi

@[simp] theorem tget_tset_same [DecidableEq α] (d : α) (t : Tbl α) (k : Nat) (v : α) : tget d (tset d t k v) k = v := by
  simp [tget_tset]

theorem tget_tset_other [DecidableEq α] (d : α) (t : Tbl α) {k i : Nat} (v : α) (h : i ≠ k) :
    tget d (tset d t k v) i = tget d t i := by simp [tget_tset, h]

@[simp] theorem tget_nil (d : α) (k : Nat) : tget d ([] : Tbl α) k = d := rfl

/-! ### The canonical form -/

theorem twfFrom_weaken [DecidableEq α] (d : α) {lo hi : Nat} (t : Tbl α) (h : lo ≤ hi) (w : twfFrom d hi t = true) :
    twfFrom d lo t = true := by
  cases t with
  | nil => rfl
  | cons e t =>
    simp only [twfFrom, Bool.and_eq_true, decide_eq_true_eq] at w ⊢
    exact ⟨⟨Nat.le_trans h w.1.1, w.1.2⟩, w.2⟩

theorem twfFrom_tput [DecidableEq α] (d : α) {lo : Nat} (t : Tbl α) (k : Nat) (v : α) (hk : lo ≤ k) (hv : v ≠ d)
    (w : twfFrom d lo t = true) : twfFrom d lo (tput t k v) = true := by
  induction t generalizing lo with
  | nil => simp [tput, twfFrom, hk, hv]
  | cons e t ih =>
    obtain ⟨j, x⟩ := e
    simp only [twfFrom, Bool.and_eq_true, decide_eq_true_eq] at w
    unfold tput
    split
    · rename_i h; simp [twfFrom, hk, hv, w.1.2, w.2]; omega
    split
    · rename_i h; subst h; simp [twfFrom, hk, hv, w.2]
    · rename_i h1 h2; simp [twfFrom, w.1.1, w.1.2, ih (by omega) w.2]

theorem twfFrom_filter [DecidableEq α] (d : α) {lo : Nat} (t : Tbl α) (p : Nat × α → Bool) (w : twfFrom d lo t = true) :
    twfFrom d lo (t.filter p) = true := by
  induction t generalizing lo with
  | nil => rfl
  | cons e t ih =>
    obtain ⟨j, x⟩ := e
    simp only [twfFrom, Bool.and_eq_true, decide_eq_true_eq] at w
    rw [List.filter_cons]
    split
    · simp [twfFrom, w.1.1, w.1.2, ih w.2]
    · exact twfFrom_weaken d _ (by omega) (ih w.2)

/-- A write keeps the canonical form. -/
theorem twf_tset [DecidableEq α] (d : α) (t : Tbl α) (k : Nat) (v : α) (w : twf d t = true) : twf d (tset d t k v) = true := by
  unfold tset
  split
  · exact twfFrom_filter d t _ w
  · rename_i h; exact twfFrom_tput d t k v (Nat.zero_le _) h w

theorem twf_tkeep [DecidableEq α] (d : α) (t : Tbl α) (p : Nat → Bool) (w : twf d t = true) : twf d (tkeep p t) = true :=
  twfFrom_filter d t _ w

theorem twfFrom_map_filter [DecidableEq α] {β : Type} [DecidableEq β] (d : α) (b : β) (f : Nat → α → β) {lo : Nat} (t : Tbl α)
    (w : twfFrom d lo t = true) : twfFrom b lo ((t.map (fun e => (e.1, f e.1 e.2))).filter (fun e => decide (e.2 ≠ b))) = true := by
  induction t generalizing lo with
  | nil => rfl
  | cons e t ih =>
    obtain ⟨j, x⟩ := e
    simp only [twfFrom, Bool.and_eq_true, decide_eq_true_eq] at w
    simp only [List.map_cons, List.filter_cons]
    split
    · rename_i h; simp only [twfFrom, w.1.1, h, ih w.2, decide_true, Bool.and_self]
    · exact twfFrom_weaken b _ (by omega) (ih w.2)

theorem twf_tmap [DecidableEq α] (d : α) (f : Nat → α → α) (t : Tbl α) (w : twf d t = true) : twf d (tmap d f t) = true :=
  twfFrom_map_filter d d f t w

theorem twfFrom_append [DecidableEq α] (d : α) {lo : Nat} (mid : Nat) (t u : Tbl α) (ht : twfFrom d lo t = true)
    (hm : ∀ e ∈ t, e.1 < mid) (hl : lo ≤ mid) (hu : twfFrom d mid u = true) : twfFrom d lo (t ++ u) = true := by
  induction t generalizing lo with
  | nil => exact twfFrom_weaken d _ hl hu
  | cons e t ih =>
    obtain ⟨j, x⟩ := e
    simp only [twfFrom, Bool.and_eq_true, decide_eq_true_eq] at ht
    have hj : j < mid := hm (j, x) (by simp)
    simp only [List.cons_append, twfFrom, ht.1.1, ht.1.2, decide_true, Bool.true_and, ne_eq, not_false_eq_true]
    exact ih ht.2 (fun e he => hm e (by simp [he])) (by omega)

/-- A canonical table whose keys are at least `hi` is canonical from `hi` on. -/
theorem twfFrom_of_le [DecidableEq α] (d : α) {lo hi : Nat} (t : Tbl α) (ht : twfFrom d lo t = true) (h : ∀ e ∈ t, hi ≤ e.1) :
    twfFrom d hi t = true := by
  cases t with
  | nil => rfl
  | cons e t =>
    simp only [twfFrom, Bool.and_eq_true, decide_eq_true_eq] at ht ⊢
    exact ⟨⟨h e (by simp), ht.1.2⟩, ht.2⟩

theorem twf_tsplice [DecidableEq α] (d : α) (lo hi : Nat) (u t : Tbl α) (ht : twf d t = true) (hu : twf d u = true)
    (hr : ∀ e ∈ u, lo ≤ e.1 ∧ e.1 < hi) (hl : lo ≤ hi) : twf d (tsplice lo hi u t) = true := by
  unfold tsplice twf
  rw [List.append_assoc]
  refine twfFrom_append d lo _ _ (twfFrom_filter d t _ ht) (fun e he => by simpa using (List.mem_filter.1 he).2) (Nat.zero_le _) ?_
  refine twfFrom_append d hi _ _ (twfFrom_of_le d _ hu (fun e he => (hr e he).1)) (fun e he => (hr e he).2) hl ?_
  exact twfFrom_of_le d _ (twfFrom_filter d t _ ht) (fun e he => by simpa using (List.mem_filter.1 he).2)

end Sys2Proof.Machine
end

