-- ==== Sys2Proof/Laws/RomUnits.lean ====
section
/-!
SUPPORT. One lemma for each operation of the units that writes State: it leaves the queue, the part, the fuses and the minimum version.
-/

set_option Elab.async false
set_option linter.unusedSimpArgs false

namespace Sys2Proof.Machine

open Sys2Proof

/-! ### The frame -/

/-- The queue, the part, the fuses and the minimum version: what only the sequences of kindling change. -/
def State.rom (s : State) : List Instr × Hw × Fuses × Nat := (s.pending, s.hw, s.bsu.fuses, s.bsu.flash.minver)

theorem State.rom_eq (s : State) : s.rom = (s.pending, s.hw, s.bsu.fuses, s.bsu.flash.minver) := rfl

/-- The state that a microword leaves. -/
def MicroOut.st : MicroOut → State
  | .go s _ => s | .fin s => s | .exc s _ => s | .whole s => s

theorem foldl_rom {α : Type} (f : State → α → State) (hf : ∀ s a, (f s a).rom = s.rom) (l : List α) (s : State) :
    (l.foldl f s).rom = s.rom := by
  induction l generalizing s with
  | nil => rfl
  | cons a t ih => rw [List.foldl_cons, ih, hf]

theorem ite_rom (c : Prop) [Decidable c] (a b : State) : (if c then a else b).rom = if c then a.rom else b.rom := by
  split <;> rfl

theorem foldl_snd_rom {α β : Type} (f : β × State → α → β × State) (hf : ∀ r a, (f r a).2.rom = r.2.rom) (l : List α) (r : β × State) :
    (l.foldl f r).2.rom = r.2.rom := by
  induction l generalizing r with
  | nil => rfl
  | cons a t ih => rw [List.foldl_cons, ih, hf]

theorem State.each_rom (s : State) (l : List Nat) (f : State → Nat → State) (hf : ∀ s a, (f s a).rom = s.rom) :
    (State.each s l f).rom = s.rom := foldl_rom f hf l s

theorem foldr_rom {α : Type} (f : α → State → State) (hf : ∀ a s, (f a s).rom = s.rom) (l : List α) (s : State) :
    (l.foldr f s).rom = s.rom := by
  induction l with
  | nil => rfl
  | cons a t ih => rw [List.foldr_cons, hf, ih]

/-! ### Ops -/

theorem State.setCtx_rom (s : State) (n : Nat) (c : Ctx) :
    (State.setCtx s n c).rom = s.rom := rfl

theorem State.modCtx_rom (s : State) (n : Nat) (f : Ctx → Ctx) :
    (State.modCtx s n f).rom = s.rom := rfl

theorem State.setCore_rom (s : State) (k : Nat) (c : Core) :
    (State.setCore s k c).rom = s.rom := rfl

theorem State.modCore_rom (s : State) (k : Nat) (f : Core → Core) :
    (State.modCore s k f).rom = s.rom := rfl

theorem State.retireTo_rom (s : State) (n : Nat) (next : Word) :
    (State.retireTo s n next).rom = s.rom := rfl

theorem State.draw_rom (s : State) (m : Nat) :
    (State.draw s m).2.rom = s.rom := rfl

theorem State.fresh_rom (s : State) :
    (State.fresh s).2.rom = s.rom := rfl

theorem State.emit_rom (s : State) (o : Out) :
    (State.emit s o).rom = s.rom := rfl

/-! ### Predict -/

theorem State.setPred_rom (s : State) (k : Nat) (p : Pred) :
    (State.setPred s k p).rom = s.rom := rfl

theorem State.wrongPath_rom (s : State) (n : Nat) :
    (State.wrongPath s n).rom = s.rom := rfl

theorem State.resolveBranch_rom (s : State) (n : Nat) (b : Branch) :
    (State.resolveBranch s n b).rom = s.rom := by
  unfold State.resolveBranch
  grind [State.rom_eq, State.modCtx_rom, State.wrongPath_rom, State.setPred_rom]

theorem State.pushReturn_rom (s : State) (n : Nat) (ret : Word) :
    (State.pushReturn s n ret).rom = s.rom := by
  unfold State.pushReturn
  simp only [ite_rom, ite_self, State.modCtx_rom]

theorem State.popReturn_rom (s : State) (n : Nat) :
    (State.popReturn s n).rom = s.rom := by
  unfold State.popReturn
  simp only [ite_rom, ite_self, State.modCtx_rom]

/-! ### Time -/

theorem State.elapsePhase_rom (s : State) :
    (State.elapsePhase s).rom = s.rom := by
  unfold State.elapsePhase
  grind [State.rom_eq, State.draw_rom]

/-! ### Icu -/

theorem State.setSrc_rom (s : State) (n : Nat) (e : Src_) :
    (State.setSrc s n e).rom = s.rom := by
  unfold State.setSrc
  grind [State.rom_eq]

theorem State.countArrival_rom (s : State) (n : Nat) :
    (State.countArrival s n).rom = s.rom := by
  unfold State.countArrival
  grind [State.rom_eq, State.setSrc_rom]

theorem State.lineEdge_rom (s : State) (n : Nat) :
    (State.lineEdge s n).rom = s.rom := by
  unfold State.lineEdge
  simp only [ite_rom, ite_self, State.setSrc_rom, State.countArrival_rom]

theorem State.signal_rom (s : State) (n : Nat) :
    (State.signal s n).rom = s.rom := by
  unfold State.signal
  simp only [ite_rom, ite_self, State.emit_rom]

theorem State.raise_rom (s : State) (n : Nat) :
    (State.raise s n).rom = s.rom := by
  unfold State.raise
  simp only [ite_rom, ite_self, State.lineEdge_rom, State.signal_rom]

theorem State.levelCount_rom (s : State) (n : Nat) :
    (State.levelCount s n).rom = s.rom := by
  unfold State.levelCount
  simp only [ite_rom, ite_self, State.setSrc_rom]

theorem State.setLine_rom (s : State) (n : Nat) (b : Bool) :
    (State.setLine s n b).rom = s.rom := by
  unfold State.setLine
  grind [State.rom_eq, State.levelCount_rom, State.lineEdge_rom]

theorem State.icuDeliver_rom (s : State) :
    (State.icuDeliver s).rom = s.rom := by
  unfold State.icuDeliver
  grind [State.rom_eq, State.setSrc_rom, State.modCtx_rom]

theorem State.returnHeld_rom (s : State) (n : Nat) :
    (State.returnHeld s n).rom = s.rom := by
  unfold State.returnHeld
  grind [State.rom_eq, State.setSrc_rom, State.modCtx_rom]

theorem State.endService_rom (s : State) (n : Nat) :
    (State.endService s n).rom = s.rom := State.setSrc_rom ..

theorem State.clearStack_rom (s : State) (n : Nat) :
    (State.clearStack s n).rom = s.rom := by
  unfold State.clearStack
  simp (disch := (intros; first | with_reducible rfl | grind [State.rom_eq, Eff.state, MicroOut.st, State.modCtx_rom, State.endService_rom])) only [foldl_rom, ite_rom, ite_self, State.modCtx_rom, State.endService_rom]

theorem State.icuStop_rom (s : State) :
    (State.icuStop s).rom = s.rom := by
  unfold State.icuStop
  grind [State.rom_eq]

theorem State.icuRestart_rom (s : State) :
    (State.icuRestart s).rom = s.rom := by
  unfold State.icuRestart
  dsimp only
  (try simp (disch := (intros; first | with_reducible rfl | grind [State.rom_eq, Eff.state, MicroOut.st, State.levelCount_rom, State.setSrc_rom, State.countArrival_rom])) only [foldl_rom, ite_rom, ite_self, State.levelCount_rom, State.setSrc_rom, State.countArrival_rom])
  ((repeat' split) <;> first | with_reducible rfl | (simp (disch := (intros; first | with_reducible rfl | grind [State.rom_eq, Eff.state, MicroOut.st, State.levelCount_rom, State.setSrc_rom, State.countArrival_rom])) only [foldl_rom, ite_rom, ite_self, State.levelCount_rom, State.setSrc_rom, State.countArrival_rom]; done) | grind [State.rom_eq, Eff.state, MicroOut.st, State.levelCount_rom, State.setSrc_rom, State.countArrival_rom])

theorem State.icuAcquire_rom (s : State) (r : Requester) (n : Nat) :
    (State.icuAcquire s r n).rom = s.rom := by
  unfold State.icuAcquire
  grind [State.rom_eq]

theorem State.icuCommit_rom (s : State) (r : Requester) :
    (State.icuCommit s r).rom = s.rom := by
  unfold State.icuCommit
  grind [State.rom_eq, State.setSrc_rom]

theorem State.icuAbort_rom (s : State) (r : Requester) :
    (State.icuAbort s r).rom = s.rom := by
  unfold State.icuAbort
  grind [State.rom_eq]

theorem State.icuBreak_rom (s : State) :
    (State.icuBreak s).rom = s.rom := by
  unfold State.icuBreak
  grind [State.rom_eq]

/-! ### Ras -/

theorem State.rasKeep_rom (s : State) (r : ErrRec) :
    (State.rasKeep s r).rom = s.rom := rfl

theorem State.rasLose_rom (s : State) :
    (State.rasLose s).rom = s.rom := rfl

theorem State.rasPut_rom (s : State) (r : ErrRec) :
    (State.rasPut s r).rom = s.rom := by
  unfold State.rasPut
  grind [State.rom_eq, State.rasLose_rom, State.rasKeep_rom]

theorem State.rasNew_rom (s : State) (cls : Nat) (sev : Nat) (unit : Nat) (ctx : Option Nat) (tenant : Option Nat) (addr : Option Nat) (detail : Nat) :
    (State.rasNew s cls sev unit ctx tenant addr detail).rom = s.rom := by
  unfold State.rasNew
  grind [State.rom_eq, State.raise_rom, State.rasPut_rom]

theorem State.record.fresh_rom (cls : Nat) (sev : Nat) (unit : Nat) (ctx : Option Nat) (tenant : Option Nat) (addr : Option Nat) (detail : Nat) (s : State) :
    (State.record.fresh cls sev unit ctx tenant addr detail s).rom = s.rom := by
  unfold State.record.fresh
  grind [State.rom_eq, State.rasNew_rom]

theorem State.record_rom (s : State) (cls : Nat) (sev : Nat) (unit : Nat) (ctx : Option Nat) (tenant : Option Nat) (addr : Option Nat) (detail : Nat) :
    (State.record s cls sev unit ctx tenant addr detail).rom = s.rom := by
  unfold State.record
  grind [State.rom_eq, State.rasKeep_rom, State.raise_rom, State.record.fresh_rom]

/-! ### DramMap -/

theorem State.setChan_rom (s : State) (c : Nat) (x : Chan) :
    (State.setChan s c x).rom = s.rom := rfl

theorem State.modChan_rom (s : State) (c : Nat) (f : Chan → Chan) :
    (State.modChan s c f).rom = s.rom := rfl

theorem State.chanUncorr_rom (s : State) (c : Nat) :
    (State.chanUncorr s c).rom = s.rom := by
  unfold State.chanUncorr
  simp only [ite_rom, ite_self, State.modChan_rom, State.raise_rom]

theorem State.chanPoison_rom (s : State) (c : Nat) :
    (State.chanPoison s c).rom = s.rom := by
  unfold State.chanPoison
  simp only [ite_rom, ite_self, State.modChan_rom, State.raise_rom]

theorem State.chanCorr_rom (s : State) (c : Nat) :
    (State.chanCorr s c).rom = s.rom := by
  unfold State.chanCorr
  simp only [ite_rom, ite_self, State.modChan_rom, State.raise_rom]

theorem State.chanLink_rom (s : State) (c : Nat) :
    (State.chanLink s c).rom = s.rom := by
  unfold State.chanLink
  simp only [ite_rom, ite_self, State.modChan_rom, State.raise_rom]

theorem State.rhSchedule_rom (s : State) (c : Nat) (b : Nat) (r : Nat) :
    (State.rhSchedule s c b r).rom = s.rom := by
  unfold State.rhSchedule
  simp only [ite_rom, ite_self, State.modChan_rom, State.raise_rom]

theorem State.rhDraw_rom (s : State) (c : Nat) (b : Nat) (r : Nat) :
    (State.rhDraw s c b r).rom = s.rom := by
  unfold State.rhDraw
  simp only [ite_rom, ite_self, State.draw_rom, State.modChan_rom, State.rhSchedule_rom]

theorem State.rhPerform_rom (s : State) (c : Nat) (b : Nat) :
    (State.rhPerform s c b).rom = s.rom := by
  unfold State.rhPerform
  grind [State.rom_eq, State.modChan_rom, State.raise_rom, State.rhDraw_rom]

theorem State.dramOpen_rom (s : State) (c : Nat) (b : Nat) (r : Nat) :
    (State.dramOpen s c b r).rom = s.rom := by
  unfold State.dramOpen
  simp (disch := (intros; first | with_reducible rfl | grind [State.rom_eq, Eff.state, MicroOut.st, State.rhPerform_rom, State.modChan_rom, State.rhDraw_rom])) only [foldl_rom, ite_rom, ite_self, State.rhPerform_rom, State.modChan_rom, State.rhDraw_rom]

theorem State.performWrite_rom (s : State) (c : Nat) (l : Nat) :
    (State.performWrite s c l).rom = s.rom := State.dramOpen_rom ..

theorem State.chanServe_rom (s : State) (c : Nat) :
    (State.chanServe s c).rom = s.rom := by
  unfold State.chanServe
  grind [State.rom_eq, State.performWrite_rom]

theorem State.serveWhile_rom (p : Chan → Bool) (c : Nat) (x2 : Nat) (x3 : State) :
    (State.serveWhile p c x2 x3).rom = x3.rom := by
  fun_induction State.serveWhile <;> grind [State.rom_eq, State.chanServe_rom]

theorem State.serveAll_rom (s : State) (c : Nat) :
    (State.serveAll s c).rom = s.rom := State.serveWhile_rom ..

theorem State.dramWrite_rom (s : State) (l : Nat) :
    (State.dramWrite s l).rom = s.rom := State.serveWhile_rom ..

theorem State.inOrder_rom (s : State) (c : Nat) (b : Nat) (r : Nat) (x4 : Nat) :
    (State.inOrder s c b r x4).rom = s.rom := by
  fun_induction State.inOrder <;> grind [State.rom_eq, State.performWrite_rom]

theorem State.dramRead_rom (s : State) (l : Nat) :
    (State.dramRead s l).rom = s.rom := by
  unfold State.dramRead
  simp only [ite_rom, ite_self, State.serveWhile_rom, State.inOrder_rom, State.modChan_rom, State.dramOpen_rom]

theorem State.dramTick_rom (s : State) :
    (State.dramTick s).rom = s.rom := by
  unfold State.dramTick
  grind [State.rom_eq, State.each_rom, State.chanServe_rom]

theorem State.noteOne_rom (s : State) (who : Option Nat) (n : MemNote) :
    (State.noteOne s who n).rom = s.rom := by
  unfold State.noteOne
  grind [State.rom_eq, State.dramRead_rom, State.dramWrite_rom, State.record_rom, State.modChan_rom, State.chanCorr_rom, State.chanUncorr_rom, State.chanPoison_rom, State.chanLink_rom]

theorem State.noteRound_rom (s : State) (who : Option Nat) (l : Nat) :
    (State.noteRound s who l).2.rom = s.rom := by
  unfold State.noteRound
  exact foldl_snd_rom _ (fun r a => by grind [State.rom_eq, Eff.state, MicroOut.st, State.noteOne_rom]) _ _

theorem State.noteAll_rom (s : State) (who : Option Nat) (l : Nat) :
    (State.noteAll s who l).2.rom = s.rom := by
  unfold State.noteAll
  simp (disch := (intros; first | with_reducible rfl | grind [State.rom_eq, Eff.state, MicroOut.st, State.noteRound_rom])) only [foldl_rom, ite_rom, ite_self, State.noteRound_rom]

theorem State.onMem_rom (s : State) (f : Mem → Mem) :
    (State.onMem s f).rom = s.rom := State.noteAll_rom ..

theorem State.access_rom (s : State) (who : Option Nat) (unit : Nat) (l : Nat) (pa : Nat) (f : Mem → Mem) :
    (State.access s who unit l pa f).2.rom = s.rom := by
  unfold State.access
  grind [State.rom_eq, State.noteAll_rom, State.record_rom]

theorem State.agentWrite_rom (s : State) (i : Nat) (unit : Nat) (x3 : Nat) (x4 : Nat) (x5 : List Word) :
    (State.agentWrite s i unit x3 x4 x5).rom = s.rom := by
  fun_induction State.agentWrite <;> grind [State.rom_eq, State.record_rom, State.onMem_rom]

theorem State.writeRun_rom (s : State) (i : Nat) (unit : Nat) (w : Nat) (ws : List Word) :
    (State.writeRun s i unit w ws).rom = s.rom := State.agentWrite_rom ..

theorem State.agentRead_rom (s : State) (i : Nat) (unit : Nat) (l : Nat) :
    (State.agentRead s i unit l).2.rom = s.rom := by
  unfold State.agentRead
  grind [State.rom_eq, State.record_rom, State.access_rom]

/-! ### Merge -/

theorem State.drainList_rom (s : State) (k : Nat) (es : List MEntry) :
    (State.drainList s k es).2.rom = s.rom := by
  unfold State.drainList
  exact foldl_snd_rom _ (fun r a => by grind [State.rom_eq, Eff.state, MicroOut.st, State.modCore_rom, State.onMem_rom]) _ _

theorem State.drainSome_rom (s : State) (k : Nat) (es : List MEntry) (rest : List MEntry) :
    (State.drainSome s k es rest).rom = s.rom := State.drainList_rom ..

theorem State.drainCtx_rom (s : State) (n : Nat) :
    (State.drainCtx s n).rom = s.rom := State.drainSome_rom ..

theorem State.drainCore_rom (s : State) (k : Nat) :
    (State.drainCore s k).rom = s.rom := State.drainSome_rom ..

theorem State.makeEligible_rom (s : State) (n : Nat) :
    (State.makeEligible s n).rom = s.rom := rfl

theorem State.bufferStore.alloc_rom (n : Nat) (line : Nat) (off : Nat) (bs : List Byte) (capW : List Nat) (va : Word) (stream : Bool) (frame : Option (Nat × Word)) (s : State) (k : Nat) :
    (State.bufferStore.alloc n line off bs capW va stream frame s k).rom = s.rom := by
  unfold State.bufferStore.alloc
  simp only [ite_rom, ite_self, State.drainSome_rom, State.modCore_rom]

theorem State.bufferStore_rom (s : State) (n : Nat) (line : Nat) (off : Nat) (bs : List Byte) (capW : List Nat) (va : Word) (stream : Bool) (frame : optParam (Option (Nat × Word)) none) :
    (State.bufferStore s n line off bs capW va stream frame).rom = s.rom := by
  unfold State.bufferStore
  grind [State.rom_eq, State.modCore_rom, State.bufferStore.alloc_rom]

theorem State.dropBad_rom (s : State) (n : Nat) (i : Nat) :
    (State.dropBad s n i).rom = s.rom := rfl

theorem State.showLine_rom (s : State) (n : Nat) (l : Nat) :
    (State.showLine s n l).rom = s.rom := by
  unfold State.showLine
  simp (disch := (intros; first | with_reducible rfl | grind [State.rom_eq, Eff.state, MicroOut.st, State.draw_rom, State.drainSome_rom])) only [foldl_rom, ite_rom, ite_self, State.draw_rom, State.drainSome_rom]

/-! ### Dol -/

theorem State.dolCount_rom (s : State) (k : Nat) :
    (State.dolCount s k).rom = s.rom := by
  unfold State.dolCount
  grind [State.rom_eq, State.raise_rom]

theorem State.dolMod_rom (s : State) (lane : Nat) (st : Stamp) (f : DRec → DRec) :
    (State.dolMod s lane st f).rom = s.rom := rfl

theorem State.dolCreate_rom (s : State) (cls : Nat) (st : Stamp) :
    (State.dolCreate s cls st).2.rom = s.rom := by
  unfold State.dolCreate
  grind [State.rom_eq, State.dolCount_rom, State.dolMod_rom]

theorem State.dolAccept_rom (s : State) (lane : Option Nat) (st : Stamp) (fl : Nat) :
    (State.dolAccept s lane st fl).rom = s.rom := by
  unfold State.dolAccept
  grind [State.rom_eq, State.dolMod_rom]

theorem State.dolTaken_rom (s : State) (lane : Option Nat) (st : Stamp) :
    (State.dolTaken s lane st).rom = s.rom := by
  unfold State.dolTaken
  grind [State.rom_eq, State.dolMod_rom]

theorem State.dolDecide_rom (s : State) (lane : Nat) (st : Stamp) (w : Word) (first : Bool) :
    (State.dolDecide s lane st w first).1.rom = s.rom := by
  unfold State.dolDecide
  grind [State.rom_eq, State.dolCount_rom, State.dolMod_rom]

theorem State.keepDevid_rom (s : State) :
    (State.keepDevid s).rom = s.rom := rfl

theorem State.dolRelease_rom (s : State) (lane : Nat) (phase : Nat) :
    (State.dolRelease s lane phase).rom = s.rom := by
  unfold State.dolRelease
  grind [State.rom_eq, State.dolCount_rom, State.emit_rom]

theorem State.tblMet_rom (s : State) (t : Nat) : (s.tblMet t).rom = s.rom := rfl

theorem State.dolReleases_rom (s : State) (lane : Nat) (phase : Nat) :
    (State.dolReleases s lane phase).rom = s.rom := by
  unfold State.dolReleases
  grind [State.rom_eq, State.dolRelease_rom, State.record_rom, State.dolCount_rom, State.tblMet_rom]

theorem execDecisionRelease_rom (lane : Nat) (phase : Nat) (s : State) :
    ∃ t, execDecisionRelease lane phase s = .next t ∧ t.rom = s.rom := ⟨_, rfl, by simp only [ite_rom, ite_self, State.dolReleases_rom]⟩

/-! ### Translate -/

theorem State.fillTlb_rom (s : State) (size : Nat) (t : List TlbE) (e : TlbE) :
    (State.fillTlb s size t e).2.rom = s.rom := by
  unfold State.fillTlb
  grind [State.rom_eq, State.draw_rom]

theorem State.tableRead_rom (s : State) (n : Nat) (pa : Nat) :
    (State.tableRead s n pa).2.rom = s.rom := by
  unfold State.tableRead
  grind [State.rom_eq, State.record_rom, State.access_rom]

theorem State.walk2_rom (s : State) (n : Nat) (b : Nat) (p : Nat) (ppn2 : Nat) (fill : Bool) :
    (State.walk2 s n b p ppn2 fill).2.rom = s.rom := by
  unfold State.walk2
  grind [State.rom_eq, State.tableRead_rom, State.fillTlb_rom, State.modCore_rom]

theorem State.oldOr_rom (s : State) (n : Nat) (b : Nat) (idx : Nat) (t : List TlbE) :
    (State.oldOr s n b idx t).2.rom = s.rom := by
  unfold State.oldOr
  grind [State.rom_eq, State.draw_rom]

theorem State.walk1_rom (s : State) (n : Nat) (b : Nat) (bl : Block) (p : Nat) (fill : Bool) :
    (State.walk1 s n b bl p fill).2.rom = s.rom := by
  unfold State.walk1
  grind [State.rom_eq, State.tableRead_rom, State.walk2_rom, State.fillTlb_rom, State.modCore_rom]

theorem State.pageOf_rom (s : State) (n : Nat) (b : Nat) (bl : Block) (p : Nat) :
    (State.pageOf s n b bl p).2.rom = s.rom := by
  unfold State.pageOf
  grind [State.rom_eq, State.oldOr_rom, State.walk2_rom, State.walk1_rom]

theorem State.physOf_rom (s : State) (n : Nat) (b : Nat) (bl : Block) (a : Nat) :
    (State.physOf s n b bl a).2.rom = s.rom := by
  unfold State.physOf
  grind [State.rom_eq, State.pageOf_rom]

theorem State.physOld_rom (s : State) (n : Nat) (b : Nat) (bl : Block) (a : Nat) :
    (State.physOld s n b bl a).2.rom = s.rom := by
  unfold State.physOld
  grind [State.rom_eq, State.walk1_rom]

theorem State.dropTlb_rom (s : State) (n : Nat) (p : TlbE → Bool) (q : TlbE → Bool) (keep : Bool) :
    (State.dropTlb s n p q keep).rom = s.rom := rfl

/-! ### Release -/

theorem State.releaseOne_rom (s : State) (k : Nat) :
    (State.releaseOne s k).rom = s.rom := State.modCore_rom ..

theorem State.armStamp_rom (s : State) (k : Nat) :
    (State.armStamp s k).rom = s.rom := by
  unfold State.armStamp
  simp only [ite_rom, ite_self, State.modCore_rom, State.releaseOne_rom]

theorem State.armCore_rom (s : State) (k : Nat) :
    (State.armCore s k).rom = s.rom := by
  unfold State.armCore
  grind [State.rom_eq, State.releaseOne_rom, State.armStamp_rom, State.modCore_rom]

theorem State.armStamps_rom (s : State) :
    (State.armStamps s).rom = s.rom := by
  unfold State.armStamps
  simp (disch := (intros; first | with_reducible rfl | grind [State.rom_eq, Eff.state, MicroOut.st, State.armStamp_rom])) only [foldl_rom, ite_rom, ite_self, State.armStamp_rom]

theorem execCoreRelease_rom (core : Nat) (s : State) :
    ∃ t, execCoreRelease core s = .next t ∧ t.rom = s.rom := ⟨_, rfl, by simp only [ite_rom, ite_self, State.releaseOne_rom]⟩

/-! ### Crypto -/



/-! ### Port -/

theorem State.setFn_rom (s : State) (t : Nat) (f : Fn) :
    (State.setFn s t f).rom = s.rom := rfl

theorem State.modFn_rom (s : State) (t : Nat) (f : Fn → Fn) :
    (State.modFn s t f).rom = s.rom := rfl

theorem State.setPort_rom (s : State) (p : Nat) (x : Port) :
    (State.setPort s p x).rom = s.rom := rfl

theorem State.modPort_rom (s : State) (p : Nat) (f : Port → Port) :
    (State.modPort s p f).rom = s.rom := rfl

theorem State.linkTlp_rom (s : State) (p : Nat) :
    (State.linkTlp s p).rom = s.rom := by
  unfold State.linkTlp
  grind [State.rom_eq, State.each_rom, State.modPort_rom]

theorem State.cntLate_rom (s : State) (p : Nat) :
    (State.cntLate s p).rom = s.rom := rfl

theorem State.cntUr_rom (s : State) (p : Nat) :
    (State.cntUr s p).rom = s.rom := rfl

theorem State.cntRecdrop_rom (s : State) (p : Nat) :
    (State.cntRecdrop s p).rom = s.rom := rfl

theorem State.cntFreeze_rom (s : State) (p : Nat) :
    (State.cntFreeze s p).rom = s.rom := rfl

theorem State.aerLog_rom (s : State) (t : Nat) (b : Nat) :
    (State.aerLog s t b).rom = s.rom := State.raise_rom ..

theorem State.aerError_rom (s : State) (t : Nat) (b : Nat) :
    (State.aerError s t b).rom = s.rom := by
  unfold State.aerError
  simp only [ite_rom, ite_self, State.record_rom, State.aerLog_rom]

theorem State.urWrite_rom (s : State) (t : Nat) :
    (State.urWrite s t).rom = s.rom := by
  unfold State.urWrite
  simp only [ite_rom, ite_self, State.aerError_rom]

theorem State.urRead_rom (s : State) (t : Nat) :
    (State.urRead s t).rom = s.rom := by
  unfold State.urRead
  simp only [ite_rom, ite_self, State.aerError_rom, State.cntUr_rom]

theorem State.msixSend_rom (s : State) (t : Nat) (v : Nat) :
    (State.msixSend s t v).rom = s.rom := State.linkTlp_rom ..

theorem State.msixDue_rom (s : State) (t : Nat) (v : Nat) :
    (State.msixDue s t v).rom = s.rom := by
  unfold State.msixDue
  simp only [ite_rom, ite_self, State.modFn_rom, State.msixSend_rom]

theorem State.msixFlush_rom (s : State) (t : Nat) (v : Nat) :
    (State.msixFlush s t v).rom = s.rom := by
  unfold State.msixFlush
  simp only [ite_rom, ite_self, State.msixSend_rom]

theorem State.msixFlushAll_rom (s : State) (t : Nat) :
    (State.msixFlushAll s t).rom = s.rom := by
  unfold State.msixFlushAll
  grind [State.rom_eq, State.each_rom, State.msixFlush_rom]

theorem execMsixPendingSend_rom (tenant : Nat) (vector : Nat) (s : State) :
    ∃ t, execMsixPendingSend tenant vector s = .next t ∧ t.rom = s.rom := ⟨_, rfl, by simp only [ite_rom, ite_self, State.msixFlush_rom]⟩

/-! ### Rings -/

theorem State.rngBadidx_rom (s : State) :
    (State.rngBadidx s).rom = s.rom := by
  unfold State.rngBadidx
  grind [State.rom_eq, State.raise_rom]

theorem State.rngStopCnt_rom (s : State) :
    (State.rngStopCnt s).rom = s.rom := by
  unfold State.rngStopCnt
  grind [State.rom_eq, State.raise_rom]

theorem State.rngAuth_rom (s : State) :
    (State.rngAuth s).rom = s.rom := by
  unfold State.rngAuth
  grind [State.rom_eq, State.raise_rom]

theorem State.rngReplay_rom (s : State) :
    (State.rngReplay s).rom = s.rom := by
  unfold State.rngReplay
  grind [State.rom_eq, State.raise_rom]

theorem State.rngDrop_rom (s : State) :
    (State.rngDrop s).rom = s.rom := by
  unfold State.rngDrop
  grind [State.rom_eq, State.raise_rom]

theorem State.rngCrit_rom (s : State) :
    (State.rngCrit s).rom = s.rom := by
  unfold State.rngCrit
  grind [State.rom_eq, State.raise_rom]

theorem State.rngSplit_rom (s : State) :
    (State.rngSplit s).rom = s.rom := by
  unfold State.rngSplit
  grind [State.rom_eq, State.raise_rom]

theorem State.rngCdrop_rom (s : State) :
    (State.rngCdrop s).rom = s.rom := by
  unfold State.rngCdrop
  grind [State.rom_eq, State.raise_rom]

theorem State.setRings_rom (s : State) (t : Nat) (r : Rings) :
    (State.setRings s t r).rom = s.rom := rfl

theorem State.modRings_rom (s : State) (t : Nat) (f : Rings → Rings) :
    (State.modRings s t f).rom = s.rom := rfl

theorem State.putRecord_rom (s : State) (t : Nat) (c : Nat) (os : List Octet) (msg : Bool) :
    (State.putRecord s t c os msg).rom = s.rom := by
  unfold State.putRecord
  simp only [ite_rom, ite_self, State.setRings_rom, State.emit_rom, State.linkTlp_rom, State.msixDue_rom]

theorem State.postRecord_rom (s : State) (t : Nat) (c : Nat) (os : List Octet) (msg : Bool) :
    (State.postRecord s t c os msg).rom = s.rom := by
  unfold State.postRecord
  simp only [ite_rom, ite_self, State.modPort_rom, State.cntRecdrop_rom, State.modRings_rom, State.putRecord_rom]

theorem State.drainRing_rom (s : State) (t : Nat) (n : Nat) (x3 : Nat) :
    (State.drainRing s t n x3).rom = s.rom := by
  fun_induction State.drainRing <;> grind [State.rom_eq, State.modRings_rom, State.postRecord_rom]

theorem State.drainFn_rom (s : State) (t : Nat) :
    (State.drainFn s t).rom = s.rom := by
  unfold State.drainFn
  grind [State.rom_eq, State.each_rom, State.drainRing_rom]

theorem State.fillRecord_rom (s : State) (t : Nat) (n : Nat) (id : Nat) (rec_ : Option (List Octet × Bool)) :
    (State.fillRecord s t n id rec_).rom = s.rom := State.drainRing_rom ..

theorem State.endCarriage_rom (s : State) (c : Carriage) (status : Nat) (info : List Octet) :
    (State.endCarriage s c status info).rom = s.rom := by
  unfold State.endCarriage
  grind [State.rom_eq, State.fillRecord_rom, State.rngCdrop_rom, State.modRings_rom, State.drainRing_rom]

theorem State.complete_rom (s : State) (c : Carriage) (status : Nat) (info : List Octet) :
    (State.complete s c status info).rom = s.rom := by
  unfold State.complete
  grind [State.rom_eq, State.endCarriage_rom]

theorem State.dropFetch_rom (s : State) (t : Nat) (n : Nat) (late : Bool) :
    (State.dropFetch s t n late).rom = s.rom := by
  unfold State.dropFetch
  grind [State.rom_eq, State.modRings_rom, State.modPort_rom]

theorem State.stopRing_rom (s : State) (t : Nat) (n : Nat) (status : Nat) :
    (State.stopRing s t n status).rom = s.rom := by
  unfold State.stopRing
  grind [State.rom_eq, State.modRings_rom, State.raise_rom, State.rngStopCnt_rom, State.fillRecord_rom]

theorem State.refreshPass_rom (s : State) (t : Nat) :
    (State.refreshPass s t).rom = s.rom := by
  unfold State.refreshPass
  simp (disch := (intros; first | with_reducible rfl | grind [State.rom_eq, Eff.state, MicroOut.st, State.setRings_rom, State.modRings_rom])) only [foldl_rom, ite_rom, ite_self, State.setRings_rom, State.modRings_rom]

theorem State.askSlot_rom (s : State) (t : Nat) (n : Nat) (i : Nat) (g : Nat) :
    (State.askSlot s t n i g).rom = s.rom := State.linkTlp_rom ..

theorem State.startFetch_rom (s : State) (t : Nat) (n : Nat) (g : Nat) :
    (State.startFetch s t n g).rom = s.rom := State.askSlot_rom ..

theorem State.advanceRound_rom (s : State) (p : Nat) (x2 : List Nat) :
    (State.advanceRound s p x2).2.rom = s.rom := by
  fun_induction State.advanceRound <;> grind [State.rom_eq, State.modRings_rom]

theorem State.endTurn_rom (s : State) (cur : Option Nat) : (State.endTurn s cur).rom = s.rom := by
  unfold State.endTurn
  split
  · simp only [ite_rom, ite_self, State.modRings_rom]
  · rfl

theorem State.fetchNext_rom (s : State) (p : Nat) :
    (State.fetchNext s p).rom = s.rom := by
  unfold State.fetchNext
  grind [State.rom_eq, State.endTurn_rom, State.each_rom, State.refreshPass_rom, State.advanceRound_rom, State.startFetch_rom]

theorem State.charge_rom (s : State) (t : Nat) (n : Nat) (slots : Nat) :
    (State.charge s t n slots).rom = s.rom := rfl

theorem execCarriageFetch_rom (port : Nat) (s : State) :
    ∃ t, execCarriageFetch port s = .next t ∧ t.rom = s.rom := ⟨_, rfl, by simp only [ite_rom, ite_self, State.fetchNext_rom]⟩

theorem State.sqTail_rom (s : State) (t : Nat) (n : Nat) (v : Nat) :
    (State.sqTail s t n v).rom = s.rom := by
  unfold State.sqTail
  simp only [ite_rom, ite_self, State.rngBadidx_rom, State.setRings_rom]

theorem State.cqHead_rom (s : State) (t : Nat) (n : Nat) (v : Nat) :
    (State.cqHead s t n v).rom = s.rom := by
  unfold State.cqHead
  simp only [ite_rom, ite_self, State.rngBadidx_rom, State.setRings_rom]

theorem execSqTailWrite_rom (tenant : Nat) (ring : Nat) (v : BitVec 32) (s : State) :
    ∃ t, execSqTailWrite tenant ring v s = .next t ∧ t.rom = s.rom := ⟨_, rfl, by simp only [ite_rom, ite_self, State.linkTlp_rom, State.sqTail_rom, State.urWrite_rom]⟩

theorem execCqHeadWrite_rom (tenant : Nat) (ring : Nat) (v : BitVec 32) (s : State) :
    ∃ t, execCqHeadWrite tenant ring v s = .next t ∧ t.rom = s.rom := ⟨_, rfl, by simp only [ite_rom, ite_self, State.linkTlp_rom, State.cqHead_rom, State.urWrite_rom]⟩

theorem State.ringAcquire_rom (s : State) (t : Nat) (n : Nat) :
    (State.ringAcquire s t n).rom = s.rom := by
  unfold State.ringAcquire
  simp only [ite_rom, ite_self, State.setRings_rom]

theorem State.cqDisable_rom (s : State) (t : Nat) (c : Nat) :
    (State.cqDisable s t c).rom = s.rom := rfl

theorem State.ringCommit_rom (s : State) (t : Nat) :
    (State.ringCommit s t).rom = s.rom := by
  unfold State.ringCommit
  grind [State.rom_eq, State.setRings_rom, State.dropFetch_rom, State.cqDisable_rom]

theorem State.ringAbort_rom (s : State) (t : Nat) :
    (State.ringAbort s t).rom = s.rom := by
  unfold State.ringAbort
  grind [State.rom_eq, State.setRings_rom]

theorem State.ringBreak_rom (s : State) (t : Nat) :
    (State.ringBreak s t).rom = s.rom := by
  unfold State.ringBreak
  grind [State.rom_eq, State.setRings_rom]

theorem execRingLeaseAcquire_rom (tenant : Nat) (ring : Nat) (s : State) :
    ∃ t, execRingLeaseAcquire tenant ring s = .next t ∧ t.rom = s.rom := ⟨_, rfl, by simp only [ite_rom, ite_self, State.linkTlp_rom, State.ringAcquire_rom, State.urWrite_rom]⟩

theorem execRingLeaseCommit_rom (tenant : Nat) (s : State) :
    ∃ t, execRingLeaseCommit tenant s = .next t ∧ t.rom = s.rom := ⟨_, rfl, by simp only [ite_rom, ite_self, State.linkTlp_rom, State.ringCommit_rom, State.urWrite_rom]⟩

theorem execRingLeaseAbort_rom (tenant : Nat) (s : State) :
    ∃ t, execRingLeaseAbort tenant s = .next t ∧ t.rom = s.rom := ⟨_, rfl, by simp only [ite_rom, ite_self, State.linkTlp_rom, State.ringAbort_rom, State.urWrite_rom]⟩

theorem execRingLeaseExpiry_rom (tenant : Nat) (s : State) :
    ∃ t, execRingLeaseExpiry tenant s = .next t ∧ t.rom = s.rom := ⟨_, rfl, by grind [State.rom_eq, State.ringBreak_rom]⟩

theorem State.pageWrite_rom (s : State) (t : Nat) (n : Nat) (v : Nat) :
    (State.pageWrite s t n v).rom = s.rom := by
  unfold State.pageWrite
  grind [State.rom_eq, State.sqTail_rom, State.cqHead_rom, State.setRings_rom, State.ringAcquire_rom, State.ringCommit_rom, State.ringAbort_rom]

/-! ### Carriage -/

theorem State.tsetRestore_rom (s : State) (saved : List (Nat × List Word × List Word)) :
    (State.tsetRestore s saved).rom = s.rom := by
  unfold State.tsetRestore
  simp (disch := (intros; first | with_reducible rfl | grind [State.rom_eq, Eff.state, MicroOut.st, State.modChan_rom])) only [foldl_rom, ite_rom, ite_self, State.modChan_rom]

theorem State.dmcBreak_rom (s : State) :
    (State.dmcBreak s).rom = s.rom := by
  unfold State.dmcBreak
  grind [State.rom_eq, State.tsetRestore_rom, State.raise_rom]

theorem State.breakOwned_rom (s : State) (p : Nat → Bool) :
    (State.breakOwned s p).rom = s.rom := by
  unfold State.breakOwned
  grind [State.rom_eq, State.icuBreak_rom, State.dmcBreak_rom]

theorem State.quarantine_rom (s : State) (p : Nat) (sel : Nat → Bool) :
    (State.quarantine s p sel).rom = s.rom := rfl

theorem State.dropFetches_rom (s : State) (p : Nat) :
    (State.dropFetches s p).rom = s.rom := by
  unfold State.dropFetches
  grind [State.rom_eq, State.each_rom, State.dropFetch_rom]

theorem State.freezeOne_rom (s : State) (p : Nat) (bitNo : Nat) :
    (State.freezeOne s p bitNo).rom = s.rom := by
  unfold State.freezeOne
  simp only [ite_rom, ite_self, State.modPort_rom, State.cntFreeze_rom, State.quarantine_rom, State.dropFetches_rom, State.raise_rom, State.breakOwned_rom, State.record_rom]

theorem State.freezeLink_rom (s : State) (p : Nat) (bitNo : Nat) :
    (State.freezeLink s p bitNo).rom = s.rom := by
  unfold State.freezeLink
  grind [State.rom_eq, State.each_rom, State.freezeOne_rom]

theorem State.fatalAer_rom (s : State) (p : Nat) (bitNo : Nat) :
    (State.fatalAer s p bitNo).rom = s.rom := by
  unfold State.fatalAer
  simp only [ite_rom, ite_self, State.aerError_rom, State.freezeLink_rom, State.aerLog_rom]

theorem State.setReady_rom (s : State) (p : Nat) (l : List Carriage) :
    (State.setReady s p l).rom = s.rom := rfl

theorem State.setStaging_rom (s : State) (p : Nat) (b : Nat) (l : List Carriage) :
    (State.setStaging s p b l).rom = s.rom := rfl

theorem State.setCrit_rom (s : State) (p : Nat) (l : List Crit) :
    (State.setCrit s p l).rom = s.rom := rfl

theorem State.intakeHead_rom (s : State) (p : Nat) (c : Carriage) :
    ∀ t, State.intakeHead s p c = some t → t.rom = s.rom := by
  unfold State.intakeHead
  grind [State.rom_eq, State.endCarriage_rom, State.rngCrit_rom, State.complete_rom, State.fresh_rom, State.setCrit_rom, State.setStaging_rom]

theorem State.pumpN_rom (s : State) (p : Nat) (x2 : Nat) :
    (State.pumpN s p x2).rom = s.rom := by
  fun_induction State.pumpN <;> grind [State.rom_eq, State.intakeHead_rom, State.setReady_rom]

theorem State.pump_rom (s : State) (p : Nat) :
    (State.pump s p).rom = s.rom := State.pumpN_rom ..

theorem State.nowReady_rom (s : State) (c : Carriage) :
    (State.nowReady s c).rom = s.rom := State.pump_rom ..

theorem State.slotArrived_rom (s : State) (t : Nat) (n : Nat) (g : Nat) (os : List Octet) :
    (State.slotArrived s t n g os).rom = s.rom := by
  unfold State.slotArrived
  grind [State.rom_eq, State.modRings_rom, State.charge_rom, State.stopRing_rom, State.askSlot_rom, State.nowReady_rom]

theorem State.closeRead_rom (s : State) (q : Nat) (r : HostRead) :
    (State.closeRead s q r).rom = s.rom := rfl

theorem State.completion_rom (s : State) (p : Nat) (g : Nat) (c : Cpl) :
    (State.completion s p g c).rom = s.rom := by
  unfold State.completion
  grind [State.rom_eq, State.aerError_rom, State.closeRead_rom, State.cntLate_rom, State.slotArrived_rom, State.stopRing_rom, State.fatalAer_rom]

theorem execReadCompletion_rom (port : Nat) (tag : Nat) (c : Cpl) (s : State) :
    ∃ t, execReadCompletion port tag c s = .next t ∧ t.rom = s.rom := ⟨_, rfl, by simp only [ite_rom, ite_self, State.completion_rom, State.linkTlp_rom]⟩

theorem execCompletionTimeout_rom (port : Nat) (tag : Nat) (s : State) :
    ∃ t, execCompletionTimeout port tag s = .next t ∧ t.rom = s.rom := ⟨_, rfl, by grind [State.rom_eq, State.closeRead_rom, State.aerError_rom, State.stopRing_rom]⟩

theorem State.setPush_rom (s : State) (t : Nat) (k : Nat) (q : Option Push) :
    (State.setPush s t k q).rom = s.rom := rfl

theorem State.pushDone_rom (s : State) (t : Nat) (k : Nat) (q : Push) :
    (State.pushDone s t k q).rom = s.rom := by
  unfold State.pushDone
  simp only [ite_rom, ite_self, State.setPush_rom, State.fresh_rom, State.nowReady_rom]

theorem State.pushSlot_rom (s : State) (t : Nat) (k : Nat) (slot : List Octet) :
    (State.pushSlot s t k slot).rom = s.rom := by
  unfold State.pushSlot
  grind [State.rom_eq, State.rngDrop_rom, State.pushDone_rom, State.setPush_rom]

theorem State.aperture_rom (s : State) (t : Nat) (offset : Nat) (octets : List Octet) :
    (State.aperture s t offset octets).rom = s.rom := by
  unfold State.aperture
  simp (disch := (intros; first | with_reducible rfl | grind [State.rom_eq, Eff.state, MicroOut.st, State.linkTlp_rom, State.urWrite_rom, State.rngDrop_rom, State.pushSlot_rom])) only [foldl_rom, ite_rom, ite_self, State.linkTlp_rom, State.urWrite_rom, State.rngDrop_rom, State.pushSlot_rom]

theorem execApertureWrite_rom (tenant : Nat) (offset : Nat) (octets : List Octet) (s : State) :
    ∃ t, execApertureWrite tenant offset octets s = .next t ∧ t.rom = s.rom := ⟨_, rfl, by simp only [ite_rom, ite_self, State.aperture_rom]⟩

theorem State.dropPush_rom (s : State) (t : Nat) (k : Nat) (f : State → State) (hf : ∀ s, (f s).rom = s.rom) :
    (State.dropPush s t k f).rom = s.rom := by
  unfold State.dropPush
  ((repeat' split) <;> first | with_reducible rfl | (simp (disch := (intros; first | with_reducible rfl | grind [State.rom_eq, Eff.state, MicroOut.st, State.setPush_rom, hf])) only [foldl_rom, ite_rom, ite_self, State.setPush_rom, hf]; done) | grind [State.rom_eq, Eff.state, MicroOut.st, State.setPush_rom, hf])

theorem execApertureTimeout_rom (tenant : Nat) (queue : Nat) (s : State) :
    ∃ t, execApertureTimeout tenant queue s = .next t ∧ t.rom = s.rom := ⟨_, rfl, by grind [State.rom_eq, State.dropPush_rom, State.rngDrop_rom]⟩

theorem execPoisonedWrite_rom (tenant : Nat) (queue : Nat) (s : State) :
    ∃ t, execPoisonedWrite tenant queue s = .next t ∧ t.rom = s.rom := ⟨_, rfl, by grind [State.rom_eq, State.linkTlp_rom, State.urWrite_rom, State.aerError_rom, State.rngDrop_rom, State.dropPush_rom]⟩

theorem State.dropPushes_rom (s : State) (t : Nat) (f : State → State) (hf : ∀ s, (f s).rom = s.rom) :
    (State.dropPushes s t f).rom = s.rom := by
  unfold State.dropPushes
  exact foldl_rom _ (fun s a => by grind [State.rom_eq, State.dropPush_rom]) _ _

theorem State.deliver_rom (s : State) (t : Nat) (header : List Word) (data : List Word) :
    (State.deliver s t header data).2.2.rom = s.rom := by
  unfold State.deliver
  grind [State.rom_eq, State.agentRead_rom, State.writeRun_rom, State.raise_rom]

theorem State.mail_rom (s : State) (c : Carriage) :
    (State.mail s c).rom = s.rom := by
  unfold State.mail
  simp only [ite_rom, ite_self, State.complete_rom, State.raise_rom, State.deliver_rom]

theorem State.headRow_rom (s : State) (p : Nat) (sel : Nat → Bool) (f : State → Carriage → State) (hf : ∀ s a1, (f s a1).rom = s.rom) :
    (State.headRow s p sel f).rom = s.rom := by
  unfold State.headRow
  ((repeat' split) <;> first | with_reducible rfl | (simp (disch := (intros; first | with_reducible rfl | grind [State.rom_eq, Eff.state, MicroOut.st, State.setReady_rom, State.complete_rom, State.pump_rom, hf])) only [foldl_rom, ite_rom, ite_self, State.setReady_rom, State.complete_rom, State.pump_rom, hf]; done) | grind [State.rom_eq, Eff.state, MicroOut.st, State.setReady_rom, State.complete_rom, State.pump_rom, hf])

theorem execMailbox_rom (port : Nat) (s : State) :
    ∃ t, execMailbox port s = .next t ∧ t.rom = s.rom := ⟨_, rfl, by grind [State.rom_eq, State.headRow_rom, State.mail_rom]⟩

theorem execFragmentCarriageNop_rom (port : Nat) (s : State) :
    ∃ t, execFragmentCarriageNop port s = .next t ∧ t.rom = s.rom := ⟨_, rfl, by grind [State.rom_eq, State.headRow_rom, State.complete_rom]⟩

theorem execUnknownOpcode_rom (port : Nat) (s : State) :
    ∃ t, execUnknownOpcode port s = .next t ∧ t.rom = s.rom := ⟨_, rfl, by grind [State.rom_eq, State.headRow_rom, State.complete_rom]⟩

theorem State.setKey_rom (s : State) (t : Nat) (k : KeyRec) :
    (State.setKey s t k).rom = s.rom := rfl

theorem State.keyCheck_rom (s : State) (c : Carriage) :
    (State.keyCheck s c).rom = s.rom := by
  unfold State.keyCheck
  grind [State.rom_eq, State.complete_rom, State.rngAuth_rom, State.rngReplay_rom, State.setKey_rom]

theorem State.handOver_rom (s : State) :
    (State.handOver s).rom = s.rom := by
  unfold State.handOver
  grind [State.rom_eq]

theorem execKeyEngineCheck_rom (s : State) :
    ∃ t, execKeyEngineCheck s = .next t ∧ t.rom = s.rom := ⟨_, rfl, by grind [State.rom_eq, State.pump_rom, State.keyCheck_rom, State.setCrit_rom]⟩

/-! ### Eau -/

theorem State.eauLine_rom (s : State) :
    (State.eauLine s).rom = s.rom := State.setLine_rom ..

theorem State.eauEvent_rom (s : State) (i : Nat) :
    (State.eauEvent s i).rom = s.rom := State.eauLine_rom ..

theorem State.eauCount_rom (s : State) (k : Nat) :
    (State.eauCount s k).rom = s.rom := by
  unfold State.eauCount
  grind [State.rom_eq, State.eauEvent_rom]

theorem State.setProf_rom (s : State) (p : Nat) (x : Profile) :
    (State.setProf s p x).rom = s.rom := rfl

theorem State.setPool_rom (s : State) (q : Nat) (x : Pool) :
    (State.setPool s q x).rom = s.rom := rfl

theorem State.modCharge_rom (s : State) (t : Nat) (f : Nat × Nat → Nat × Nat) :
    (State.modCharge s t f).rom = s.rom := rfl

theorem State.freeSlot_rom (s : State) (pool : Nat) (slot : Nat) :
    (State.freeSlot s pool slot).rom = s.rom := rfl

theorem State.allocSlot_rom (s : State) (pool : Nat) :
    ∀ t, State.allocSlot s pool = some t → t.2.rom = s.rom := by
  unfold State.allocSlot
  grind [State.rom_eq, State.modCharge_rom, State.setPool_rom]

theorem State.loseSlot_rom (s : State) (pool : Nat) :
    (State.loseSlot s pool).rom = s.rom := rfl

theorem State.setEntry_rom (s : State) (k : Nat) (e : Option Entry) :
    (State.setEntry s k e).rom = s.rom := rfl

theorem State.setVictims_rom (s : State) (bank : Nat) (l : List Victim) :
    (State.setVictims s bank l).rom = s.rom := rfl

theorem State.addVictim_rom (s : State) (bank : Nat) (v : Victim) :
    (State.addVictim s bank v).rom = s.rom := by
  unfold State.addVictim
  simp only [ite_rom, ite_self, State.setVictims_rom, State.eauCount_rom, State.eauEvent_rom]

theorem State.coachWrite_rom (s : State) (pool : Nat) (slot : Nat) (w : Nat) (ws : List Word) :
    (State.coachWrite s pool slot w ws).rom = s.rom := by
  unfold State.coachWrite
  simp only [ite_rom, ite_self, State.writeRun_rom]

theorem State.append_rom (s : State) (pool : Nat) (slot : Nat) (h4 : Bool) (used : Nat) (source : Nat) (c : Carriage) :
    (State.append s pool slot h4 used source c).2.2.rom = s.rom := by
  unfold State.append
  grind [State.rom_eq, State.coachWrite_rom]

theorem State.setBitmaps_rom (s : State) (bank : Nat) (l : List BmLines) :
    (State.setBitmaps s bank l).rom = s.rom := rfl

theorem State.bitmapPlace_rom (s : State) (bank : Nat) (b : BmLines) :
    (State.bitmapPlace s bank b).rom = s.rom := by
  unfold State.bitmapPlace
  simp only [ite_rom, ite_self, State.setBitmaps_rom, State.draw_rom]

theorem State.bitmapDrop_rom (s : State) (bank : Nat) (id : Nat) :
    (State.bitmapDrop s bank id).rom = s.rom := rfl

theorem State.bitmapGet_rom (s : State) (bank : Nat) (e : Entry) (i : Nat) :
    (State.bitmapGet s bank e i).2.rom = s.rom := by
  unfold State.bitmapGet
  grind [State.rom_eq, State.agentRead_rom, State.bitmapPlace_rom]

theorem State.bitmapSet_rom (s : State) (bank : Nat) (e : Entry) (pos : Nat) (v : Nat) :
    (State.bitmapSet s bank e pos v).rom = s.rom := by
  unfold State.bitmapSet
  simp only [ite_rom, ite_self, State.coachWrite_rom, State.bitmapPlace_rom]

theorem State.bitmapFlush_rom (s : State) (bank : Nat) (e : Entry) :
    (State.bitmapFlush s bank e).rom = s.rom := by
  unfold State.bitmapFlush
  grind [State.rom_eq, State.coachWrite_rom, State.bitmapDrop_rom]

theorem State.writeHeader_rom (s : State) (bank : Nat) (e : Entry) (r : EndRec) :
    (State.writeHeader s bank e r).rom = s.rom := by
  unfold State.writeHeader
  simp only [ite_rom, ite_self, State.bitmapFlush_rom, State.coachWrite_rom]

theorem State.closePush_rom (s : State) (ev : Event) :
    (State.closePush s ev).rom = s.rom := by
  unfold State.closePush
  grind [State.rom_eq, State.eauEvent_rom]

theorem State.endEntry_rom (s : State) (k : Nat) (e : Entry) (kind : EndKind) :
    (State.endEntry s k e kind).rom = s.rom := by
  unfold State.endEntry
  simp only [ite_rom, ite_self, State.fresh_rom, State.eauCount_rom, State.writeHeader_rom, State.setEntry_rom]

theorem State.evictEntry_rom (s : State) (bank : Nat) (k : Nat) (e : Entry) :
    (State.evictEntry s bank k e).rom = s.rom := by
  unfold State.evictEntry
  grind [State.rom_eq, State.fresh_rom, State.writeHeader_rom, State.eauCount_rom, State.modCharge_rom, State.setEntry_rom, State.addVictim_rom]

theorem State.closeEntry_rom (s : State) (bank : Nat) :
    (State.closeEntry s bank).rom = s.rom := by
  unfold State.closeEntry
  grind [State.rom_eq, State.closePush_rom, State.writeHeader_rom, State.modCharge_rom, State.setEntry_rom]

theorem execCloseQueueEntry_rom (bank : Nat) (s : State) :
    ∃ t, execCloseQueueEntry bank s = .next t ∧ t.rom = s.rom := ⟨_, rfl, by simp only [ite_rom, ite_self, State.closeEntry_rom]⟩

theorem State.assemblyDue_rom (s : State) (bank : Nat) :
    (State.assemblyDue s bank).rom = s.rom := by
  unfold State.assemblyDue
  grind [State.rom_eq, State.endEntry_rom]

theorem execAssemblyDeadline_rom (bank : Nat) (s : State) :
    ∃ t, execAssemblyDeadline bank s = .next t ∧ t.rom = s.rom := ⟨_, rfl, by simp only [ite_rom, ite_self, State.assemblyDue_rom]⟩

theorem execSpentEntryExpiry_rom (bank : Nat) (s : State) :
    ∃ t, execSpentEntryExpiry bank s = .next t ∧ t.rom = s.rom := ⟨_, rfl, by grind [State.rom_eq, State.setEntry_rom]⟩

theorem execVictimKeyExpiry_rom (bank : Nat) (s : State) :
    ∃ t, execVictimKeyExpiry bank s = .next t ∧ t.rom = s.rom := ⟨_, rfl, by grind [State.rom_eq, State.setVictims_rom]⟩

theorem State.straggle_rom (s : State) (c : Carriage) (p : Nat) (x : Profile) :
    (State.straggle s c p x).rom = s.rom := by
  unfold State.straggle
  simp only [ite_rom, ite_self, State.eauCount_rom, State.deliver_rom]

theorem State.cartAppend_rom (s : State) (c : Carriage) (k : Nat) (pos : Nat) (v : Nat) (e : Entry) :
    (State.cartAppend s c k pos v e).2.2.rom = s.rom := by
  unfold State.cartAppend
  simp only [ite_rom, ite_self, State.append_rom, State.bitmapSet_rom, State.eauCount_rom, State.setEntry_rom, State.endEntry_rom]

theorem State.arrivals_rom (s : State) (k : Nat) (pos : Nat) (e : Entry) :
    (State.arrivals s k pos e).2.rom = s.rom := by
  unfold State.arrivals
  grind [State.rom_eq, State.bitmapGet_rom]

theorem State.cartFound_rom (s : State) (c : Carriage) (p : Nat) (pos : Nat) (k : Nat) (x : Profile) (e : Entry) :
    (State.cartFound s c p pos k x e).2.2.rom = s.rom := by
  unfold State.cartFound
  grind [State.rom_eq, State.straggle_rom, State.arrivals_rom, State.endEntry_rom, State.eauCount_rom, State.cartAppend_rom]

theorem State.createEntry_rom (s : State) (bank : Nat) (p : Nat) (k : Nat) (w : Word) (x : Profile) (old : Option Entry) :
    ∀ t, State.createEntry s bank p k w x old = some t → t.2.rom = s.rom := by
  intro t h
  have h0 : ∀ s0 : State, s0.rom = s.rom → ∀ a, s0.allocSlot x.rec_.pool = some a → a.2.rom = s.rom := fun s0 h0 a ha => (State.allocSlot_rom s0 _ a ha).trans h0
  unfold State.createEntry at h
  grind [State.allocSlot_rom, State.setEntry_rom, State.addVictim_rom, State.evictEntry_rom, State.fresh_rom, State.dolCreate_rom, State.modCharge_rom, State.coachWrite_rom, State.bitmapPlace_rom]

theorem State.cart_rom (s : State) (bank : Nat) (c : Carriage) :
    ∀ t, State.cart s bank c = some t → t.2.2.rom = s.rom := by
  intro t h
  unfold State.cart at h
  dsimp only at h
  (repeat' split at h) <;> first
    | contradiction
    | (injection h with h; subst h
       first
         | with_reducible rfl
         | exact State.cartFound_rom ..
         | exact State.eauCount_rom ..
         | exact State.straggle_rom ..
         | (rename_i hc; exact (State.cartAppend_rom ..).trans (State.createEntry_rom _ _ _ _ _ _ _ _ hc))
         | (simp only [ite_rom, State.eauCount_rom, ite_self]))

theorem State.tableRecord_rom (s : State) (unit : Nat) (t : Nat) (lost : Bool) :
    (State.tableRecord s unit t lost).rom = s.rom := State.record_rom ..

theorem State.entryLost_rom (s : State) (k : Nat) (e : Entry) :
    (State.entryLost s k e).rom = s.rom := by
  unfold State.entryLost
  simp only [ite_rom, ite_self, State.bitmapDrop_rom, State.setEntry_rom, State.eauCount_rom, State.loseSlot_rom, State.modCharge_rom]

theorem State.eauTable_rom (s : State) (bank : Nat) (c : Carriage) (t : Nat) :
    (State.eauTable s bank c t).rom = s.rom := by
  unfold State.eauTable
  grind [State.rom_eq, State.tableRecord_rom, State.entryLost_rom, State.setProf_rom, State.setPool_rom, State.tblMet_rom]

theorem State.cartMeets_rom (s : State) (bank : Nat) (c : Carriage) :
    ∀ u, State.cartMeets s bank c = some u → u.2.2.rom = s.rom := fun u h =>
  (State.cart_rom _ _ _ u h).trans (by simp only [List.foldl, State.eauTable_rom])

theorem State.task_rom (s : State) (c : Carriage) :
    ∀ t, State.task s c = some t → t.2.2.rom = s.rom := by
  intro t h
  have h0 : ∀ a, s.allocSlot (s.prof (c.body 18 2)).rec_.pool = some a → a.2.rom = s.rom := fun a ha => State.allocSlot_rom s _ a ha
  unfold State.task at h
  grind [State.fresh_rom, State.dolCreate_rom, State.append_rom, State.coachWrite_rom, State.closePush_rom, State.eauCount_rom]

theorem State.bankServe_rom (s : State) (b : Nat) (op : Nat) (f : State → Carriage → CartOut) (hf : ∀ s a1, ∀ t, f s a1 = some t → t.2.2.rom = s.rom) :
    (State.bankServe s b op f).rom = s.rom := by
  unfold State.bankServe
  split
  · rfl
  split
  · rfl
  split
  · rfl
  split
  · rfl
  · rename_i h
    have := hf _ _ _ h
    dsimp only
    rw [State.pump_rom, State.complete_rom]
    simp only [State.rom_eq] at *
    grind [State.setStaging_rom, State.rom_eq]

theorem execFragment_rom (bank : Nat) (s : State) :
    ∃ t, execFragment bank s = .next t ∧ t.rom = s.rom := ⟨_, rfl, State.bankServe_rom _ _ _ _ (fun s c => State.cartMeets_rom s bank c)⟩

theorem State.taskMeets_rom (s : State) (bank : Nat) (c : Carriage) :
    ∀ u, State.taskMeets s bank c = some u → u.2.2.rom = s.rom := fun u h =>
  (State.task_rom _ _ u h).trans (by simp only [List.foldl, State.eauTable_rom])

theorem execTask_rom (bank : Nat) (s : State) :
    ∃ t, execTask bank s = .next t ∧ t.rom = s.rom := ⟨_, rfl, State.bankServe_rom _ _ _ _ (fun s c => State.taskMeets_rom s bank c)⟩

theorem State.profileSet_rom (s : State) (c : Carriage) :
    ∀ t, State.profileSet s c = some t → t.rom = s.rom := by
  unfold State.profileSet
  grind [State.rom_eq, State.complete_rom, State.setProf_rom]

theorem State.poolSet_rom (s : State) (c : Carriage) :
    ∀ t, State.poolSet s c = some t → t.rom = s.rom := by
  unfold State.poolSet
  grind [State.rom_eq, State.complete_rom, State.setPool_rom]

theorem State.quotaSet_rom (s : State) (c : Carriage) :
    (State.quotaSet s c).rom = s.rom := by
  unfold State.quotaSet
  grind [State.rom_eq, State.complete_rom]

theorem State.eauTake_rom (s : State) (op : Nat) (f : State → Carriage → Option State) (hf : ∀ s a1, ∀ t, f s a1 = some t → t.rom = s.rom) :
    (State.eauTake s op f).rom = s.rom := by
  unfold State.eauTake
  split
  · rfl
  split
  · rfl
  split
  · rename_i h; have h1 := hf _ _ _ h; exact h1
  · rfl

theorem State.eauServe_rom (s : State) (op : Nat) (f : State → Carriage → Option State) (hf : ∀ s a1, ∀ t, f s a1 = some t → t.rom = s.rom) :
    (State.eauServe s op f).rom = s.rom := (State.eauTake_rom _ _ _ hf).trans (State.handOver_rom ..)

theorem execProfileSet_rom (s : State) :
    ∃ t, execProfileSet s = .next t ∧ t.rom = s.rom := ⟨_, rfl, by grind [State.rom_eq, State.eauServe_rom, State.profileSet_rom]⟩

theorem execPoolSet_rom (s : State) :
    ∃ t, execPoolSet s = .next t ∧ t.rom = s.rom := ⟨_, rfl, by grind [State.rom_eq, State.eauServe_rom, State.poolSet_rom]⟩

theorem execQuotaSet_rom (s : State) :
    ∃ t, execQuotaSet s = .next t ∧ t.rom = s.rom := ⟨_, rfl, by grind [State.rom_eq, State.eauServe_rom, State.quotaSet_rom]⟩

theorem State.releaseDone_rom (s : State) (p : Nat) :
    (State.releaseDone s p).rom = s.rom := by
  unfold State.releaseDone
  grind [State.rom_eq, State.complete_rom, State.setProf_rom]

theorem execProfileReleaseComplete_rom (profile : Nat) (s : State) :
    ∃ t, execProfileReleaseComplete profile s = .next t ∧ t.rom = s.rom := ⟨_, rfl, by simp only [ite_rom, ite_self, State.releaseDone_rom]⟩

theorem State.drainDone_rom (s : State) (q : Nat) :
    (State.drainDone s q).rom = s.rom := by
  unfold State.drainDone
  grind [State.rom_eq, State.complete_rom, State.modCharge_rom, State.setPool_rom]

theorem execPoolDrainCommit_rom (pool : Nat) (s : State) :
    ∃ t, execPoolDrainCommit pool s = .next t ∧ t.rom = s.rom := ⟨_, rfl, by simp only [ite_rom, ite_self, State.drainDone_rom]⟩

theorem State.profBreak_rom (s : State) (p : Nat) :
    (State.profBreak s p).rom = s.rom := by
  unfold State.profBreak
  grind [State.rom_eq, State.complete_rom, State.eauEvent_rom, State.setProf_rom]

theorem State.poolBreak_rom (s : State) (q : Nat) :
    (State.poolBreak s q).rom = s.rom := by
  unfold State.poolBreak
  grind [State.rom_eq, State.complete_rom, State.eauEvent_rom, State.setPool_rom]

theorem execProfileLeaseExpiry_rom (profile : Nat) (s : State) :
    ∃ t, execProfileLeaseExpiry profile s = .next t ∧ t.rom = s.rom := ⟨_, rfl, by grind [State.rom_eq, State.profBreak_rom]⟩

theorem execPoolLeaseExpiry_rom (pool : Nat) (s : State) :
    ∃ t, execPoolLeaseExpiry pool s = .next t ∧ t.rom = s.rom := ⟨_, rfl, by grind [State.rom_eq, State.poolBreak_rom]⟩

theorem State.eauKill_rom (s : State) (t : Nat) :
    (State.eauKill s t).rom = s.rom := by
  unfold State.eauKill
  dsimp only
  (try simp (disch := (intros; first | with_reducible rfl | grind [State.rom_eq, Eff.state, MicroOut.st, State.setEntry_rom, State.eauCount_rom, State.freeSlot_rom, State.modCharge_rom, State.bitmapDrop_rom])) only [foldl_rom, ite_rom, ite_self, State.setEntry_rom, State.eauCount_rom, State.freeSlot_rom, State.modCharge_rom, State.bitmapDrop_rom])
  ((repeat' split) <;> first | with_reducible rfl | (simp (disch := (intros; first | with_reducible rfl | grind [State.rom_eq, Eff.state, MicroOut.st, State.setEntry_rom, State.eauCount_rom, State.freeSlot_rom, State.modCharge_rom, State.bitmapDrop_rom])) only [foldl_rom, ite_rom, ite_self, State.setEntry_rom, State.eauCount_rom, State.freeSlot_rom, State.modCharge_rom, State.bitmapDrop_rom]; done) | grind [State.rom_eq, Eff.state, MicroOut.st, State.setEntry_rom, State.eauCount_rom, State.freeSlot_rom, State.modCharge_rom, State.bitmapDrop_rom])

theorem State.eauRevive_rom (s : State) (t : Nat) :
    (State.eauRevive s t).rom = s.rom := rfl

theorem State.eauSave_rom (s : State) :
    (State.eauSave s).rom = s.rom := by
  unfold State.eauSave
  simp only [ite_rom, ite_self, State.onMem_rom, State.record_rom]

theorem State.saveRead_rom (s : State) :
    (State.saveRead s).rom = s.rom := by
  unfold State.saveRead
  simp only [ite_rom, ite_self, State.onMem_rom, State.record_rom]

theorem State.eauSleep_rom (s : State) (peat : Bool) (keep : Nat) :
    (State.eauSleep s peat keep).rom = s.rom := by
  unfold State.eauSleep
  grind [State.rom_eq, State.eauSave_rom]

theorem State.eauWake_rom (s : State) (keep : Nat) :
    (State.eauWake s keep).rom = s.rom := by
  unfold State.eauWake
  dsimp only
  (try simp (disch := (intros; first | with_reducible rfl | grind [State.rom_eq, Eff.state, MicroOut.st, State.saveRead_rom, State.modCharge_rom])) only [foldl_rom, ite_rom, ite_self, State.saveRead_rom, State.modCharge_rom])
  ((repeat' split) <;> first | with_reducible rfl | (simp (disch := (intros; first | with_reducible rfl | grind [State.rom_eq, Eff.state, MicroOut.st, State.saveRead_rom, State.modCharge_rom])) only [foldl_rom, ite_rom, ite_self, State.saveRead_rom, State.modCharge_rom]; done) | grind [State.rom_eq, Eff.state, MicroOut.st, State.saveRead_rom, State.modCharge_rom])

theorem State.eauCatchUp_rom (s : State) :
    (State.eauCatchUp s).rom = s.rom := by
  unfold State.eauCatchUp
  simp (disch := (intros; first | with_reducible rfl | grind [State.rom_eq, Eff.state, MicroOut.st, State.endEntry_rom])) only [foldl_rom, ite_rom, ite_self, State.endEntry_rom]

/-! ### Ddu -/

theorem State.dduCount_rom (s : State) (k : Nat) :
    (State.dduCount s k).rom = s.rom := by
  unfold State.dduCount
  grind [State.rom_eq, State.raise_rom]

theorem State.dduTake_rom (s : State) :
    (State.dduTake s).rom = s.rom := by
  unfold State.dduTake
  grind [State.rom_eq, State.dduCount_rom, State.dolAccept_rom]

theorem State.descError_rom (s : State) (e : Event) :
    (State.descError s e).rom = s.rom := by
  unfold State.descError
  grind [State.rom_eq, State.tableRecord_rom, State.loseSlot_rom, State.tblMet_rom]

theorem State.dduTakes_rom (s : State) :
    (State.dduTakes s).rom = s.rom := by
  unfold State.dduTakes
  grind [State.rom_eq, State.descError_rom, State.dduTake_rom]

theorem execDduAccept_rom (s : State) :
    ∃ t, execDduAccept s = .next t ∧ t.rom = s.rom := ⟨_, rfl, by simp only [ite_rom, ite_self, State.dduTakes_rom]⟩

theorem State.leaveWaiting_rom (s : State) (n : Nat) :
    (State.leaveWaiting s n).rom = s.rom := rfl

theorem State.grant_rom (s : State) (n : Nat) (a : KReg) (len : Nat) (d : Desc) (credit : Tbl Nat) :
    (State.grant s n a len d credit).rom = s.rom := by
  unfold State.grant
  grind [State.rom_eq, State.dduCount_rom, State.dolTaken_rom, State.leaveWaiting_rom, State.modCtx_rom, State.retireTo_rom]

theorem State.grantOne_rom (s : State) :
    (State.grantOne s).rom = s.rom := by
  unfold State.grantOne
  grind [State.rom_eq, State.grant_rom]

theorem execTakeGrant_rom (s : State) :
    ∃ t, execTakeGrant s = .next t ∧ t.rom = s.rom := ⟨_, rfl, by simp only [ite_rom, ite_self, State.grantOne_rom]⟩

theorem State.takeAlarm_rom (s : State) (n : Nat) (a : KReg) (len : Nat) :
    (State.takeAlarm s n a len).rom = s.rom := rfl

theorem State.shed_rom (s : State) (cls : Nat) :
    (State.shed s cls).rom = s.rom := by
  unfold State.shed
  grind [State.rom_eq, State.raise_rom, State.dduCount_rom, State.freeSlot_rom]

theorem execEventShed_rom (cls : Nat) (s : State) :
    ∃ t, execEventShed cls s = .next t ∧ t.rom = s.rom := ⟨_, rfl, by simp only [ite_rom, ite_self, State.shed_rom]⟩

theorem State.freeCoach_rom (s : State) (n : Nat) (c : Coach) :
    (State.freeCoach s n c).rom = s.rom := rfl

theorem State.freeCoaches_rom (s : State) (n : Nat) :
    (State.freeCoaches s n).rom = s.rom := by
  unfold State.freeCoaches
  simp (disch := (intros; first | with_reducible rfl | grind [State.rom_eq, Eff.state, MicroOut.st, State.freeCoach_rom])) only [foldl_rom, ite_rom, ite_self, State.freeCoach_rom]

/-! ### Tbu -/

theorem State.tbuLine_rom (s : State) :
    (State.tbuLine s).rom = s.rom := State.setLine_rom ..

theorem State.modTbu_rom (s : State) (f : Tbu → Tbu) :
    (State.modTbu s f).rom = s.rom := rfl

theorem State.tbuEvent_rom (s : State) (i : Nat) :
    (State.tbuEvent s i).rom = s.rom := State.tbuLine_rom ..

theorem State.tbuBad_rom (s : State) :
    (State.tbuBad s).rom = s.rom := by
  unfold State.tbuBad
  simp only [ite_rom, ite_self, State.modTbu_rom, State.tbuEvent_rom]

theorem State.tbuCrc_rom (s : State) :
    (State.tbuCrc s).rom = s.rom := by
  unfold State.tbuCrc
  simp only [ite_rom, ite_self, State.modTbu_rom, State.tbuEvent_rom]

theorem State.tbuDrop_rom (s : State) :
    (State.tbuDrop s).rom = s.rom := by
  unfold State.tbuDrop
  simp only [ite_rom, ite_self, State.modTbu_rom, State.tbuEvent_rom]

theorem State.tbuLate_rom (s : State) :
    (State.tbuLate s).rom = s.rom := by
  unfold State.tbuLate
  simp only [ite_rom, ite_self, State.modTbu_rom, State.tbuEvent_rom]

theorem State.tbuMode_rom (s : State) (m : TbuMode) :
    (State.tbuMode s m).rom = s.rom := by
  unfold State.tbuMode
  simp only [ite_rom, ite_self, State.tbuEvent_rom, State.modTbu_rom]

theorem State.switchTo_rom (s : State) (l : Nat) :
    (State.switchTo s l).rom = s.rom := State.tbuEvent_rom ..

theorem State.holdover_rom (s : State) :
    (State.holdover s).rom = s.rom := by
  unfold State.holdover
  simp only [ite_rom, ite_self, State.modTbu_rom, State.tbuMode_rom, State.record_rom]

theorem State.markFailed_rom (s : State) (l : Nat) :
    (State.markFailed s l).rom = s.rom := by
  unfold State.markFailed
  simp only [ite_rom, ite_self, State.modTbu_rom]

theorem State.switchOr_rom (s : State) (l : Nat) (f : State → State) (hf : ∀ s, (f s).rom = s.rom) :
    (State.switchOr s l f).rom = s.rom := by
  unfold State.switchOr
  simp only [ite_rom, ite_self, State.switchTo_rom, hf]

theorem State.failLink_rom (s : State) (l : Nat) :
    (State.failLink s l).rom = s.rom := by
  unfold State.failLink
  grind [State.rom_eq, State.markFailed_rom, State.switchOr_rom, State.holdover_rom, State.modTbu_rom]

theorem execBlockLockLoss_rom (link : Nat) (s : State) :
    ∃ t, execBlockLockLoss link s = .next t ∧ t.rom = s.rom := ⟨_, rfl, by simp only [ite_rom, ite_self, State.failLink_rom, State.modTbu_rom]⟩

theorem execBlockLockAcquired_rom (link : Nat) (s : State) :
    ∃ t, execBlockLockAcquired link s = .next t ∧ t.rom = s.rom := ⟨_, rfl, by simp only [ite_rom, ite_self, State.modTbu_rom]⟩

theorem execLinkFail_rom (link : Nat) (s : State) :
    ∃ t, execLinkFail link s = .next t ∧ t.rom = s.rom := ⟨_, rfl, by simp only [ite_rom, ite_self, State.failLink_rom]⟩

theorem State.acquireLost_rom (s : State) (l : Nat) :
    (State.acquireLost s l).rom = s.rom := by
  unfold State.acquireLost
  grind [State.rom_eq, State.switchOr_rom, State.modTbu_rom, State.markFailed_rom]

theorem execAcquireTimeout_rom (link : Nat) (s : State) :
    ∃ t, execAcquireTimeout link s = .next t ∧ t.rom = s.rom := ⟨_, rfl, by simp only [ite_rom, ite_self, State.acquireLost_rom]⟩

theorem State.mapStamps_rom (s : State) (f : Stamp → Stamp) (g : Stamp → Stamp) (k : Stamp → Stamp) :
    (State.mapStamps s f g k).rom = s.rom := rfl

theorem State.takeUp_rom (s : State) (m : Moment) :
    (State.takeUp s m).rom = s.rom := rfl

theorem State.takeStill_rom (s : State) (m : Moment) :
    (State.takeStill s m).rom = s.rom := rfl

theorem State.addHist_rom (s : State) (ref : Nat) (b : Int) :
    (State.addHist s ref b).rom = s.rom := rfl

theorem State.acquireFirst_rom (s : State) (l : Nat) (f : BeatFrame) :
    (State.acquireFirst s l f).rom = s.rom := by
  unfold State.acquireFirst
  grind [State.rom_eq, State.tbuMode_rom, State.takeUp_rom, State.mapStamps_rom, State.takeStill_rom, State.tbuEvent_rom, State.armStamps_rom]

theorem State.acquireSecond_rom (s : State) (l : Nat) (f : BeatFrame) :
    (State.acquireSecond s l f).rom = s.rom := by
  unfold State.acquireSecond
  grind [State.rom_eq, State.acquireFirst_rom, State.modTbu_rom, State.takeUp_rom]

theorem State.judge_rom (s : State) (l : Nat) (ok : Bool) :
    (State.judge s l ok).rom = s.rom := by
  unfold State.judge
  simp only [ite_rom, ite_self, State.modTbu_rom, State.failLink_rom]

theorem State.revertCount_rom (s : State) (l : Nat) (ok : Bool) :
    (State.revertCount s l ok).rom = s.rom := by
  unfold State.revertCount
  simp only [ite_rom, ite_self, State.switchTo_rom, State.modTbu_rom]

theorem State.calCapture_rom (s : State) (l : Nat) (f : BeatFrame) :
    (State.calCapture s l f).rom = s.rom := by
  unfold State.calCapture
  grind [State.rom_eq, State.modTbu_rom]

theorem State.trim_rom (s : State) (f : BeatFrame) :
    (State.trim s f).rom = s.rom := by
  unfold State.trim
  simp only [ite_rom, ite_self, State.takeUp_rom]

theorem State.judgeHeld_rom (s : State) (l : Nat) (ok : Bool) :
    (State.judgeHeld s l ok).rom = s.rom := rfl

theorem State.holdoverFrame_rom (s : State) (l : Nat) (f : BeatFrame) :
    (State.holdoverFrame s l f).rom = s.rom := by
  unfold State.holdoverFrame
  simp only [ite_rom, ite_self, State.modTbu_rom, State.judgeHeld_rom, State.record_rom, State.tbuEvent_rom, State.switchTo_rom, State.tbuMode_rom, State.takeUp_rom]

theorem State.runningFrame_rom (s : State) (l : Nat) (f : BeatFrame) :
    (State.runningFrame s l f).rom = s.rom := by
  unfold State.runningFrame
  simp only [ite_rom, ite_self, State.judge_rom, State.trim_rom, State.addHist_rom, State.revertCount_rom, State.modTbu_rom, State.tbuMode_rom, State.takeUp_rom, State.acquireFirst_rom]

theorem State.beatFrame_rom (s : State) (l : Nat) (f : BeatFrame) :
    (State.beatFrame s l f).rom = s.rom := by
  unfold State.beatFrame
  grind [State.rom_eq, State.calCapture_rom, State.modTbu_rom, State.acquireFirst_rom, State.acquireSecond_rom, State.runningFrame_rom, State.holdoverFrame_rom]

theorem execBeatFrame_rom (link : Nat) (x : RxBeat) (s : State) :
    ∃ t, execBeatFrame link x s = .next t ∧ t.rom = s.rom := ⟨_, rfl, by grind [State.rom_eq, State.beatFrame_rom]⟩

theorem State.beatEdge_rom (s : State) :
    (State.beatEdge s).rom = s.rom := by
  unfold State.beatEdge
  simp only [ite_rom, ite_self, State.modTbu_rom]

theorem execBeatEdge_rom (s : State) :
    ∃ t, execBeatEdge s = .next t ∧ t.rom = s.rom := ⟨_, rfl, by simp only [ite_rom, ite_self, State.beatEdge_rom]⟩

theorem State.crcClean_rom (s : State) (l : Nat) :
    (State.crcClean s l).rom = s.rom := rfl

theorem execIdleFrame_rom (f : RxBlocks) (s : State) :
    ∃ t, execIdleFrame f s = .next t ∧ t.rom = s.rom := ⟨_, rfl, by simp only [ite_rom, ite_self, State.crcClean_rom]⟩

theorem State.discard_rom (s : State) (l : Nat) (b : Blocks) :
    (State.discard s l b).rom = s.rom := by
  unfold State.discard
  grind [State.rom_eq, State.tbuBad_rom, State.crcClean_rom, State.tbuCrc_rom, State.modTbu_rom, State.failLink_rom]

theorem execDiscardedFrame_rom (link : Nat) (b : Blocks) (s : State) :
    ∃ t, execDiscardedFrame link b s = .next t ∧ t.rom = s.rom := ⟨_, rfl, by simp only [ite_rom, ite_self, State.discard_rom]⟩

theorem State.turnReset_rom (s : State) (T : Int) :
    (State.turnReset s T).rom = s.rom := by
  unfold State.turnReset
  simp only [ite_rom, ite_self, State.tbuDrop_rom, State.mapStamps_rom, State.tbuEvent_rom, State.modTbu_rom]

theorem State.runCmd_rom (s : State) (c : PendCmd) :
    (State.runCmd s c).rom = s.rom := by
  unfold State.runCmd
  grind [State.rom_eq, State.tbuEvent_rom, State.modTbu_rom, State.turnReset_rom, State.tbuMode_rom]

theorem State.commandFrame_rom (s : State) (l : Nat) (f : CmdFrame) :
    (State.commandFrame s l f).rom = s.rom := by
  unfold State.commandFrame
  simp only [ite_rom, ite_self, State.crcClean_rom, State.tbuBad_rom, State.tbuDrop_rom, State.modTbu_rom, State.tbuLate_rom, State.runCmd_rom]

theorem execCommandFrame_rom (link : Nat) (b : Blocks) (s : State) :
    ∃ t, execCommandFrame link b s = .next t ∧ t.rom = s.rom := ⟨_, rfl, by grind [State.rom_eq, State.commandFrame_rom]⟩

theorem State.cmdRow_rom (s : State) (code : Nat) :
    (State.cmdRow s code).rom = s.rom := by
  unfold State.cmdRow
  grind [State.rom_eq, State.runCmd_rom, State.modTbu_rom]

theorem execQuietStart_rom (s : State) :
    ∃ t, execQuietStart s = .next t ∧ t.rom = s.rom := ⟨_, rfl, by simp only [ite_rom, ite_self, State.cmdRow_rom]⟩

theorem execQuietEnd_rom (s : State) :
    ∃ t, execQuietEnd s = .next t ∧ t.rom = s.rom := ⟨_, rfl, by simp only [ite_rom, ite_self, State.cmdRow_rom]⟩

theorem execThrottleOn_rom (s : State) :
    ∃ t, execThrottleOn s = .next t ∧ t.rom = s.rom := ⟨_, rfl, by simp only [ite_rom, ite_self, State.cmdRow_rom]⟩

theorem execThrottleOff_rom (s : State) :
    ∃ t, execThrottleOff s = .next t ∧ t.rom = s.rom := ⟨_, rfl, by simp only [ite_rom, ite_self, State.cmdRow_rom]⟩

theorem execTurnReset_rom (s : State) :
    ∃ t, execTurnReset s = .next t ∧ t.rom = s.rom := ⟨_, rfl, by simp only [ite_rom, ite_self, State.cmdRow_rom]⟩

theorem execResync_rom (s : State) :
    ∃ t, execResync s = .next t ∧ t.rom = s.rom := ⟨_, rfl, by simp only [ite_rom, ite_self, State.cmdRow_rom]⟩

theorem execCal_rom (s : State) :
    ∃ t, execCal s = .next t ∧ t.rom = s.rom := ⟨_, rfl, by simp only [ite_rom, ite_self, State.cmdRow_rom]⟩

theorem execQuietWindowExpiry_rom (s : State) :
    ∃ t, execQuietWindowExpiry s = .next t ∧ t.rom = s.rom := ⟨_, rfl, by grind [State.rom_eq, State.modTbu_rom]⟩

/-! ### Hpc -/

theorem State.disableRings_rom (s : State) (t : Nat) :
    (State.disableRings s t).rom = s.rom := by
  unfold State.disableRings
  grind [State.rom_eq, State.each_rom, State.dropFetch_rom, State.modPort_rom, State.modRings_rom]

theorem State.flrOne_rom (s : State) (t : Nat) :
    (State.flrOne s t).rom = s.rom := by
  unfold State.flrOne
  grind [State.rom_eq, State.quarantine_rom, State.disableRings_rom, State.setFn_rom, State.dropPushes_rom, State.rngDrop_rom]

theorem State.flrVfs_rom (s : State) (p : Nat) :
    (State.flrVfs s p).rom = s.rom := by
  unfold State.flrVfs
  grind [State.rom_eq, State.each_rom, State.flrOne_rom]

theorem State.flrPort_rom (s : State) (p : Nat) :
    (State.flrPort s p).rom = s.rom := by
  unfold State.flrPort
  simp only [ite_rom, ite_self, State.flrOne_rom, State.flrVfs_rom]

theorem State.flr_rom (s : State) (t : Nat) :
    (State.flr s t).rom = s.rom := by
  unfold State.flr
  simp only [ite_rom, ite_self, State.flrPort_rom, State.flrOne_rom]

theorem execFunctionLevelReset_rom (tenant : Nat) (s : State) :
    ∃ t, execFunctionLevelReset tenant s = .next t ∧ t.rom = s.rom := ⟨_, rfl, by simp only [ite_rom, ite_self, State.flr_rom, State.linkTlp_rom]⟩

theorem State.vfClear_rom (s : State) (p : Nat) :
    (State.vfClear s p).rom = s.rom := State.flrVfs_rom ..

theorem execVfEnableClear_rom (port : Nat) (s : State) :
    ∃ t, execVfEnableClear port s = .next t ∧ t.rom = s.rom := ⟨_, rfl, by simp only [ite_rom, ite_self, State.vfClear_rom, State.linkTlp_rom]⟩

theorem State.stopReads_rom (s : State) (t : Nat) :
    (State.stopReads s t).rom = s.rom := by
  unfold State.stopReads
  grind [State.rom_eq, State.each_rom, State.dropFetch_rom]

theorem State.resumeFn_rom (s : State) (t : Nat) :
    (State.resumeFn s t).rom = s.rom := by
  unfold State.resumeFn
  simp only [ite_rom, ite_self, State.msixFlushAll_rom, State.drainFn_rom]

theorem State.setBme_rom (s : State) (t : Nat) (b : Bool) :
    (State.setBme s t b).rom = s.rom := by
  unfold State.setBme
  simp only [ite_rom, ite_self, State.modFn_rom, State.resumeFn_rom, State.stopReads_rom]

theorem execBusMasterEnableClear_rom (tenant : Nat) (s : State) :
    ∃ t, execBusMasterEnableClear tenant s = .next t ∧ t.rom = s.rom := ⟨_, rfl, by simp only [ite_rom, ite_self, State.setBme_rom, State.linkTlp_rom]⟩

theorem execBusMasterEnableSet_rom (tenant : Nat) (s : State) :
    ∃ t, execBusMasterEnableSet tenant s = .next t ∧ t.rom = s.rom := ⟨_, rfl, by simp only [ite_rom, ite_self, State.setBme_rom, State.linkTlp_rom]⟩

theorem State.setD3_rom (s : State) (t : Nat) (b : Bool) :
    (State.setD3 s t b).rom = s.rom := by
  unfold State.setD3
  simp only [ite_rom, ite_self, State.modFn_rom, State.stopReads_rom, State.resumeFn_rom]

theorem execD3hotEntry_rom (tenant : Nat) (s : State) :
    ∃ t, execD3hotEntry tenant s = .next t ∧ t.rom = s.rom := ⟨_, rfl, by simp only [ite_rom, ite_self, State.setD3_rom, State.linkTlp_rom]⟩

theorem execD0Return_rom (tenant : Nat) (s : State) :
    ∃ t, execD0Return tenant s = .next t ∧ t.rom = s.rom := ⟨_, rfl, by simp only [ite_rom, ite_self, State.setD3_rom, State.linkTlp_rom]⟩

theorem State.linkTrained_rom (s : State) (p : Nat) (speed : Nat) (width : Nat) :
    (State.linkTrained s p speed width).rom = s.rom := by
  unfold State.linkTrained
  grind [State.rom_eq, State.each_rom, State.modPort_rom, State.raise_rom]

theorem execLinkUp_rom (port : Nat) (speed : Nat) (width : Nat) (s : State) :
    ∃ t, execLinkUp port speed width s = .next t ∧ t.rom = s.rom := ⟨_, rfl, by simp only [ite_rom, ite_self, State.linkTrained_rom]⟩

theorem State.linkGone_rom (s : State) (p : Nat) :
    (State.linkGone s p).rom = s.rom := by
  unfold State.linkGone
  grind [State.rom_eq, State.each_rom, State.modPort_rom, State.raise_rom]

theorem State.linkReset_rom (s : State) (p : Nat) :
    (State.linkReset s p).rom = s.rom := by
  unfold State.linkReset
  grind [State.rom_eq, State.each_rom, State.breakOwned_rom, State.flrPort_rom]

theorem State.linkLost_rom (s : State) (p : Nat) :
    (State.linkLost s p).rom = s.rom := by
  unfold State.linkLost
  grind [State.rom_eq, State.linkReset_rom, State.linkGone_rom, State.freezeLink_rom, State.each_rom, State.breakOwned_rom]

theorem execLinkDown_rom (port : Nat) (s : State) :
    ∃ t, execLinkDown port s = .next t ∧ t.rom = s.rom := ⟨_, rfl, by simp only [ite_rom, ite_self, State.linkLost_rom]⟩

theorem State.hotReset_rom (s : State) (p : Nat) :
    (State.hotReset s p).rom = s.rom := by
  unfold State.hotReset
  simp only [ite_rom, ite_self, State.linkReset_rom, State.linkGone_rom]

theorem execHotReset_rom (port : Nat) (s : State) :
    ∃ t, execHotReset port s = .next t ∧ t.rom = s.rom := ⟨_, rfl, by simp only [ite_rom, ite_self, State.hotReset_rom]⟩

theorem execHostPortPerstN_rom (port : Nat) (asserted : Bool) (s : State) :
    ∃ t, execHostPortPerstN port asserted s = .next t ∧ t.rom = s.rom := ⟨_, rfl, by simp only [ite_rom, ite_self, State.linkLost_rom, State.modPort_rom]⟩

theorem execAspmL1Entry_rom (port : Nat) (s : State) :
    ∃ t, execAspmL1Entry port s = .next t ∧ t.rom = s.rom := ⟨_, rfl, by grind [State.rom_eq, State.each_rom, State.modPort_rom]⟩

theorem execFreeze_rom (port : Nat) (cause : Nat) (s : State) :
    ∃ t, execFreeze port cause s = .next t ∧ t.rom = s.rom := ⟨_, rfl, by simp only [ite_rom, ite_self, State.fatalAer_rom]⟩

theorem execQuarantineEnd_rom (port : Nat) (s : State) :
    ∃ t, execQuarantineEnd port s = .next t ∧ t.rom = s.rom := ⟨_, rfl, rfl⟩

theorem State.frzLapse_rom (s : State) (p : Nat) :
    (State.frzLapse s p).rom = s.rom := by
  unfold State.frzLapse
  grind [State.rom_eq, State.modPort_rom]

theorem execFreezeLeaseExpiry_rom (port : Nat) (s : State) :
    ∃ t, execFreezeLeaseExpiry port s = .next t ∧ t.rom = s.rom := ⟨_, rfl, by grind [State.rom_eq, State.frzLapse_rom]⟩

theorem State.rehold_rom (s : State) (e : Nat × Nat × List Octet × Bool) :
    (State.rehold s e).rom = s.rom := rfl

theorem State.unfreezeOne_rom (s : State) (p : Nat) (drop : Bool) :
    (State.unfreezeOne s p drop).rom = s.rom := by
  unfold State.unfreezeOne
  dsimp only
  rw [State.each_rom _ _ _ (fun s t => State.msixFlushAll_rom ..), State.modPort_rom, foldr_rom _ (fun e s => State.rehold_rom ..),
    foldl_rom _ (fun s e => by simp only [ite_rom, ite_self, State.putRecord_rom]), State.modPort_rom]
  split
  · exact State.each_rom _ _ _ (fun s t => State.disableRings_rom ..)
  · rfl

theorem State.unfreeze_rom (s : State) (p : Nat) (drop : Bool) :
    (State.unfreeze s p drop).rom = s.rom := by
  unfold State.unfreeze
  grind [State.rom_eq, State.each_rom, State.unfreezeOne_rom]

theorem execHpcUnfreezeGo_rom (port : Nat) (s : State) :
    ∃ t, execHpcUnfreezeGo port s = .next t ∧ t.rom = s.rom := ⟨_, rfl, by simp only [ite_rom, ite_self, State.unfreeze_rom]⟩

theorem execHpcUnfreezeDrop_rom (port : Nat) (s : State) :
    ∃ t, execHpcUnfreezeDrop port s = .next t ∧ t.rom = s.rom := ⟨_, rfl, by simp only [ite_rom, ite_self, State.unfreeze_rom]⟩

theorem State.ptmStart_rom (s : State) (p : Nat) :
    (State.ptmStart s p).rom = s.rom := by
  unfold State.ptmStart
  simp only [ite_rom, ite_self, State.linkTlp_rom, State.modPort_rom]

theorem execPtmDialog_rom (port : Nat) (s : State) :
    ∃ t, execPtmDialog port s = .next t ∧ t.rom = s.rom := ⟨_, rfl, by simp only [ite_rom, ite_self, State.ptmStart_rom]⟩

theorem execPtmPeriod_rom (port : Nat) (s : State) :
    ∃ t, execPtmPeriod port s = .next t ∧ t.rom = s.rom := ⟨_, rfl, by simp only [ite_rom, ite_self, State.ptmStart_rom]⟩

theorem execPtmResponse_rom (port : Nat) (masterTime : Nat) (phase : Nat) (s : State) :
    ∃ t, execPtmResponse port masterTime phase s = .next t ∧ t.rom = s.rom := ⟨_, rfl, by simp only [ite_rom, ite_self, State.raise_rom, State.modPort_rom]⟩

theorem execPtmTimeout_rom (port : Nat) (s : State) :
    ∃ t, execPtmTimeout port s = .next t ∧ t.rom = s.rom := ⟨_, rfl, by simp only [ite_rom, ite_self, State.modPort_rom]⟩

/-! ### ConfigSpace -/

theorem State.split_rom (s : State) (ts : List Nat) :
    (State.split s ts).rom = s.rom := by
  unfold State.split
  grind [State.rom_eq, State.each_rom, State.dropPushes_rom, State.rngSplit_rom]

theorem State.setMemEn_rom (s : State) (t : Nat) (b : Bool) :
    (State.setMemEn s t b).rom = s.rom := by
  unfold State.setMemEn
  simp only [ite_rom, ite_self, State.modFn_rom, State.split_rom]

theorem State.setBar_rom (s : State) (t : Nat) (i : Nat) (a : Nat) :
    (State.setBar s t i a).rom = s.rom := by
  unfold State.setBar
  simp only [ite_rom, ite_self, State.modFn_rom, State.split_rom]

theorem State.setBarHalf_rom (s : State) (t : Nat) (i : Nat) (h : Nat) (v : Nat) :
    (State.setBarHalf s t i h v).rom = s.rom := State.setBar_rom ..

theorem State.setBarSize_rom (s : State) (t : Nat) (v : Nat) :
    (State.setBarSize s t v).rom = s.rom := by
  unfold State.setBarSize
  simp only [ite_rom, ite_self, State.modFn_rom, State.split_rom]

theorem State.setVfBarSize_rom (s : State) (t : Nat) (v : Nat) :
    (State.setVfBarSize s t v).rom = s.rom := by
  unfold State.setVfBarSize
  simp only [ite_rom, ite_self, State.modFn_rom, State.split_rom]

theorem State.setNumVfs_rom (s : State) (t : Nat) (v : Nat) :
    (State.setNumVfs s t v).rom = s.rom := by
  unfold State.setNumVfs
  simp only [ite_rom, ite_self, State.modFn_rom]

theorem State.setVfEn_rom (s : State) (t : Nat) (b : Bool) :
    (State.setVfEn s t b).rom = s.rom := by
  unfold State.setVfEn
  simp only [ite_rom, ite_self, State.modFn_rom, State.vfClear_rom]

theorem State.cfgWriteLow_rom (s : State) (t : Nat) (n : Nat) (v : Nat) :
    (State.cfgWriteLow s t n v).rom = s.rom := by
  unfold State.cfgWriteLow
  simp only [ite_rom, ite_self, State.setMemEn_rom, State.setBme_rom, State.setBarHalf_rom, State.setD3_rom, State.msixFlushAll_rom, State.modFn_rom, State.flr_rom]

theorem State.cfgWriteHigh_rom (s : State) (t : Nat) (n : Nat) (v : Nat) :
    (State.cfgWriteHigh s t n v).rom = s.rom := by
  unfold State.cfgWriteHigh
  simp only [ite_rom, ite_self, State.modFn_rom, State.setVfEn_rom, State.setNumVfs_rom, State.setBarHalf_rom, State.setBarSize_rom, State.setVfBarSize_rom]

theorem State.cfgWrite_rom (s : State) (t : Nat) (n : Nat) (p : Part) (v : Nat) :
    (State.cfgWrite s t n p v).rom = s.rom := by
  unfold State.cfgWrite
  simp only [ite_rom, ite_self, State.cfgWriteLow_rom, State.cfgWriteHigh_rom]

theorem State.msixWrite_rom (s : State) (t : Nat) (v : Nat) (q : Nat) (w : Nat) :
    (State.msixWrite s t v q w).rom = s.rom := by
  unfold State.msixWrite
  simp only [ite_rom, ite_self, State.urWrite_rom, State.modFn_rom, State.msixFlush_rom]

/-! ### Dmc -/

theorem State.refreshBank_rom (s : State) (c : Nat) (b : Nat) :
    (State.refreshBank s c b).rom = s.rom := rfl

theorem State.refreshDue_rom (s : State) (c : Nat) (b : Nat) :
    (State.refreshDue s c b).rom = s.rom := by
  unfold State.refreshDue
  simp only [ite_rom, ite_self, State.draw_rom, State.modChan_rom, State.refreshBank_rom]

theorem execPerBankRefresh_rom (channel : Nat) (bank : Nat) (s : State) :
    ∃ t, execPerBankRefresh channel bank s = .next t ∧ t.rom = s.rom := ⟨_, rfl, by simp only [ite_rom, ite_self, State.refreshDue_rom]⟩

theorem execMr4Read_rom (channel : Nat) (mult : Nat) (s : State) :
    ∃ t, execMr4Read channel mult s = .next t ∧ t.rom = s.rom := ⟨_, rfl, by simp only [ite_rom, ite_self, State.modChan_rom]⟩

theorem execNeighbourRefresh_rom (channel : Nat) (bank : Nat) (s : State) :
    ∃ t, execNeighbourRefresh channel bank s = .next t ∧ t.rom = s.rom := ⟨_, rfl, by simp only [ite_rom, ite_self, State.rhPerform_rom]⟩

theorem execWriteAgeExpiry_rom (channel : Nat) (s : State) :
    ∃ t, execWriteAgeExpiry channel s = .next t ∧ t.rom = s.rom := ⟨_, rfl, by simp only [ite_rom, ite_self, State.modChan_rom, State.raise_rom]⟩

theorem State.chanOffline_rom (s : State) (c : Nat) :
    (State.chanOffline s c).rom = s.rom := by
  unfold State.chanOffline
  dsimp only
  rw [foldl_rom _ (fun s l => State.noteOne_rom ..)]
  grind [State.rom_eq, State.modChan_rom, State.record_rom, State.raise_rom]

theorem State.pauseTaken_rom (s : State) (c : Nat) :
    (State.pauseTaken s c).rom = s.rom := rfl

theorem execRetrainingPauseDue_rom (channel : Nat) (s : State) :
    ∃ t, execRetrainingPauseDue channel s = .next t ∧ t.rom = s.rom := ⟨_, rfl, by simp only [ite_rom, ite_self, State.modChan_rom]⟩

theorem execRetrainingPause_rom (channel : Nat) (first : Bool) (second : Bool) (s : State) :
    ∃ t, execRetrainingPause channel first second s = .next t ∧ t.rom = s.rom := ⟨_, rfl, by simp only [ite_rom, ite_self, State.pauseTaken_rom, State.chanOffline_rom]⟩

theorem State.scrub_rom (s : State) (c : Nat) (found : ScrubFind) :
    (State.scrub s c found).rom = s.rom := by
  unfold State.scrub
  grind [State.rom_eq, State.modChan_rom, State.noteOne_rom]

theorem execScrubRead_rom (channel : Nat) (found : ScrubFind) (s : State) :
    ∃ t, execScrubRead channel found s = .next t ∧ t.rom = s.rom := ⟨_, rfl, by simp only [ite_rom, ite_self, State.scrub_rom]⟩

theorem execEccWriteback_rom (channel : Nat) (s : State) :
    ∃ t, execEccWriteback channel s = .next t ∧ t.rom = s.rom := ⟨_, rfl, by grind [State.rom_eq, State.onMem_rom, State.modChan_rom]⟩

theorem State.dmcAcquire_rom (s : State) (r : Requester) :
    (State.dmcAcquire s r).rom = s.rom := by
  unfold State.dmcAcquire
  grind [State.rom_eq]

theorem State.dmcCommit_rom (s : State) (r : Requester) :
    (State.dmcCommit s r).rom = s.rom := by
  unfold State.dmcCommit
  grind [State.rom_eq]

theorem State.dmcAbort_rom (s : State) (r : Requester) :
    (State.dmcAbort s r).rom = s.rom := by
  unfold State.dmcAbort
  grind [State.rom_eq, State.tsetRestore_rom]

theorem execDmcLeaseExpiry_rom (s : State) :
    ∃ t, execDmcLeaseExpiry s = .next t ∧ t.rom = s.rom := ⟨_, rfl, by grind [State.rom_eq, State.dmcBreak_rom]⟩

theorem State.chanRefresh_rom (s : State) (c : Nat) : (State.chanRefresh s c).rom = s.rom := by
  unfold State.chanRefresh
  dsimp only
  rw [State.modChan_rom, foldl_rom _ (fun s b => foldl_rom _ (fun s _ => State.rhPerform_rom ..) _ _), State.serveAll_rom]

theorem State.changeRate_rom (s : State) (failNew : List Nat) (failOld : List Nat) :
    (State.changeRate s failNew failOld).rom = s.rom := by
  unfold State.changeRate
  grind [State.rom_eq, State.each_rom, State.chanRefresh_rom, State.pauseTaken_rom, State.modChan_rom, State.record_rom, State.chanOffline_rom, State.raise_rom]

theorem execFrequencyChange_rom (failNew : List Nat) (failOld : List Nat) (s : State) :
    ∃ t, execFrequencyChange failNew failOld s = .next t ∧ t.rom = s.rom := ⟨_, rfl, by simp only [ite_rom, ite_self, State.changeRate_rom]⟩

end Sys2Proof.Machine
end

