-- ==== Sys2Proof/Laws/FetchCores.lean ====
section
/-!
SUPPORT. What a fetch leaves of the cores: it changes their translations alone.
-/

set_option Elab.async false

namespace Sys2Proof.Machine

open Sys2Proof

/-- A core without its translation buffer and walk cache. -/
def keptCores (t : Tbl Core) (k : Nat) : Core := { tget {} t k with tlb := [], walk := [] }

/-- What a memory access leaves of the cores: all but their translations. -/
def State.kept (s : State) : (Nat → Core) × Tbl Bool × Tbl Bool := (keptCores s.cores, s.ras.coreOff, s.ras.cluOff)

theorem State.kept_eq (s : State) : s.kept = (keptCores s.cores, s.ras.coreOff, s.ras.cluOff) := rfl

theorem foldl_kept {α : Type} (f : State → α → State) (hf : ∀ s a, (f s a).kept = s.kept) (l : List α) (s : State) :
    (l.foldl f s).kept = s.kept := by
  induction l generalizing s with
  | nil => rfl
  | cons a t ih => rw [List.foldl_cons, ih, hf]

theorem foldl_snd_kept {α β : Type} (f : β × State → α → β × State) (hf : ∀ r a, (f r a).2.kept = r.2.kept) (l : List α) (r : β × State) :
    (l.foldl f r).2.kept = r.2.kept := by
  induction l generalizing r with
  | nil => rfl
  | cons a t ih => rw [List.foldl_cons, ih, hf]

theorem ite_kept (c : Prop) [Decidable c] (a b : State) : (if c then a else b).kept = if c then a.kept else b.kept := by
  split <;> rfl

theorem State.draw_kept (s : State) (m : Nat) :
    (State.draw s m).2.kept = s.kept := rfl

theorem State.emit_kept (s : State) (o : Out) :
    (State.emit s o).kept = s.kept := rfl

theorem State.setSrc_kept (s : State) (n : Nat) (e : Src_) :
    (State.setSrc s n e).kept = s.kept := by
  unfold State.setSrc
  grind [State.kept_eq]

theorem State.countArrival_kept (s : State) (n : Nat) :
    (State.countArrival s n).kept = s.kept := by
  unfold State.countArrival
  grind [State.kept_eq, State.setSrc_kept]

theorem State.lineEdge_kept (s : State) (n : Nat) :
    (State.lineEdge s n).kept = s.kept := by
  unfold State.lineEdge
  simp only [ite_kept, ite_self, State.setSrc_kept, State.countArrival_kept]

theorem State.signal_kept (s : State) (n : Nat) :
    (State.signal s n).kept = s.kept := by
  unfold State.signal
  simp only [ite_kept, ite_self, State.emit_kept]

theorem State.raise_kept (s : State) (n : Nat) :
    (State.raise s n).kept = s.kept := by
  unfold State.raise
  simp only [ite_kept, ite_self, State.lineEdge_kept, State.signal_kept]

theorem State.rasKeep_kept (s : State) (r : ErrRec) :
    (State.rasKeep s r).kept = s.kept := rfl

theorem State.rasLose_kept (s : State) :
    (State.rasLose s).kept = s.kept := rfl

theorem State.rasPut_kept (s : State) (r : ErrRec) :
    (State.rasPut s r).kept = s.kept := by
  unfold State.rasPut
  grind [State.kept_eq, State.rasLose_kept, State.rasKeep_kept]

theorem State.rasNew_kept (s : State) (cls : Nat) (sev : Nat) (unit : Nat) (ctx : Option Nat) (tenant : Option Nat) (addr : Option Nat) (detail : Nat) :
    (State.rasNew s cls sev unit ctx tenant addr detail).kept = s.kept := by
  unfold State.rasNew
  grind [State.kept_eq, State.raise_kept, State.rasPut_kept]

theorem State.record.fresh_kept (cls : Nat) (sev : Nat) (unit : Nat) (ctx : Option Nat) (tenant : Option Nat) (addr : Option Nat) (detail : Nat) (s : State) :
    (State.record.fresh cls sev unit ctx tenant addr detail s).kept = s.kept := by
  unfold State.record.fresh
  grind [State.kept_eq, State.rasNew_kept]

theorem State.record_kept (s : State) (cls : Nat) (sev : Nat) (unit : Nat) (ctx : Option Nat) (tenant : Option Nat) (addr : Option Nat) (detail : Nat) :
    (State.record s cls sev unit ctx tenant addr detail).kept = s.kept := by
  unfold State.record
  grind [State.kept_eq, State.rasKeep_kept, State.raise_kept, State.record.fresh_kept]

theorem State.setChan_kept (s : State) (c : Nat) (x : Chan) :
    (State.setChan s c x).kept = s.kept := rfl

theorem State.modChan_kept (s : State) (c : Nat) (f : Chan → Chan) :
    (State.modChan s c f).kept = s.kept := rfl

theorem State.chanUncorr_kept (s : State) (c : Nat) :
    (State.chanUncorr s c).kept = s.kept := by
  unfold State.chanUncorr
  simp only [ite_kept, ite_self, State.modChan_kept, State.raise_kept]

theorem State.chanPoison_kept (s : State) (c : Nat) :
    (State.chanPoison s c).kept = s.kept := by
  unfold State.chanPoison
  simp only [ite_kept, ite_self, State.modChan_kept, State.raise_kept]

theorem State.chanCorr_kept (s : State) (c : Nat) :
    (State.chanCorr s c).kept = s.kept := by
  unfold State.chanCorr
  simp only [ite_kept, ite_self, State.modChan_kept, State.raise_kept]

theorem State.chanLink_kept (s : State) (c : Nat) :
    (State.chanLink s c).kept = s.kept := by
  unfold State.chanLink
  simp only [ite_kept, ite_self, State.modChan_kept, State.raise_kept]

theorem State.rhSchedule_kept (s : State) (c : Nat) (b : Nat) (r : Nat) :
    (State.rhSchedule s c b r).kept = s.kept := by
  unfold State.rhSchedule
  simp only [ite_kept, ite_self, State.modChan_kept, State.raise_kept]

theorem State.rhDraw_kept (s : State) (c : Nat) (b : Nat) (r : Nat) :
    (State.rhDraw s c b r).kept = s.kept := by
  unfold State.rhDraw
  simp only [ite_kept, ite_self, State.draw_kept, State.modChan_kept, State.rhSchedule_kept]

theorem State.rhPerform_kept (s : State) (c : Nat) (b : Nat) :
    (State.rhPerform s c b).kept = s.kept := by
  unfold State.rhPerform
  grind [State.kept_eq, State.modChan_kept, State.raise_kept, State.rhDraw_kept]

theorem State.dramOpen_kept (s : State) (c : Nat) (b : Nat) (r : Nat) :
    (State.dramOpen s c b r).kept = s.kept := by
  unfold State.dramOpen
  simp (disch := (intros; first | with_reducible rfl | grind [State.kept_eq, Eff.state, MicroOut.st, State.rhPerform_kept, State.modChan_kept, State.rhDraw_kept])) only [foldl_kept, ite_kept, ite_self, State.rhPerform_kept, State.modChan_kept, State.rhDraw_kept]

theorem State.performWrite_kept (s : State) (c : Nat) (l : Nat) :
    (State.performWrite s c l).kept = s.kept := State.dramOpen_kept ..

theorem State.chanServe_kept (s : State) (c : Nat) :
    (State.chanServe s c).kept = s.kept := by
  unfold State.chanServe
  grind [State.kept_eq, State.performWrite_kept]

theorem State.serveWhile_kept (p : Chan → Bool) (c : Nat) (x2 : Nat) (x3 : State) :
    (State.serveWhile p c x2 x3).kept = x3.kept := by
  fun_induction State.serveWhile <;> grind [State.kept_eq, State.chanServe_kept]

theorem State.serveAll_kept (s : State) (c : Nat) :
    (State.serveAll s c).kept = s.kept := State.serveWhile_kept ..

theorem State.dramWrite_kept (s : State) (l : Nat) :
    (State.dramWrite s l).kept = s.kept := State.serveWhile_kept ..

theorem State.inOrder_kept (s : State) (c : Nat) (b : Nat) (r : Nat) (x4 : Nat) :
    (State.inOrder s c b r x4).kept = s.kept := by
  fun_induction State.inOrder <;> grind [State.kept_eq, State.performWrite_kept]

theorem State.dramRead_kept (s : State) (l : Nat) :
    (State.dramRead s l).kept = s.kept := by
  unfold State.dramRead
  simp only [ite_kept, ite_self, State.serveWhile_kept, State.inOrder_kept, State.modChan_kept, State.dramOpen_kept]

theorem State.noteOne_kept (s : State) (who : Option Nat) (n : MemNote) :
    (State.noteOne s who n).kept = s.kept := by
  unfold State.noteOne
  grind [State.kept_eq, State.dramRead_kept, State.dramWrite_kept, State.record_kept, State.modChan_kept, State.chanCorr_kept, State.chanUncorr_kept, State.chanPoison_kept, State.chanLink_kept]

theorem State.noteRound_kept (s : State) (who : Option Nat) (l : Nat) :
    (State.noteRound s who l).2.kept = s.kept := by
  unfold State.noteRound
  exact foldl_snd_kept _ (fun r a => by grind [State.kept_eq, Eff.state, MicroOut.st, State.noteOne_kept]) _ _

theorem State.noteAll_kept (s : State) (who : Option Nat) (l : Nat) :
    (State.noteAll s who l).2.kept = s.kept := by
  unfold State.noteAll
  simp (disch := (intros; first | with_reducible rfl | grind [State.kept_eq, Eff.state, MicroOut.st, State.noteRound_kept])) only [foldl_kept, ite_kept, ite_self, State.noteRound_kept]

theorem State.onMem_kept (s : State) (f : Mem → Mem) :
    (State.onMem s f).kept = s.kept := State.noteAll_kept ..

theorem State.access_kept (s : State) (who : Option Nat) (unit : Nat) (l : Nat) (pa : Nat) (f : Mem → Mem) :
    (State.access s who unit l pa f).2.kept = s.kept := by
  unfold State.access
  grind [State.kept_eq, State.noteAll_kept, State.record_kept]

theorem State.fillTlb_kept (s : State) (size : Nat) (t : List TlbE) (e : TlbE) :
    (State.fillTlb s size t e).2.kept = s.kept := by
  unfold State.fillTlb
  grind [State.kept_eq, State.draw_kept]

theorem State.tableRead_kept (s : State) (n : Nat) (pa : Nat) :
    (State.tableRead s n pa).2.kept = s.kept := by
  unfold State.tableRead
  grind [State.kept_eq, State.record_kept, State.access_kept]

theorem modTlb_kept (s : State) (k : Nat) (l : List TlbE) : (s.modCore k (fun c => { c with tlb := l })).kept = s.kept := by
  simp only [State.kept_eq, State.modCore, State.setCore, State.core, Prod.mk.injEq, and_true]
  funext j
  unfold keptCores
  dsimp only
  rw [tget_tset]
  split
  · rename_i h; rw [h]
  · rfl

theorem modWalk_kept (s : State) (k : Nat) (l : List TlbE) : (s.modCore k (fun c => { c with walk := l })).kept = s.kept := by
  simp only [State.kept_eq, State.modCore, State.setCore, State.core, Prod.mk.injEq, and_true]
  funext j
  unfold keptCores
  dsimp only
  rw [tget_tset]
  split
  · rename_i h; rw [h]
  · rfl

theorem State.walk2_kept (s : State) (n : Nat) (b : Nat) (p : Nat) (ppn2 : Nat) (fill : Bool) :
    (State.walk2 s n b p ppn2 fill).2.kept = s.kept := by
  have ht := State.tableRead_kept s n (12288 * ppn2 + 4 * (p % 3072))
  unfold State.walk2
  split
  · rename_i s1 he; rw [he] at ht; exact ht
  · rename_i e2 s1 he
    rw [he] at ht
    dsimp only at ht ⊢
    split
    · exact ht
    split
    · exact ht
    · dsimp only
      rw [modTlb_kept, State.fillTlb_kept, ht]

theorem State.walk1_kept (s : State) (n : Nat) (b : Nat) (bl : Block) (p : Nat) (fill : Bool) :
    (State.walk1 s n b bl p fill).2.kept = s.kept := by
  have ht := State.tableRead_kept s n (12288 * (bl.target.toNat % 2 ^ 32) + 4 * (p / 3072))
  unfold State.walk1
  dsimp only
  split
  · rfl
  split
  · rename_i s1 he; rw [he] at ht; exact ht
  · rename_i e1 s1 he
    rw [he] at ht
    dsimp only at ht ⊢
    split
    · exact ht
    split
    · exact ht
    split
    · rw [State.walk2_kept, ht]
    · rw [State.walk2_kept, modWalk_kept, State.fillTlb_kept, ht]

theorem State.oldOr_kept (s : State) (n : Nat) (b : Nat) (idx : Nat) (t : List TlbE) :
    (State.oldOr s n b idx t).2.kept = s.kept := by
  unfold State.oldOr
  grind [State.kept_eq, State.draw_kept]

theorem State.pageOf_kept (s : State) (n : Nat) (b : Nat) (bl : Block) (p : Nat) :
    (State.pageOf s n b bl p).2.kept = s.kept := by
  unfold State.pageOf
  grind [State.kept_eq, State.oldOr_kept, State.walk2_kept, State.walk1_kept]

theorem State.physOf_kept (s : State) (n : Nat) (b : Nat) (bl : Block) (a : Nat) :
    (State.physOf s n b bl a).2.kept = s.kept := by
  unfold State.physOf
  grind [State.kept_eq, State.pageOf_kept]

theorem State.physOld_kept (s : State) (n : Nat) (b : Nat) (bl : Block) (a : Nat) :
    (State.physOld s n b bl a).2.kept = s.kept := by
  unfold State.physOld
  grind [State.kept_eq, State.walk1_kept]

theorem State.errorResponse_kept (s : State) (n : Nat) (pa : Nat) :
    (State.errorResponse s n pa).kept = s.kept := State.record_kept ..

theorem fetchLine_kept (n : Nat) (b : Block) (r : Except Nat Nat × State) : (fetchLine n b r).2.kept = r.2.kept := by
  unfold fetchLine
  grind [State.kept_eq, State.errorResponse_kept, State.access_kept]

theorem State.fetchUnder_kept (s : State) (n : Nat) (c : Ctx) (old : Bool) (a : Nat) : (State.fetchUnder s n c old a).2.kept = s.kept := by
  unfold State.fetchUnder
  split
  · rfl
  split
  · rfl
  rw [fetchLine_kept]
  split
  · exact State.physOld_kept ..
  · exact State.physOf_kept ..

theorem State.fetchByte_kept (s : State) (n : Nat) (a : Nat) :
    (State.fetchByte s n a).2.kept = s.kept := by
  unfold State.fetchByte
  grind [State.kept_eq, State.fetchUnder_kept, State.draw_kept]

theorem State.fetchBytes_kept (s : State) (n : Nat) (x2 : Nat) (x3 : Nat) :
    (State.fetchBytes s n x2 x3).2.kept = s.kept := by
  fun_induction State.fetchBytes <;> grind [State.kept_eq, State.fetchByte_kept]

theorem State.fetch_kept (s : State) (n : Nat) (len : Nat) :
    (State.fetch s n len).2.kept = s.kept := by
  unfold State.fetch
  grind [State.kept_eq, State.fetchBytes_kept]

end Sys2Proof.Machine
end

