-- ==== Sys2Proof/Laws/FetchUnits.lean ====
section
/-!
SUPPORT. The units that a fetch leaves as they are, one lemma for each operation a fetch comes to.
-/

set_option Elab.async false

namespace Sys2Proof.Machine

open Sys2Proof

/-- The units that a memory access of a core leaves as they are. -/
def State.still (s : State) : List Instr × Hw × Lk × Glb × Tbu × Tbl Ctx × Tbl Pred × Rng × Eau × Ddu × Dol × Tbl Fn × Tbl Port × Pmu × Bsu × Nat := (s.pending, s.hw, s.lk, s.glb, s.tbu, s.ctxs, s.preds, s.rng, s.eau, s.ddu, s.dol, s.fns, s.ports, s.pmu, s.bsu, s.serial)

theorem State.still_eq (s : State) : s.still = (s.pending, s.hw, s.lk, s.glb, s.tbu, s.ctxs, s.preds, s.rng, s.eau, s.ddu, s.dol, s.fns, s.ports, s.pmu, s.bsu, s.serial) := rfl

theorem foldl_still {α : Type} (f : State → α → State) (hf : ∀ s a, (f s a).still = s.still) (l : List α) (s : State) :
    (l.foldl f s).still = s.still := by
  induction l generalizing s with
  | nil => rfl
  | cons a t ih => rw [List.foldl_cons, ih, hf]

theorem foldl_snd_still {α β : Type} (f : β × State → α → β × State) (hf : ∀ r a, (f r a).2.still = r.2.still) (l : List α) (r : β × State) :
    (l.foldl f r).2.still = r.2.still := by
  induction l generalizing r with
  | nil => rfl
  | cons a t ih => rw [List.foldl_cons, ih, hf]

theorem ite_still (c : Prop) [Decidable c] (a b : State) : (if c then a else b).still = if c then a.still else b.still := by
  split <;> rfl

theorem State.setCore_still (s : State) (k : Nat) (c : Core) :
    (State.setCore s k c).still = s.still := rfl

theorem State.modCore_still (s : State) (k : Nat) (f : Core → Core) :
    (State.modCore s k f).still = s.still := rfl

theorem State.draw_still (s : State) (m : Nat) :
    (State.draw s m).2.still = s.still := rfl

theorem State.emit_still (s : State) (o : Out) :
    (State.emit s o).still = s.still := rfl

theorem State.setSrc_still (s : State) (n : Nat) (e : Src_) :
    (State.setSrc s n e).still = s.still := by
  unfold State.setSrc
  grind [State.still_eq]

theorem State.countArrival_still (s : State) (n : Nat) :
    (State.countArrival s n).still = s.still := by
  unfold State.countArrival
  grind [State.still_eq, State.setSrc_still]

theorem State.lineEdge_still (s : State) (n : Nat) :
    (State.lineEdge s n).still = s.still := by
  unfold State.lineEdge
  simp only [ite_still, ite_self, State.setSrc_still, State.countArrival_still]

theorem State.signal_still (s : State) (n : Nat) :
    (State.signal s n).still = s.still := by
  unfold State.signal
  simp only [ite_still, ite_self, State.emit_still]

theorem State.raise_still (s : State) (n : Nat) :
    (State.raise s n).still = s.still := by
  unfold State.raise
  simp only [ite_still, ite_self, State.lineEdge_still, State.signal_still]

theorem State.rasKeep_still (s : State) (r : ErrRec) :
    (State.rasKeep s r).still = s.still := rfl

theorem State.rasLose_still (s : State) :
    (State.rasLose s).still = s.still := rfl

theorem State.rasPut_still (s : State) (r : ErrRec) :
    (State.rasPut s r).still = s.still := by
  unfold State.rasPut
  grind [State.still_eq, State.rasLose_still, State.rasKeep_still]

theorem State.rasNew_still (s : State) (cls : Nat) (sev : Nat) (unit : Nat) (ctx : Option Nat) (tenant : Option Nat) (addr : Option Nat) (detail : Nat) :
    (State.rasNew s cls sev unit ctx tenant addr detail).still = s.still := by
  unfold State.rasNew
  grind [State.still_eq, State.raise_still, State.rasPut_still]

theorem State.record.fresh_still (cls : Nat) (sev : Nat) (unit : Nat) (ctx : Option Nat) (tenant : Option Nat) (addr : Option Nat) (detail : Nat) (s : State) :
    (State.record.fresh cls sev unit ctx tenant addr detail s).still = s.still := by
  unfold State.record.fresh
  grind [State.still_eq, State.rasNew_still]

theorem State.record_still (s : State) (cls : Nat) (sev : Nat) (unit : Nat) (ctx : Option Nat) (tenant : Option Nat) (addr : Option Nat) (detail : Nat) :
    (State.record s cls sev unit ctx tenant addr detail).still = s.still := by
  unfold State.record
  grind [State.still_eq, State.rasKeep_still, State.raise_still, State.record.fresh_still]

theorem State.setChan_still (s : State) (c : Nat) (x : Chan) :
    (State.setChan s c x).still = s.still := rfl

theorem State.modChan_still (s : State) (c : Nat) (f : Chan → Chan) :
    (State.modChan s c f).still = s.still := rfl

theorem State.chanUncorr_still (s : State) (c : Nat) :
    (State.chanUncorr s c).still = s.still := by
  unfold State.chanUncorr
  simp only [ite_still, ite_self, State.modChan_still, State.raise_still]

theorem State.chanPoison_still (s : State) (c : Nat) :
    (State.chanPoison s c).still = s.still := by
  unfold State.chanPoison
  simp only [ite_still, ite_self, State.modChan_still, State.raise_still]

theorem State.chanCorr_still (s : State) (c : Nat) :
    (State.chanCorr s c).still = s.still := by
  unfold State.chanCorr
  simp only [ite_still, ite_self, State.modChan_still, State.raise_still]

theorem State.chanLink_still (s : State) (c : Nat) :
    (State.chanLink s c).still = s.still := by
  unfold State.chanLink
  simp only [ite_still, ite_self, State.modChan_still, State.raise_still]

theorem State.rhSchedule_still (s : State) (c : Nat) (b : Nat) (r : Nat) :
    (State.rhSchedule s c b r).still = s.still := by
  unfold State.rhSchedule
  simp only [ite_still, ite_self, State.modChan_still, State.raise_still]

theorem State.rhDraw_still (s : State) (c : Nat) (b : Nat) (r : Nat) :
    (State.rhDraw s c b r).still = s.still := by
  unfold State.rhDraw
  simp only [ite_still, ite_self, State.draw_still, State.modChan_still, State.rhSchedule_still]

theorem State.rhPerform_still (s : State) (c : Nat) (b : Nat) :
    (State.rhPerform s c b).still = s.still := by
  unfold State.rhPerform
  grind [State.still_eq, State.modChan_still, State.raise_still, State.rhDraw_still]

theorem State.dramOpen_still (s : State) (c : Nat) (b : Nat) (r : Nat) :
    (State.dramOpen s c b r).still = s.still := by
  unfold State.dramOpen
  simp (disch := (intros; first | with_reducible rfl | grind [State.still_eq, Eff.state, MicroOut.st, State.rhPerform_still, State.modChan_still, State.rhDraw_still])) only [foldl_still, ite_still, ite_self, State.rhPerform_still, State.modChan_still, State.rhDraw_still]

theorem State.performWrite_still (s : State) (c : Nat) (l : Nat) :
    (State.performWrite s c l).still = s.still := State.dramOpen_still ..

theorem State.chanServe_still (s : State) (c : Nat) :
    (State.chanServe s c).still = s.still := by
  unfold State.chanServe
  grind [State.still_eq, State.performWrite_still]

theorem State.serveWhile_still (p : Chan → Bool) (c : Nat) (x2 : Nat) (x3 : State) :
    (State.serveWhile p c x2 x3).still = x3.still := by
  fun_induction State.serveWhile <;> grind [State.still_eq, State.chanServe_still]

theorem State.serveAll_still (s : State) (c : Nat) :
    (State.serveAll s c).still = s.still := State.serveWhile_still ..

theorem State.dramWrite_still (s : State) (l : Nat) :
    (State.dramWrite s l).still = s.still := State.serveWhile_still ..

theorem State.inOrder_still (s : State) (c : Nat) (b : Nat) (r : Nat) (x4 : Nat) :
    (State.inOrder s c b r x4).still = s.still := by
  fun_induction State.inOrder <;> grind [State.still_eq, State.performWrite_still]

theorem State.dramRead_still (s : State) (l : Nat) :
    (State.dramRead s l).still = s.still := by
  unfold State.dramRead
  simp only [ite_still, ite_self, State.serveWhile_still, State.inOrder_still, State.modChan_still, State.dramOpen_still]

theorem State.noteOne_still (s : State) (who : Option Nat) (n : MemNote) :
    (State.noteOne s who n).still = s.still := by
  unfold State.noteOne
  grind [State.still_eq, State.dramRead_still, State.dramWrite_still, State.record_still, State.modChan_still, State.chanCorr_still, State.chanUncorr_still, State.chanPoison_still, State.chanLink_still]

theorem State.noteRound_still (s : State) (who : Option Nat) (l : Nat) :
    (State.noteRound s who l).2.still = s.still := by
  unfold State.noteRound
  exact foldl_snd_still _ (fun r a => by grind [State.still_eq, Eff.state, MicroOut.st, State.noteOne_still]) _ _

theorem State.noteAll_still (s : State) (who : Option Nat) (l : Nat) :
    (State.noteAll s who l).2.still = s.still := by
  unfold State.noteAll
  simp (disch := (intros; first | with_reducible rfl | grind [State.still_eq, Eff.state, MicroOut.st, State.noteRound_still])) only [foldl_still, ite_still, ite_self, State.noteRound_still]

theorem State.onMem_still (s : State) (f : Mem → Mem) :
    (State.onMem s f).still = s.still := State.noteAll_still ..

theorem State.access_still (s : State) (who : Option Nat) (unit : Nat) (l : Nat) (pa : Nat) (f : Mem → Mem) :
    (State.access s who unit l pa f).2.still = s.still := by
  unfold State.access
  grind [State.still_eq, State.noteAll_still, State.record_still]

theorem State.fillTlb_still (s : State) (size : Nat) (t : List TlbE) (e : TlbE) :
    (State.fillTlb s size t e).2.still = s.still := by
  unfold State.fillTlb
  grind [State.still_eq, State.draw_still]

theorem State.tableRead_still (s : State) (n : Nat) (pa : Nat) :
    (State.tableRead s n pa).2.still = s.still := by
  unfold State.tableRead
  grind [State.still_eq, State.record_still, State.access_still]

theorem State.walk2_still (s : State) (n : Nat) (b : Nat) (p : Nat) (ppn2 : Nat) (fill : Bool) :
    (State.walk2 s n b p ppn2 fill).2.still = s.still := by
  unfold State.walk2
  grind [State.still_eq, State.tableRead_still, State.fillTlb_still, State.modCore_still]

theorem State.oldOr_still (s : State) (n : Nat) (b : Nat) (idx : Nat) (t : List TlbE) :
    (State.oldOr s n b idx t).2.still = s.still := by
  unfold State.oldOr
  grind [State.still_eq, State.draw_still]

theorem State.walk1_still (s : State) (n : Nat) (b : Nat) (bl : Block) (p : Nat) (fill : Bool) :
    (State.walk1 s n b bl p fill).2.still = s.still := by
  unfold State.walk1
  grind [State.still_eq, State.tableRead_still, State.walk2_still, State.fillTlb_still, State.modCore_still]

theorem State.pageOf_still (s : State) (n : Nat) (b : Nat) (bl : Block) (p : Nat) :
    (State.pageOf s n b bl p).2.still = s.still := by
  unfold State.pageOf
  grind [State.still_eq, State.oldOr_still, State.walk2_still, State.walk1_still]

theorem State.physOf_still (s : State) (n : Nat) (b : Nat) (bl : Block) (a : Nat) :
    (State.physOf s n b bl a).2.still = s.still := by
  unfold State.physOf
  grind [State.still_eq, State.pageOf_still]

theorem State.physOld_still (s : State) (n : Nat) (b : Nat) (bl : Block) (a : Nat) :
    (State.physOld s n b bl a).2.still = s.still := by
  unfold State.physOld
  grind [State.still_eq, State.walk1_still]

theorem State.errorResponse_still (s : State) (n : Nat) (pa : Nat) :
    (State.errorResponse s n pa).still = s.still := State.record_still ..

theorem fetchLine_still (n : Nat) (b : Block) (r : Except Nat Nat × State) : (fetchLine n b r).2.still = r.2.still := by
  unfold fetchLine
  grind [State.still_eq, State.errorResponse_still, State.access_still]

theorem State.fetchUnder_still (s : State) (n : Nat) (c : Ctx) (old : Bool) (a : Nat) : (State.fetchUnder s n c old a).2.still = s.still := by
  unfold State.fetchUnder
  split
  · rfl
  split
  · rfl
  rw [fetchLine_still]
  split
  · exact State.physOld_still ..
  · exact State.physOf_still ..

theorem State.fetchByte_still (s : State) (n : Nat) (a : Nat) :
    (State.fetchByte s n a).2.still = s.still := by
  unfold State.fetchByte
  grind [State.still_eq, State.fetchUnder_still, State.draw_still]

theorem State.fetchBytes_still (s : State) (n : Nat) (x2 : Nat) (x3 : Nat) :
    (State.fetchBytes s n x2 x3).2.still = s.still := by
  fun_induction State.fetchBytes <;> grind [State.still_eq, State.fetchByte_still]

theorem State.fetch_still (s : State) (n : Nat) (len : Nat) :
    (State.fetch s n len).2.still = s.still := by
  unfold State.fetch
  grind [State.still_eq, State.fetchBytes_still]

end Sys2Proof.Machine
end

