-- ==== Sys2Proof/Laws/State.lean ====
section
/-!
SUPPORT. The reading laws of State: what each named update leaves, field by field, and what an entry reads after it is written.
-/

namespace Sys2Proof.Machine

open Sys2Proof

/-! ### Entries -/

@[simp] theorem State.setCtx_ctx (s : State) (n : Nat) (c : Ctx) (j : Nat) : (s.setCtx n c).ctx j = if j = n then c else s.ctx j :=
  tget_tset ..
@[simp] theorem State.setCore_core (s : State) (k : Nat) (c : Core) (j : Nat) : (s.setCore k c).core j = if j = k then c else s.core j :=
  tget_tset ..
@[simp] theorem State.setPred_pred (s : State) (k : Nat) (p : Pred) (j : Nat) : (s.setPred k p).pred j = if j = k then p else s.pred j :=
  tget_tset ..
@[simp] theorem State.setChan_chan (s : State) (c : Nat) (x : Chan) (j : Nat) : (s.setChan c x).chan j = if j = c then x else s.chan j :=
  tget_tset ..
@[simp] theorem State.setFn_fn (s : State) (t : Nat) (x : Fn) (j : Nat) : (s.setFn t x).fn j = if j = t then x else s.fn j :=
  tget_tset ..
@[simp] theorem State.setPort_port (s : State) (p : Nat) (x : Port) (j : Nat) : (s.setPort p x).port j = if j = p then x else s.port j :=
  tget_tset ..
@[simp] theorem State.setRings_rings (s : State) (t : Nat) (r : Rings) (j : Nat) : (s.setRings t r).rings j = if j = t then r else s.rings j :=
  tget_tset ..
@[simp] theorem State.setProf_prof (s : State) (p : Nat) (x : Profile) (j : Nat) : (s.setProf p x).prof j = if j = p then x else s.prof j :=
  tget_tset ..
@[simp] theorem State.setPool_pool (s : State) (q : Nat) (x : Pool) (j : Nat) : (s.setPool q x).pool j = if j = q then x else s.pool j :=
  tget_tset ..
@[simp] theorem State.setKey_keyRec (s : State) (t : Nat) (k : KeyRec) (j : Nat) : (s.setKey t k).keyRec j = if j = t then k else s.keyRec j :=
  tget_tset ..
@[simp] theorem State.setDead_dead (s : State) (t : Nat) (b : Bool) (j : Nat) : (s.setDead t b).dead j = if j = t then b else s.dead j :=
  tget_tset ..
@[simp] theorem State.modCtx_ctx (s : State) (n : Nat) (f : Ctx → Ctx) (j : Nat) :
    (s.modCtx n f).ctx j = if j = n then f (s.ctx n) else s.ctx j :=
  tget_tset ..
@[simp] theorem State.modCore_core (s : State) (n : Nat) (f : Core → Core) (j : Nat) :
    (s.modCore n f).core j = if j = n then f (s.core n) else s.core j :=
  tget_tset ..
@[simp] theorem State.modChan_chan (s : State) (n : Nat) (f : Chan → Chan) (j : Nat) :
    (s.modChan n f).chan j = if j = n then f (s.chan n) else s.chan j :=
  tget_tset ..
@[simp] theorem State.modFn_fn (s : State) (n : Nat) (f : Fn → Fn) (j : Nat) :
    (s.modFn n f).fn j = if j = n then f (s.fn n) else s.fn j :=
  tget_tset ..
@[simp] theorem State.modPort_port (s : State) (n : Nat) (f : Port → Port) (j : Nat) :
    (s.modPort n f).port j = if j = n then f (s.port n) else s.port j :=
  tget_tset ..
@[simp] theorem State.modRings_rings (s : State) (n : Nat) (f : Rings → Rings) (j : Nat) :
    (s.modRings n f).rings j = if j = n then f (s.rings n) else s.rings j :=
  tget_tset ..
@[simp] theorem Ctx.gset_gget (c : Ctx) (r q : GReg) (v : Word) : (c.gset r v).gget q = if q = r then v else c.gget q := by
  simp only [Ctx.gget, Ctx.gset, tget_tset, BitVec.toNat_inj]
@[simp] theorem Ctx.kset_kget (c : Ctx) (r q : KReg) (v : Cap) : (c.kset r v).kget q = if q = r then v else c.kget q := by
  simp only [Ctx.kget, Ctx.kset, tget_tset, BitVec.toNat_inj]

/-! ### Fields of State -/

@[simp] theorem State.setCtx_pending (s : State) (n : Nat) (c : Ctx) : (s.setCtx n c).pending = s.pending := rfl
@[simp] theorem State.setCtx_hw (s : State) (n : Nat) (c : Ctx) : (s.setCtx n c).hw = s.hw := rfl
@[simp] theorem State.setCtx_lk (s : State) (n : Nat) (c : Ctx) : (s.setCtx n c).lk = s.lk := rfl
@[simp] theorem State.setCtx_glb (s : State) (n : Nat) (c : Ctx) : (s.setCtx n c).glb = s.glb := rfl
@[simp] theorem State.setCtx_tbu (s : State) (n : Nat) (c : Ctx) : (s.setCtx n c).tbu = s.tbu := rfl
@[simp] theorem State.setCtx_cores (s : State) (n : Nat) (c : Ctx) : (s.setCtx n c).cores = s.cores := rfl
@[simp] theorem State.setCtx_mem (s : State) (n : Nat) (c : Ctx) : (s.setCtx n c).mem = s.mem := rfl
@[simp] theorem State.setCtx_icu (s : State) (n : Nat) (c : Ctx) : (s.setCtx n c).icu = s.icu := rfl
@[simp] theorem State.setCtx_rng (s : State) (n : Nat) (c : Ctx) : (s.setCtx n c).rng = s.rng := rfl
@[simp] theorem State.setCtx_eau (s : State) (n : Nat) (c : Ctx) : (s.setCtx n c).eau = s.eau := rfl
@[simp] theorem State.setCtx_ddu (s : State) (n : Nat) (c : Ctx) : (s.setCtx n c).ddu = s.ddu := rfl
@[simp] theorem State.setCtx_dol (s : State) (n : Nat) (c : Ctx) : (s.setCtx n c).dol = s.dol := rfl
@[simp] theorem State.setCtx_fns (s : State) (n : Nat) (c : Ctx) : (s.setCtx n c).fns = s.fns := rfl
@[simp] theorem State.setCtx_ports (s : State) (n : Nat) (c : Ctx) : (s.setCtx n c).ports = s.ports := rfl
@[simp] theorem State.setCtx_dmc (s : State) (n : Nat) (c : Ctx) : (s.setCtx n c).dmc = s.dmc := rfl
@[simp] theorem State.setCtx_pmu (s : State) (n : Nat) (c : Ctx) : (s.setCtx n c).pmu = s.pmu := rfl
@[simp] theorem State.setCtx_bsu (s : State) (n : Nat) (c : Ctx) : (s.setCtx n c).bsu = s.bsu := rfl
@[simp] theorem State.setCtx_ras (s : State) (n : Nat) (c : Ctx) : (s.setCtx n c).ras = s.ras := rfl
@[simp] theorem State.setCtx_free (s : State) (n : Nat) (c : Ctx) : (s.setCtx n c).free = s.free := rfl
@[simp] theorem State.setCtx_preds (s : State) (n : Nat) (c : Ctx) : (s.setCtx n c).preds = s.preds := rfl
@[simp] theorem State.setCtx_serial (s : State) (n : Nat) (c : Ctx) : (s.setCtx n c).serial = s.serial := rfl
@[simp] theorem State.setCtx_outbox (s : State) (n : Nat) (c : Ctx) : (s.setCtx n c).outbox = s.outbox := rfl

@[simp] theorem State.modCtx_pending (s : State) (n : Nat) (f : Ctx → Ctx) : (s.modCtx n f).pending = s.pending := rfl
@[simp] theorem State.modCtx_hw (s : State) (n : Nat) (f : Ctx → Ctx) : (s.modCtx n f).hw = s.hw := rfl
@[simp] theorem State.modCtx_lk (s : State) (n : Nat) (f : Ctx → Ctx) : (s.modCtx n f).lk = s.lk := rfl
@[simp] theorem State.modCtx_glb (s : State) (n : Nat) (f : Ctx → Ctx) : (s.modCtx n f).glb = s.glb := rfl
@[simp] theorem State.modCtx_tbu (s : State) (n : Nat) (f : Ctx → Ctx) : (s.modCtx n f).tbu = s.tbu := rfl
@[simp] theorem State.modCtx_cores (s : State) (n : Nat) (f : Ctx → Ctx) : (s.modCtx n f).cores = s.cores := rfl
@[simp] theorem State.modCtx_mem (s : State) (n : Nat) (f : Ctx → Ctx) : (s.modCtx n f).mem = s.mem := rfl
@[simp] theorem State.modCtx_icu (s : State) (n : Nat) (f : Ctx → Ctx) : (s.modCtx n f).icu = s.icu := rfl
@[simp] theorem State.modCtx_rng (s : State) (n : Nat) (f : Ctx → Ctx) : (s.modCtx n f).rng = s.rng := rfl
@[simp] theorem State.modCtx_eau (s : State) (n : Nat) (f : Ctx → Ctx) : (s.modCtx n f).eau = s.eau := rfl
@[simp] theorem State.modCtx_ddu (s : State) (n : Nat) (f : Ctx → Ctx) : (s.modCtx n f).ddu = s.ddu := rfl
@[simp] theorem State.modCtx_dol (s : State) (n : Nat) (f : Ctx → Ctx) : (s.modCtx n f).dol = s.dol := rfl
@[simp] theorem State.modCtx_fns (s : State) (n : Nat) (f : Ctx → Ctx) : (s.modCtx n f).fns = s.fns := rfl
@[simp] theorem State.modCtx_ports (s : State) (n : Nat) (f : Ctx → Ctx) : (s.modCtx n f).ports = s.ports := rfl
@[simp] theorem State.modCtx_dmc (s : State) (n : Nat) (f : Ctx → Ctx) : (s.modCtx n f).dmc = s.dmc := rfl
@[simp] theorem State.modCtx_pmu (s : State) (n : Nat) (f : Ctx → Ctx) : (s.modCtx n f).pmu = s.pmu := rfl
@[simp] theorem State.modCtx_bsu (s : State) (n : Nat) (f : Ctx → Ctx) : (s.modCtx n f).bsu = s.bsu := rfl
@[simp] theorem State.modCtx_ras (s : State) (n : Nat) (f : Ctx → Ctx) : (s.modCtx n f).ras = s.ras := rfl
@[simp] theorem State.modCtx_free (s : State) (n : Nat) (f : Ctx → Ctx) : (s.modCtx n f).free = s.free := rfl
@[simp] theorem State.modCtx_preds (s : State) (n : Nat) (f : Ctx → Ctx) : (s.modCtx n f).preds = s.preds := rfl
@[simp] theorem State.modCtx_serial (s : State) (n : Nat) (f : Ctx → Ctx) : (s.modCtx n f).serial = s.serial := rfl
@[simp] theorem State.modCtx_outbox (s : State) (n : Nat) (f : Ctx → Ctx) : (s.modCtx n f).outbox = s.outbox := rfl

@[simp] theorem State.setCore_pending (s : State) (k : Nat) (c : Core) : (s.setCore k c).pending = s.pending := rfl
@[simp] theorem State.setCore_hw (s : State) (k : Nat) (c : Core) : (s.setCore k c).hw = s.hw := rfl
@[simp] theorem State.setCore_lk (s : State) (k : Nat) (c : Core) : (s.setCore k c).lk = s.lk := rfl
@[simp] theorem State.setCore_glb (s : State) (k : Nat) (c : Core) : (s.setCore k c).glb = s.glb := rfl
@[simp] theorem State.setCore_tbu (s : State) (k : Nat) (c : Core) : (s.setCore k c).tbu = s.tbu := rfl
@[simp] theorem State.setCore_ctxs (s : State) (k : Nat) (c : Core) : (s.setCore k c).ctxs = s.ctxs := rfl
@[simp] theorem State.setCore_mem (s : State) (k : Nat) (c : Core) : (s.setCore k c).mem = s.mem := rfl
@[simp] theorem State.setCore_icu (s : State) (k : Nat) (c : Core) : (s.setCore k c).icu = s.icu := rfl
@[simp] theorem State.setCore_rng (s : State) (k : Nat) (c : Core) : (s.setCore k c).rng = s.rng := rfl
@[simp] theorem State.setCore_eau (s : State) (k : Nat) (c : Core) : (s.setCore k c).eau = s.eau := rfl
@[simp] theorem State.setCore_ddu (s : State) (k : Nat) (c : Core) : (s.setCore k c).ddu = s.ddu := rfl
@[simp] theorem State.setCore_dol (s : State) (k : Nat) (c : Core) : (s.setCore k c).dol = s.dol := rfl
@[simp] theorem State.setCore_fns (s : State) (k : Nat) (c : Core) : (s.setCore k c).fns = s.fns := rfl
@[simp] theorem State.setCore_ports (s : State) (k : Nat) (c : Core) : (s.setCore k c).ports = s.ports := rfl
@[simp] theorem State.setCore_dmc (s : State) (k : Nat) (c : Core) : (s.setCore k c).dmc = s.dmc := rfl
@[simp] theorem State.setCore_pmu (s : State) (k : Nat) (c : Core) : (s.setCore k c).pmu = s.pmu := rfl
@[simp] theorem State.setCore_bsu (s : State) (k : Nat) (c : Core) : (s.setCore k c).bsu = s.bsu := rfl
@[simp] theorem State.setCore_ras (s : State) (k : Nat) (c : Core) : (s.setCore k c).ras = s.ras := rfl
@[simp] theorem State.setCore_free (s : State) (k : Nat) (c : Core) : (s.setCore k c).free = s.free := rfl
@[simp] theorem State.setCore_preds (s : State) (k : Nat) (c : Core) : (s.setCore k c).preds = s.preds := rfl
@[simp] theorem State.setCore_serial (s : State) (k : Nat) (c : Core) : (s.setCore k c).serial = s.serial := rfl
@[simp] theorem State.setCore_outbox (s : State) (k : Nat) (c : Core) : (s.setCore k c).outbox = s.outbox := rfl

@[simp] theorem State.modCore_pending (s : State) (k : Nat) (f : Core → Core) : (s.modCore k f).pending = s.pending := rfl
@[simp] theorem State.modCore_hw (s : State) (k : Nat) (f : Core → Core) : (s.modCore k f).hw = s.hw := rfl
@[simp] theorem State.modCore_lk (s : State) (k : Nat) (f : Core → Core) : (s.modCore k f).lk = s.lk := rfl
@[simp] theorem State.modCore_glb (s : State) (k : Nat) (f : Core → Core) : (s.modCore k f).glb = s.glb := rfl
@[simp] theorem State.modCore_tbu (s : State) (k : Nat) (f : Core → Core) : (s.modCore k f).tbu = s.tbu := rfl
@[simp] theorem State.modCore_ctxs (s : State) (k : Nat) (f : Core → Core) : (s.modCore k f).ctxs = s.ctxs := rfl
@[simp] theorem State.modCore_mem (s : State) (k : Nat) (f : Core → Core) : (s.modCore k f).mem = s.mem := rfl
@[simp] theorem State.modCore_icu (s : State) (k : Nat) (f : Core → Core) : (s.modCore k f).icu = s.icu := rfl
@[simp] theorem State.modCore_rng (s : State) (k : Nat) (f : Core → Core) : (s.modCore k f).rng = s.rng := rfl
@[simp] theorem State.modCore_eau (s : State) (k : Nat) (f : Core → Core) : (s.modCore k f).eau = s.eau := rfl
@[simp] theorem State.modCore_ddu (s : State) (k : Nat) (f : Core → Core) : (s.modCore k f).ddu = s.ddu := rfl
@[simp] theorem State.modCore_dol (s : State) (k : Nat) (f : Core → Core) : (s.modCore k f).dol = s.dol := rfl
@[simp] theorem State.modCore_fns (s : State) (k : Nat) (f : Core → Core) : (s.modCore k f).fns = s.fns := rfl
@[simp] theorem State.modCore_ports (s : State) (k : Nat) (f : Core → Core) : (s.modCore k f).ports = s.ports := rfl
@[simp] theorem State.modCore_dmc (s : State) (k : Nat) (f : Core → Core) : (s.modCore k f).dmc = s.dmc := rfl
@[simp] theorem State.modCore_pmu (s : State) (k : Nat) (f : Core → Core) : (s.modCore k f).pmu = s.pmu := rfl
@[simp] theorem State.modCore_bsu (s : State) (k : Nat) (f : Core → Core) : (s.modCore k f).bsu = s.bsu := rfl
@[simp] theorem State.modCore_ras (s : State) (k : Nat) (f : Core → Core) : (s.modCore k f).ras = s.ras := rfl
@[simp] theorem State.modCore_free (s : State) (k : Nat) (f : Core → Core) : (s.modCore k f).free = s.free := rfl
@[simp] theorem State.modCore_preds (s : State) (k : Nat) (f : Core → Core) : (s.modCore k f).preds = s.preds := rfl
@[simp] theorem State.modCore_serial (s : State) (k : Nat) (f : Core → Core) : (s.modCore k f).serial = s.serial := rfl
@[simp] theorem State.modCore_outbox (s : State) (k : Nat) (f : Core → Core) : (s.modCore k f).outbox = s.outbox := rfl

@[simp] theorem State.setPred_pending (s : State) (k : Nat) (p : Pred) : (s.setPred k p).pending = s.pending := rfl
@[simp] theorem State.setPred_hw (s : State) (k : Nat) (p : Pred) : (s.setPred k p).hw = s.hw := rfl
@[simp] theorem State.setPred_lk (s : State) (k : Nat) (p : Pred) : (s.setPred k p).lk = s.lk := rfl
@[simp] theorem State.setPred_glb (s : State) (k : Nat) (p : Pred) : (s.setPred k p).glb = s.glb := rfl
@[simp] theorem State.setPred_tbu (s : State) (k : Nat) (p : Pred) : (s.setPred k p).tbu = s.tbu := rfl
@[simp] theorem State.setPred_ctxs (s : State) (k : Nat) (p : Pred) : (s.setPred k p).ctxs = s.ctxs := rfl
@[simp] theorem State.setPred_cores (s : State) (k : Nat) (p : Pred) : (s.setPred k p).cores = s.cores := rfl
@[simp] theorem State.setPred_mem (s : State) (k : Nat) (p : Pred) : (s.setPred k p).mem = s.mem := rfl
@[simp] theorem State.setPred_icu (s : State) (k : Nat) (p : Pred) : (s.setPred k p).icu = s.icu := rfl
@[simp] theorem State.setPred_rng (s : State) (k : Nat) (p : Pred) : (s.setPred k p).rng = s.rng := rfl
@[simp] theorem State.setPred_eau (s : State) (k : Nat) (p : Pred) : (s.setPred k p).eau = s.eau := rfl
@[simp] theorem State.setPred_ddu (s : State) (k : Nat) (p : Pred) : (s.setPred k p).ddu = s.ddu := rfl
@[simp] theorem State.setPred_dol (s : State) (k : Nat) (p : Pred) : (s.setPred k p).dol = s.dol := rfl
@[simp] theorem State.setPred_fns (s : State) (k : Nat) (p : Pred) : (s.setPred k p).fns = s.fns := rfl
@[simp] theorem State.setPred_ports (s : State) (k : Nat) (p : Pred) : (s.setPred k p).ports = s.ports := rfl
@[simp] theorem State.setPred_dmc (s : State) (k : Nat) (p : Pred) : (s.setPred k p).dmc = s.dmc := rfl
@[simp] theorem State.setPred_pmu (s : State) (k : Nat) (p : Pred) : (s.setPred k p).pmu = s.pmu := rfl
@[simp] theorem State.setPred_bsu (s : State) (k : Nat) (p : Pred) : (s.setPred k p).bsu = s.bsu := rfl
@[simp] theorem State.setPred_ras (s : State) (k : Nat) (p : Pred) : (s.setPred k p).ras = s.ras := rfl
@[simp] theorem State.setPred_free (s : State) (k : Nat) (p : Pred) : (s.setPred k p).free = s.free := rfl
@[simp] theorem State.setPred_serial (s : State) (k : Nat) (p : Pred) : (s.setPred k p).serial = s.serial := rfl
@[simp] theorem State.setPred_outbox (s : State) (k : Nat) (p : Pred) : (s.setPred k p).outbox = s.outbox := rfl

@[simp] theorem State.wrongPath_pending (s : State) (n : Nat) : (s.wrongPath n).pending = s.pending := rfl
@[simp] theorem State.wrongPath_hw (s : State) (n : Nat) : (s.wrongPath n).hw = s.hw := rfl
@[simp] theorem State.wrongPath_lk (s : State) (n : Nat) : (s.wrongPath n).lk = s.lk := rfl
@[simp] theorem State.wrongPath_glb (s : State) (n : Nat) : (s.wrongPath n).glb = s.glb := rfl
@[simp] theorem State.wrongPath_tbu (s : State) (n : Nat) : (s.wrongPath n).tbu = s.tbu := rfl
@[simp] theorem State.wrongPath_ctxs (s : State) (n : Nat) : (s.wrongPath n).ctxs = s.ctxs := rfl
@[simp] theorem State.wrongPath_cores (s : State) (n : Nat) : (s.wrongPath n).cores = s.cores := rfl
@[simp] theorem State.wrongPath_mem (s : State) (n : Nat) : (s.wrongPath n).mem = s.mem := rfl
@[simp] theorem State.wrongPath_icu (s : State) (n : Nat) : (s.wrongPath n).icu = s.icu := rfl
@[simp] theorem State.wrongPath_rng (s : State) (n : Nat) : (s.wrongPath n).rng = s.rng := rfl
@[simp] theorem State.wrongPath_eau (s : State) (n : Nat) : (s.wrongPath n).eau = s.eau := rfl
@[simp] theorem State.wrongPath_ddu (s : State) (n : Nat) : (s.wrongPath n).ddu = s.ddu := rfl
@[simp] theorem State.wrongPath_dol (s : State) (n : Nat) : (s.wrongPath n).dol = s.dol := rfl
@[simp] theorem State.wrongPath_fns (s : State) (n : Nat) : (s.wrongPath n).fns = s.fns := rfl
@[simp] theorem State.wrongPath_ports (s : State) (n : Nat) : (s.wrongPath n).ports = s.ports := rfl
@[simp] theorem State.wrongPath_dmc (s : State) (n : Nat) : (s.wrongPath n).dmc = s.dmc := rfl
@[simp] theorem State.wrongPath_pmu (s : State) (n : Nat) : (s.wrongPath n).pmu = s.pmu := rfl
@[simp] theorem State.wrongPath_bsu (s : State) (n : Nat) : (s.wrongPath n).bsu = s.bsu := rfl
@[simp] theorem State.wrongPath_ras (s : State) (n : Nat) : (s.wrongPath n).ras = s.ras := rfl
@[simp] theorem State.wrongPath_serial (s : State) (n : Nat) : (s.wrongPath n).serial = s.serial := rfl
@[simp] theorem State.wrongPath_outbox (s : State) (n : Nat) : (s.wrongPath n).outbox = s.outbox := rfl

@[simp] theorem State.setChan_pending (s : State) (c : Nat) (x : Chan) : (s.setChan c x).pending = s.pending := rfl
@[simp] theorem State.setChan_hw (s : State) (c : Nat) (x : Chan) : (s.setChan c x).hw = s.hw := rfl
@[simp] theorem State.setChan_lk (s : State) (c : Nat) (x : Chan) : (s.setChan c x).lk = s.lk := rfl
@[simp] theorem State.setChan_glb (s : State) (c : Nat) (x : Chan) : (s.setChan c x).glb = s.glb := rfl
@[simp] theorem State.setChan_tbu (s : State) (c : Nat) (x : Chan) : (s.setChan c x).tbu = s.tbu := rfl
@[simp] theorem State.setChan_ctxs (s : State) (c : Nat) (x : Chan) : (s.setChan c x).ctxs = s.ctxs := rfl
@[simp] theorem State.setChan_cores (s : State) (c : Nat) (x : Chan) : (s.setChan c x).cores = s.cores := rfl
@[simp] theorem State.setChan_mem (s : State) (c : Nat) (x : Chan) : (s.setChan c x).mem = s.mem := rfl
@[simp] theorem State.setChan_icu (s : State) (c : Nat) (x : Chan) : (s.setChan c x).icu = s.icu := rfl
@[simp] theorem State.setChan_rng (s : State) (c : Nat) (x : Chan) : (s.setChan c x).rng = s.rng := rfl
@[simp] theorem State.setChan_eau (s : State) (c : Nat) (x : Chan) : (s.setChan c x).eau = s.eau := rfl
@[simp] theorem State.setChan_ddu (s : State) (c : Nat) (x : Chan) : (s.setChan c x).ddu = s.ddu := rfl
@[simp] theorem State.setChan_dol (s : State) (c : Nat) (x : Chan) : (s.setChan c x).dol = s.dol := rfl
@[simp] theorem State.setChan_fns (s : State) (c : Nat) (x : Chan) : (s.setChan c x).fns = s.fns := rfl
@[simp] theorem State.setChan_ports (s : State) (c : Nat) (x : Chan) : (s.setChan c x).ports = s.ports := rfl
@[simp] theorem State.setChan_pmu (s : State) (c : Nat) (x : Chan) : (s.setChan c x).pmu = s.pmu := rfl
@[simp] theorem State.setChan_bsu (s : State) (c : Nat) (x : Chan) : (s.setChan c x).bsu = s.bsu := rfl
@[simp] theorem State.setChan_ras (s : State) (c : Nat) (x : Chan) : (s.setChan c x).ras = s.ras := rfl
@[simp] theorem State.setChan_free (s : State) (c : Nat) (x : Chan) : (s.setChan c x).free = s.free := rfl
@[simp] theorem State.setChan_preds (s : State) (c : Nat) (x : Chan) : (s.setChan c x).preds = s.preds := rfl
@[simp] theorem State.setChan_serial (s : State) (c : Nat) (x : Chan) : (s.setChan c x).serial = s.serial := rfl
@[simp] theorem State.setChan_outbox (s : State) (c : Nat) (x : Chan) : (s.setChan c x).outbox = s.outbox := rfl

@[simp] theorem State.modChan_pending (s : State) (c : Nat) (f : Chan → Chan) : (s.modChan c f).pending = s.pending := rfl
@[simp] theorem State.modChan_hw (s : State) (c : Nat) (f : Chan → Chan) : (s.modChan c f).hw = s.hw := rfl
@[simp] theorem State.modChan_lk (s : State) (c : Nat) (f : Chan → Chan) : (s.modChan c f).lk = s.lk := rfl
@[simp] theorem State.modChan_glb (s : State) (c : Nat) (f : Chan → Chan) : (s.modChan c f).glb = s.glb := rfl
@[simp] theorem State.modChan_tbu (s : State) (c : Nat) (f : Chan → Chan) : (s.modChan c f).tbu = s.tbu := rfl
@[simp] theorem State.modChan_ctxs (s : State) (c : Nat) (f : Chan → Chan) : (s.modChan c f).ctxs = s.ctxs := rfl
@[simp] theorem State.modChan_cores (s : State) (c : Nat) (f : Chan → Chan) : (s.modChan c f).cores = s.cores := rfl
@[simp] theorem State.modChan_mem (s : State) (c : Nat) (f : Chan → Chan) : (s.modChan c f).mem = s.mem := rfl
@[simp] theorem State.modChan_icu (s : State) (c : Nat) (f : Chan → Chan) : (s.modChan c f).icu = s.icu := rfl
@[simp] theorem State.modChan_rng (s : State) (c : Nat) (f : Chan → Chan) : (s.modChan c f).rng = s.rng := rfl
@[simp] theorem State.modChan_eau (s : State) (c : Nat) (f : Chan → Chan) : (s.modChan c f).eau = s.eau := rfl
@[simp] theorem State.modChan_ddu (s : State) (c : Nat) (f : Chan → Chan) : (s.modChan c f).ddu = s.ddu := rfl
@[simp] theorem State.modChan_dol (s : State) (c : Nat) (f : Chan → Chan) : (s.modChan c f).dol = s.dol := rfl
@[simp] theorem State.modChan_fns (s : State) (c : Nat) (f : Chan → Chan) : (s.modChan c f).fns = s.fns := rfl
@[simp] theorem State.modChan_ports (s : State) (c : Nat) (f : Chan → Chan) : (s.modChan c f).ports = s.ports := rfl
@[simp] theorem State.modChan_pmu (s : State) (c : Nat) (f : Chan → Chan) : (s.modChan c f).pmu = s.pmu := rfl
@[simp] theorem State.modChan_bsu (s : State) (c : Nat) (f : Chan → Chan) : (s.modChan c f).bsu = s.bsu := rfl
@[simp] theorem State.modChan_ras (s : State) (c : Nat) (f : Chan → Chan) : (s.modChan c f).ras = s.ras := rfl
@[simp] theorem State.modChan_free (s : State) (c : Nat) (f : Chan → Chan) : (s.modChan c f).free = s.free := rfl
@[simp] theorem State.modChan_preds (s : State) (c : Nat) (f : Chan → Chan) : (s.modChan c f).preds = s.preds := rfl
@[simp] theorem State.modChan_serial (s : State) (c : Nat) (f : Chan → Chan) : (s.modChan c f).serial = s.serial := rfl
@[simp] theorem State.modChan_outbox (s : State) (c : Nat) (f : Chan → Chan) : (s.modChan c f).outbox = s.outbox := rfl

@[simp] theorem State.setFn_pending (s : State) (t : Nat) (x : Fn) : (s.setFn t x).pending = s.pending := rfl
@[simp] theorem State.setFn_hw (s : State) (t : Nat) (x : Fn) : (s.setFn t x).hw = s.hw := rfl
@[simp] theorem State.setFn_lk (s : State) (t : Nat) (x : Fn) : (s.setFn t x).lk = s.lk := rfl
@[simp] theorem State.setFn_glb (s : State) (t : Nat) (x : Fn) : (s.setFn t x).glb = s.glb := rfl
@[simp] theorem State.setFn_tbu (s : State) (t : Nat) (x : Fn) : (s.setFn t x).tbu = s.tbu := rfl
@[simp] theorem State.setFn_ctxs (s : State) (t : Nat) (x : Fn) : (s.setFn t x).ctxs = s.ctxs := rfl
@[simp] theorem State.setFn_cores (s : State) (t : Nat) (x : Fn) : (s.setFn t x).cores = s.cores := rfl
@[simp] theorem State.setFn_mem (s : State) (t : Nat) (x : Fn) : (s.setFn t x).mem = s.mem := rfl
@[simp] theorem State.setFn_icu (s : State) (t : Nat) (x : Fn) : (s.setFn t x).icu = s.icu := rfl
@[simp] theorem State.setFn_rng (s : State) (t : Nat) (x : Fn) : (s.setFn t x).rng = s.rng := rfl
@[simp] theorem State.setFn_eau (s : State) (t : Nat) (x : Fn) : (s.setFn t x).eau = s.eau := rfl
@[simp] theorem State.setFn_ddu (s : State) (t : Nat) (x : Fn) : (s.setFn t x).ddu = s.ddu := rfl
@[simp] theorem State.setFn_dol (s : State) (t : Nat) (x : Fn) : (s.setFn t x).dol = s.dol := rfl
@[simp] theorem State.setFn_ports (s : State) (t : Nat) (x : Fn) : (s.setFn t x).ports = s.ports := rfl
@[simp] theorem State.setFn_dmc (s : State) (t : Nat) (x : Fn) : (s.setFn t x).dmc = s.dmc := rfl
@[simp] theorem State.setFn_pmu (s : State) (t : Nat) (x : Fn) : (s.setFn t x).pmu = s.pmu := rfl
@[simp] theorem State.setFn_bsu (s : State) (t : Nat) (x : Fn) : (s.setFn t x).bsu = s.bsu := rfl
@[simp] theorem State.setFn_ras (s : State) (t : Nat) (x : Fn) : (s.setFn t x).ras = s.ras := rfl
@[simp] theorem State.setFn_free (s : State) (t : Nat) (x : Fn) : (s.setFn t x).free = s.free := rfl
@[simp] theorem State.setFn_preds (s : State) (t : Nat) (x : Fn) : (s.setFn t x).preds = s.preds := rfl
@[simp] theorem State.setFn_serial (s : State) (t : Nat) (x : Fn) : (s.setFn t x).serial = s.serial := rfl
@[simp] theorem State.setFn_outbox (s : State) (t : Nat) (x : Fn) : (s.setFn t x).outbox = s.outbox := rfl

@[simp] theorem State.modFn_pending (s : State) (t : Nat) (f : Fn → Fn) : (s.modFn t f).pending = s.pending := rfl
@[simp] theorem State.modFn_hw (s : State) (t : Nat) (f : Fn → Fn) : (s.modFn t f).hw = s.hw := rfl
@[simp] theorem State.modFn_lk (s : State) (t : Nat) (f : Fn → Fn) : (s.modFn t f).lk = s.lk := rfl
@[simp] theorem State.modFn_glb (s : State) (t : Nat) (f : Fn → Fn) : (s.modFn t f).glb = s.glb := rfl
@[simp] theorem State.modFn_tbu (s : State) (t : Nat) (f : Fn → Fn) : (s.modFn t f).tbu = s.tbu := rfl
@[simp] theorem State.modFn_ctxs (s : State) (t : Nat) (f : Fn → Fn) : (s.modFn t f).ctxs = s.ctxs := rfl
@[simp] theorem State.modFn_cores (s : State) (t : Nat) (f : Fn → Fn) : (s.modFn t f).cores = s.cores := rfl
@[simp] theorem State.modFn_mem (s : State) (t : Nat) (f : Fn → Fn) : (s.modFn t f).mem = s.mem := rfl
@[simp] theorem State.modFn_icu (s : State) (t : Nat) (f : Fn → Fn) : (s.modFn t f).icu = s.icu := rfl
@[simp] theorem State.modFn_rng (s : State) (t : Nat) (f : Fn → Fn) : (s.modFn t f).rng = s.rng := rfl
@[simp] theorem State.modFn_eau (s : State) (t : Nat) (f : Fn → Fn) : (s.modFn t f).eau = s.eau := rfl
@[simp] theorem State.modFn_ddu (s : State) (t : Nat) (f : Fn → Fn) : (s.modFn t f).ddu = s.ddu := rfl
@[simp] theorem State.modFn_dol (s : State) (t : Nat) (f : Fn → Fn) : (s.modFn t f).dol = s.dol := rfl
@[simp] theorem State.modFn_ports (s : State) (t : Nat) (f : Fn → Fn) : (s.modFn t f).ports = s.ports := rfl
@[simp] theorem State.modFn_dmc (s : State) (t : Nat) (f : Fn → Fn) : (s.modFn t f).dmc = s.dmc := rfl
@[simp] theorem State.modFn_pmu (s : State) (t : Nat) (f : Fn → Fn) : (s.modFn t f).pmu = s.pmu := rfl
@[simp] theorem State.modFn_bsu (s : State) (t : Nat) (f : Fn → Fn) : (s.modFn t f).bsu = s.bsu := rfl
@[simp] theorem State.modFn_ras (s : State) (t : Nat) (f : Fn → Fn) : (s.modFn t f).ras = s.ras := rfl
@[simp] theorem State.modFn_free (s : State) (t : Nat) (f : Fn → Fn) : (s.modFn t f).free = s.free := rfl
@[simp] theorem State.modFn_preds (s : State) (t : Nat) (f : Fn → Fn) : (s.modFn t f).preds = s.preds := rfl
@[simp] theorem State.modFn_serial (s : State) (t : Nat) (f : Fn → Fn) : (s.modFn t f).serial = s.serial := rfl
@[simp] theorem State.modFn_outbox (s : State) (t : Nat) (f : Fn → Fn) : (s.modFn t f).outbox = s.outbox := rfl

@[simp] theorem State.setPort_pending (s : State) (p : Nat) (x : Port) : (s.setPort p x).pending = s.pending := rfl
@[simp] theorem State.setPort_hw (s : State) (p : Nat) (x : Port) : (s.setPort p x).hw = s.hw := rfl
@[simp] theorem State.setPort_lk (s : State) (p : Nat) (x : Port) : (s.setPort p x).lk = s.lk := rfl
@[simp] theorem State.setPort_glb (s : State) (p : Nat) (x : Port) : (s.setPort p x).glb = s.glb := rfl
@[simp] theorem State.setPort_tbu (s : State) (p : Nat) (x : Port) : (s.setPort p x).tbu = s.tbu := rfl
@[simp] theorem State.setPort_ctxs (s : State) (p : Nat) (x : Port) : (s.setPort p x).ctxs = s.ctxs := rfl
@[simp] theorem State.setPort_cores (s : State) (p : Nat) (x : Port) : (s.setPort p x).cores = s.cores := rfl
@[simp] theorem State.setPort_mem (s : State) (p : Nat) (x : Port) : (s.setPort p x).mem = s.mem := rfl
@[simp] theorem State.setPort_icu (s : State) (p : Nat) (x : Port) : (s.setPort p x).icu = s.icu := rfl
@[simp] theorem State.setPort_rng (s : State) (p : Nat) (x : Port) : (s.setPort p x).rng = s.rng := rfl
@[simp] theorem State.setPort_eau (s : State) (p : Nat) (x : Port) : (s.setPort p x).eau = s.eau := rfl
@[simp] theorem State.setPort_ddu (s : State) (p : Nat) (x : Port) : (s.setPort p x).ddu = s.ddu := rfl
@[simp] theorem State.setPort_dol (s : State) (p : Nat) (x : Port) : (s.setPort p x).dol = s.dol := rfl
@[simp] theorem State.setPort_fns (s : State) (p : Nat) (x : Port) : (s.setPort p x).fns = s.fns := rfl
@[simp] theorem State.setPort_dmc (s : State) (p : Nat) (x : Port) : (s.setPort p x).dmc = s.dmc := rfl
@[simp] theorem State.setPort_pmu (s : State) (p : Nat) (x : Port) : (s.setPort p x).pmu = s.pmu := rfl
@[simp] theorem State.setPort_bsu (s : State) (p : Nat) (x : Port) : (s.setPort p x).bsu = s.bsu := rfl
@[simp] theorem State.setPort_ras (s : State) (p : Nat) (x : Port) : (s.setPort p x).ras = s.ras := rfl
@[simp] theorem State.setPort_free (s : State) (p : Nat) (x : Port) : (s.setPort p x).free = s.free := rfl
@[simp] theorem State.setPort_preds (s : State) (p : Nat) (x : Port) : (s.setPort p x).preds = s.preds := rfl
@[simp] theorem State.setPort_serial (s : State) (p : Nat) (x : Port) : (s.setPort p x).serial = s.serial := rfl
@[simp] theorem State.setPort_outbox (s : State) (p : Nat) (x : Port) : (s.setPort p x).outbox = s.outbox := rfl

@[simp] theorem State.modPort_pending (s : State) (p : Nat) (f : Port → Port) : (s.modPort p f).pending = s.pending := rfl
@[simp] theorem State.modPort_hw (s : State) (p : Nat) (f : Port → Port) : (s.modPort p f).hw = s.hw := rfl
@[simp] theorem State.modPort_lk (s : State) (p : Nat) (f : Port → Port) : (s.modPort p f).lk = s.lk := rfl
@[simp] theorem State.modPort_glb (s : State) (p : Nat) (f : Port → Port) : (s.modPort p f).glb = s.glb := rfl
@[simp] theorem State.modPort_tbu (s : State) (p : Nat) (f : Port → Port) : (s.modPort p f).tbu = s.tbu := rfl
@[simp] theorem State.modPort_ctxs (s : State) (p : Nat) (f : Port → Port) : (s.modPort p f).ctxs = s.ctxs := rfl
@[simp] theorem State.modPort_cores (s : State) (p : Nat) (f : Port → Port) : (s.modPort p f).cores = s.cores := rfl
@[simp] theorem State.modPort_mem (s : State) (p : Nat) (f : Port → Port) : (s.modPort p f).mem = s.mem := rfl
@[simp] theorem State.modPort_icu (s : State) (p : Nat) (f : Port → Port) : (s.modPort p f).icu = s.icu := rfl
@[simp] theorem State.modPort_rng (s : State) (p : Nat) (f : Port → Port) : (s.modPort p f).rng = s.rng := rfl
@[simp] theorem State.modPort_eau (s : State) (p : Nat) (f : Port → Port) : (s.modPort p f).eau = s.eau := rfl
@[simp] theorem State.modPort_ddu (s : State) (p : Nat) (f : Port → Port) : (s.modPort p f).ddu = s.ddu := rfl
@[simp] theorem State.modPort_dol (s : State) (p : Nat) (f : Port → Port) : (s.modPort p f).dol = s.dol := rfl
@[simp] theorem State.modPort_fns (s : State) (p : Nat) (f : Port → Port) : (s.modPort p f).fns = s.fns := rfl
@[simp] theorem State.modPort_dmc (s : State) (p : Nat) (f : Port → Port) : (s.modPort p f).dmc = s.dmc := rfl
@[simp] theorem State.modPort_pmu (s : State) (p : Nat) (f : Port → Port) : (s.modPort p f).pmu = s.pmu := rfl
@[simp] theorem State.modPort_bsu (s : State) (p : Nat) (f : Port → Port) : (s.modPort p f).bsu = s.bsu := rfl
@[simp] theorem State.modPort_ras (s : State) (p : Nat) (f : Port → Port) : (s.modPort p f).ras = s.ras := rfl
@[simp] theorem State.modPort_free (s : State) (p : Nat) (f : Port → Port) : (s.modPort p f).free = s.free := rfl
@[simp] theorem State.modPort_preds (s : State) (p : Nat) (f : Port → Port) : (s.modPort p f).preds = s.preds := rfl
@[simp] theorem State.modPort_serial (s : State) (p : Nat) (f : Port → Port) : (s.modPort p f).serial = s.serial := rfl
@[simp] theorem State.modPort_outbox (s : State) (p : Nat) (f : Port → Port) : (s.modPort p f).outbox = s.outbox := rfl

@[simp] theorem State.setRings_pending (s : State) (t : Nat) (r : Rings) : (s.setRings t r).pending = s.pending := rfl
@[simp] theorem State.setRings_hw (s : State) (t : Nat) (r : Rings) : (s.setRings t r).hw = s.hw := rfl
@[simp] theorem State.setRings_lk (s : State) (t : Nat) (r : Rings) : (s.setRings t r).lk = s.lk := rfl
@[simp] theorem State.setRings_glb (s : State) (t : Nat) (r : Rings) : (s.setRings t r).glb = s.glb := rfl
@[simp] theorem State.setRings_tbu (s : State) (t : Nat) (r : Rings) : (s.setRings t r).tbu = s.tbu := rfl
@[simp] theorem State.setRings_ctxs (s : State) (t : Nat) (r : Rings) : (s.setRings t r).ctxs = s.ctxs := rfl
@[simp] theorem State.setRings_cores (s : State) (t : Nat) (r : Rings) : (s.setRings t r).cores = s.cores := rfl
@[simp] theorem State.setRings_mem (s : State) (t : Nat) (r : Rings) : (s.setRings t r).mem = s.mem := rfl
@[simp] theorem State.setRings_icu (s : State) (t : Nat) (r : Rings) : (s.setRings t r).icu = s.icu := rfl
@[simp] theorem State.setRings_eau (s : State) (t : Nat) (r : Rings) : (s.setRings t r).eau = s.eau := rfl
@[simp] theorem State.setRings_ddu (s : State) (t : Nat) (r : Rings) : (s.setRings t r).ddu = s.ddu := rfl
@[simp] theorem State.setRings_dol (s : State) (t : Nat) (r : Rings) : (s.setRings t r).dol = s.dol := rfl
@[simp] theorem State.setRings_fns (s : State) (t : Nat) (r : Rings) : (s.setRings t r).fns = s.fns := rfl
@[simp] theorem State.setRings_ports (s : State) (t : Nat) (r : Rings) : (s.setRings t r).ports = s.ports := rfl
@[simp] theorem State.setRings_dmc (s : State) (t : Nat) (r : Rings) : (s.setRings t r).dmc = s.dmc := rfl
@[simp] theorem State.setRings_pmu (s : State) (t : Nat) (r : Rings) : (s.setRings t r).pmu = s.pmu := rfl
@[simp] theorem State.setRings_bsu (s : State) (t : Nat) (r : Rings) : (s.setRings t r).bsu = s.bsu := rfl
@[simp] theorem State.setRings_ras (s : State) (t : Nat) (r : Rings) : (s.setRings t r).ras = s.ras := rfl
@[simp] theorem State.setRings_free (s : State) (t : Nat) (r : Rings) : (s.setRings t r).free = s.free := rfl
@[simp] theorem State.setRings_preds (s : State) (t : Nat) (r : Rings) : (s.setRings t r).preds = s.preds := rfl
@[simp] theorem State.setRings_serial (s : State) (t : Nat) (r : Rings) : (s.setRings t r).serial = s.serial := rfl
@[simp] theorem State.setRings_outbox (s : State) (t : Nat) (r : Rings) : (s.setRings t r).outbox = s.outbox := rfl

@[simp] theorem State.modRings_pending (s : State) (t : Nat) (f : Rings → Rings) : (s.modRings t f).pending = s.pending := rfl
@[simp] theorem State.modRings_hw (s : State) (t : Nat) (f : Rings → Rings) : (s.modRings t f).hw = s.hw := rfl
@[simp] theorem State.modRings_lk (s : State) (t : Nat) (f : Rings → Rings) : (s.modRings t f).lk = s.lk := rfl
@[simp] theorem State.modRings_glb (s : State) (t : Nat) (f : Rings → Rings) : (s.modRings t f).glb = s.glb := rfl
@[simp] theorem State.modRings_tbu (s : State) (t : Nat) (f : Rings → Rings) : (s.modRings t f).tbu = s.tbu := rfl
@[simp] theorem State.modRings_ctxs (s : State) (t : Nat) (f : Rings → Rings) : (s.modRings t f).ctxs = s.ctxs := rfl
@[simp] theorem State.modRings_cores (s : State) (t : Nat) (f : Rings → Rings) : (s.modRings t f).cores = s.cores := rfl
@[simp] theorem State.modRings_mem (s : State) (t : Nat) (f : Rings → Rings) : (s.modRings t f).mem = s.mem := rfl
@[simp] theorem State.modRings_icu (s : State) (t : Nat) (f : Rings → Rings) : (s.modRings t f).icu = s.icu := rfl
@[simp] theorem State.modRings_eau (s : State) (t : Nat) (f : Rings → Rings) : (s.modRings t f).eau = s.eau := rfl
@[simp] theorem State.modRings_ddu (s : State) (t : Nat) (f : Rings → Rings) : (s.modRings t f).ddu = s.ddu := rfl
@[simp] theorem State.modRings_dol (s : State) (t : Nat) (f : Rings → Rings) : (s.modRings t f).dol = s.dol := rfl
@[simp] theorem State.modRings_fns (s : State) (t : Nat) (f : Rings → Rings) : (s.modRings t f).fns = s.fns := rfl
@[simp] theorem State.modRings_ports (s : State) (t : Nat) (f : Rings → Rings) : (s.modRings t f).ports = s.ports := rfl
@[simp] theorem State.modRings_dmc (s : State) (t : Nat) (f : Rings → Rings) : (s.modRings t f).dmc = s.dmc := rfl
@[simp] theorem State.modRings_pmu (s : State) (t : Nat) (f : Rings → Rings) : (s.modRings t f).pmu = s.pmu := rfl
@[simp] theorem State.modRings_bsu (s : State) (t : Nat) (f : Rings → Rings) : (s.modRings t f).bsu = s.bsu := rfl
@[simp] theorem State.modRings_ras (s : State) (t : Nat) (f : Rings → Rings) : (s.modRings t f).ras = s.ras := rfl
@[simp] theorem State.modRings_free (s : State) (t : Nat) (f : Rings → Rings) : (s.modRings t f).free = s.free := rfl
@[simp] theorem State.modRings_preds (s : State) (t : Nat) (f : Rings → Rings) : (s.modRings t f).preds = s.preds := rfl
@[simp] theorem State.modRings_serial (s : State) (t : Nat) (f : Rings → Rings) : (s.modRings t f).serial = s.serial := rfl
@[simp] theorem State.modRings_outbox (s : State) (t : Nat) (f : Rings → Rings) : (s.modRings t f).outbox = s.outbox := rfl

@[simp] theorem State.setReady_pending (s : State) (p : Nat) (l : List Carriage) : (s.setReady p l).pending = s.pending := rfl
@[simp] theorem State.setReady_hw (s : State) (p : Nat) (l : List Carriage) : (s.setReady p l).hw = s.hw := rfl
@[simp] theorem State.setReady_lk (s : State) (p : Nat) (l : List Carriage) : (s.setReady p l).lk = s.lk := rfl
@[simp] theorem State.setReady_glb (s : State) (p : Nat) (l : List Carriage) : (s.setReady p l).glb = s.glb := rfl
@[simp] theorem State.setReady_tbu (s : State) (p : Nat) (l : List Carriage) : (s.setReady p l).tbu = s.tbu := rfl
@[simp] theorem State.setReady_ctxs (s : State) (p : Nat) (l : List Carriage) : (s.setReady p l).ctxs = s.ctxs := rfl
@[simp] theorem State.setReady_cores (s : State) (p : Nat) (l : List Carriage) : (s.setReady p l).cores = s.cores := rfl
@[simp] theorem State.setReady_mem (s : State) (p : Nat) (l : List Carriage) : (s.setReady p l).mem = s.mem := rfl
@[simp] theorem State.setReady_icu (s : State) (p : Nat) (l : List Carriage) : (s.setReady p l).icu = s.icu := rfl
@[simp] theorem State.setReady_eau (s : State) (p : Nat) (l : List Carriage) : (s.setReady p l).eau = s.eau := rfl
@[simp] theorem State.setReady_ddu (s : State) (p : Nat) (l : List Carriage) : (s.setReady p l).ddu = s.ddu := rfl
@[simp] theorem State.setReady_dol (s : State) (p : Nat) (l : List Carriage) : (s.setReady p l).dol = s.dol := rfl
@[simp] theorem State.setReady_fns (s : State) (p : Nat) (l : List Carriage) : (s.setReady p l).fns = s.fns := rfl
@[simp] theorem State.setReady_ports (s : State) (p : Nat) (l : List Carriage) : (s.setReady p l).ports = s.ports := rfl
@[simp] theorem State.setReady_dmc (s : State) (p : Nat) (l : List Carriage) : (s.setReady p l).dmc = s.dmc := rfl
@[simp] theorem State.setReady_pmu (s : State) (p : Nat) (l : List Carriage) : (s.setReady p l).pmu = s.pmu := rfl
@[simp] theorem State.setReady_bsu (s : State) (p : Nat) (l : List Carriage) : (s.setReady p l).bsu = s.bsu := rfl
@[simp] theorem State.setReady_ras (s : State) (p : Nat) (l : List Carriage) : (s.setReady p l).ras = s.ras := rfl
@[simp] theorem State.setReady_free (s : State) (p : Nat) (l : List Carriage) : (s.setReady p l).free = s.free := rfl
@[simp] theorem State.setReady_preds (s : State) (p : Nat) (l : List Carriage) : (s.setReady p l).preds = s.preds := rfl
@[simp] theorem State.setReady_serial (s : State) (p : Nat) (l : List Carriage) : (s.setReady p l).serial = s.serial := rfl
@[simp] theorem State.setReady_outbox (s : State) (p : Nat) (l : List Carriage) : (s.setReady p l).outbox = s.outbox := rfl

@[simp] theorem State.setStaging_pending (s : State) (p b : Nat) (l : List Carriage) : (s.setStaging p b l).pending = s.pending := rfl
@[simp] theorem State.setStaging_hw (s : State) (p b : Nat) (l : List Carriage) : (s.setStaging p b l).hw = s.hw := rfl
@[simp] theorem State.setStaging_lk (s : State) (p b : Nat) (l : List Carriage) : (s.setStaging p b l).lk = s.lk := rfl
@[simp] theorem State.setStaging_glb (s : State) (p b : Nat) (l : List Carriage) : (s.setStaging p b l).glb = s.glb := rfl
@[simp] theorem State.setStaging_tbu (s : State) (p b : Nat) (l : List Carriage) : (s.setStaging p b l).tbu = s.tbu := rfl
@[simp] theorem State.setStaging_ctxs (s : State) (p b : Nat) (l : List Carriage) : (s.setStaging p b l).ctxs = s.ctxs := rfl
@[simp] theorem State.setStaging_cores (s : State) (p b : Nat) (l : List Carriage) : (s.setStaging p b l).cores = s.cores := rfl
@[simp] theorem State.setStaging_mem (s : State) (p b : Nat) (l : List Carriage) : (s.setStaging p b l).mem = s.mem := rfl
@[simp] theorem State.setStaging_icu (s : State) (p b : Nat) (l : List Carriage) : (s.setStaging p b l).icu = s.icu := rfl
@[simp] theorem State.setStaging_eau (s : State) (p b : Nat) (l : List Carriage) : (s.setStaging p b l).eau = s.eau := rfl
@[simp] theorem State.setStaging_ddu (s : State) (p b : Nat) (l : List Carriage) : (s.setStaging p b l).ddu = s.ddu := rfl
@[simp] theorem State.setStaging_dol (s : State) (p b : Nat) (l : List Carriage) : (s.setStaging p b l).dol = s.dol := rfl
@[simp] theorem State.setStaging_fns (s : State) (p b : Nat) (l : List Carriage) : (s.setStaging p b l).fns = s.fns := rfl
@[simp] theorem State.setStaging_ports (s : State) (p b : Nat) (l : List Carriage) : (s.setStaging p b l).ports = s.ports := rfl
@[simp] theorem State.setStaging_dmc (s : State) (p b : Nat) (l : List Carriage) : (s.setStaging p b l).dmc = s.dmc := rfl
@[simp] theorem State.setStaging_pmu (s : State) (p b : Nat) (l : List Carriage) : (s.setStaging p b l).pmu = s.pmu := rfl
@[simp] theorem State.setStaging_bsu (s : State) (p b : Nat) (l : List Carriage) : (s.setStaging p b l).bsu = s.bsu := rfl
@[simp] theorem State.setStaging_ras (s : State) (p b : Nat) (l : List Carriage) : (s.setStaging p b l).ras = s.ras := rfl
@[simp] theorem State.setStaging_free (s : State) (p b : Nat) (l : List Carriage) : (s.setStaging p b l).free = s.free := rfl
@[simp] theorem State.setStaging_preds (s : State) (p b : Nat) (l : List Carriage) : (s.setStaging p b l).preds = s.preds := rfl
@[simp] theorem State.setStaging_serial (s : State) (p b : Nat) (l : List Carriage) : (s.setStaging p b l).serial = s.serial := rfl
@[simp] theorem State.setStaging_outbox (s : State) (p b : Nat) (l : List Carriage) : (s.setStaging p b l).outbox = s.outbox := rfl

@[simp] theorem State.setCrit_pending (s : State) (p : Nat) (l : List Crit) : (s.setCrit p l).pending = s.pending := rfl
@[simp] theorem State.setCrit_hw (s : State) (p : Nat) (l : List Crit) : (s.setCrit p l).hw = s.hw := rfl
@[simp] theorem State.setCrit_lk (s : State) (p : Nat) (l : List Crit) : (s.setCrit p l).lk = s.lk := rfl
@[simp] theorem State.setCrit_glb (s : State) (p : Nat) (l : List Crit) : (s.setCrit p l).glb = s.glb := rfl
@[simp] theorem State.setCrit_tbu (s : State) (p : Nat) (l : List Crit) : (s.setCrit p l).tbu = s.tbu := rfl
@[simp] theorem State.setCrit_ctxs (s : State) (p : Nat) (l : List Crit) : (s.setCrit p l).ctxs = s.ctxs := rfl
@[simp] theorem State.setCrit_cores (s : State) (p : Nat) (l : List Crit) : (s.setCrit p l).cores = s.cores := rfl
@[simp] theorem State.setCrit_mem (s : State) (p : Nat) (l : List Crit) : (s.setCrit p l).mem = s.mem := rfl
@[simp] theorem State.setCrit_icu (s : State) (p : Nat) (l : List Crit) : (s.setCrit p l).icu = s.icu := rfl
@[simp] theorem State.setCrit_eau (s : State) (p : Nat) (l : List Crit) : (s.setCrit p l).eau = s.eau := rfl
@[simp] theorem State.setCrit_ddu (s : State) (p : Nat) (l : List Crit) : (s.setCrit p l).ddu = s.ddu := rfl
@[simp] theorem State.setCrit_dol (s : State) (p : Nat) (l : List Crit) : (s.setCrit p l).dol = s.dol := rfl
@[simp] theorem State.setCrit_fns (s : State) (p : Nat) (l : List Crit) : (s.setCrit p l).fns = s.fns := rfl
@[simp] theorem State.setCrit_ports (s : State) (p : Nat) (l : List Crit) : (s.setCrit p l).ports = s.ports := rfl
@[simp] theorem State.setCrit_dmc (s : State) (p : Nat) (l : List Crit) : (s.setCrit p l).dmc = s.dmc := rfl
@[simp] theorem State.setCrit_pmu (s : State) (p : Nat) (l : List Crit) : (s.setCrit p l).pmu = s.pmu := rfl
@[simp] theorem State.setCrit_bsu (s : State) (p : Nat) (l : List Crit) : (s.setCrit p l).bsu = s.bsu := rfl
@[simp] theorem State.setCrit_ras (s : State) (p : Nat) (l : List Crit) : (s.setCrit p l).ras = s.ras := rfl
@[simp] theorem State.setCrit_free (s : State) (p : Nat) (l : List Crit) : (s.setCrit p l).free = s.free := rfl
@[simp] theorem State.setCrit_preds (s : State) (p : Nat) (l : List Crit) : (s.setCrit p l).preds = s.preds := rfl
@[simp] theorem State.setCrit_serial (s : State) (p : Nat) (l : List Crit) : (s.setCrit p l).serial = s.serial := rfl
@[simp] theorem State.setCrit_outbox (s : State) (p : Nat) (l : List Crit) : (s.setCrit p l).outbox = s.outbox := rfl

@[simp] theorem State.setPush_pending (s : State) (t k : Nat) (q : Option Push) : (s.setPush t k q).pending = s.pending := rfl
@[simp] theorem State.setPush_hw (s : State) (t k : Nat) (q : Option Push) : (s.setPush t k q).hw = s.hw := rfl
@[simp] theorem State.setPush_lk (s : State) (t k : Nat) (q : Option Push) : (s.setPush t k q).lk = s.lk := rfl
@[simp] theorem State.setPush_glb (s : State) (t k : Nat) (q : Option Push) : (s.setPush t k q).glb = s.glb := rfl
@[simp] theorem State.setPush_tbu (s : State) (t k : Nat) (q : Option Push) : (s.setPush t k q).tbu = s.tbu := rfl
@[simp] theorem State.setPush_ctxs (s : State) (t k : Nat) (q : Option Push) : (s.setPush t k q).ctxs = s.ctxs := rfl
@[simp] theorem State.setPush_cores (s : State) (t k : Nat) (q : Option Push) : (s.setPush t k q).cores = s.cores := rfl
@[simp] theorem State.setPush_mem (s : State) (t k : Nat) (q : Option Push) : (s.setPush t k q).mem = s.mem := rfl
@[simp] theorem State.setPush_icu (s : State) (t k : Nat) (q : Option Push) : (s.setPush t k q).icu = s.icu := rfl
@[simp] theorem State.setPush_eau (s : State) (t k : Nat) (q : Option Push) : (s.setPush t k q).eau = s.eau := rfl
@[simp] theorem State.setPush_ddu (s : State) (t k : Nat) (q : Option Push) : (s.setPush t k q).ddu = s.ddu := rfl
@[simp] theorem State.setPush_dol (s : State) (t k : Nat) (q : Option Push) : (s.setPush t k q).dol = s.dol := rfl
@[simp] theorem State.setPush_fns (s : State) (t k : Nat) (q : Option Push) : (s.setPush t k q).fns = s.fns := rfl
@[simp] theorem State.setPush_ports (s : State) (t k : Nat) (q : Option Push) : (s.setPush t k q).ports = s.ports := rfl
@[simp] theorem State.setPush_dmc (s : State) (t k : Nat) (q : Option Push) : (s.setPush t k q).dmc = s.dmc := rfl
@[simp] theorem State.setPush_pmu (s : State) (t k : Nat) (q : Option Push) : (s.setPush t k q).pmu = s.pmu := rfl
@[simp] theorem State.setPush_bsu (s : State) (t k : Nat) (q : Option Push) : (s.setPush t k q).bsu = s.bsu := rfl
@[simp] theorem State.setPush_ras (s : State) (t k : Nat) (q : Option Push) : (s.setPush t k q).ras = s.ras := rfl
@[simp] theorem State.setPush_free (s : State) (t k : Nat) (q : Option Push) : (s.setPush t k q).free = s.free := rfl
@[simp] theorem State.setPush_preds (s : State) (t k : Nat) (q : Option Push) : (s.setPush t k q).preds = s.preds := rfl
@[simp] theorem State.setPush_serial (s : State) (t k : Nat) (q : Option Push) : (s.setPush t k q).serial = s.serial := rfl
@[simp] theorem State.setPush_outbox (s : State) (t k : Nat) (q : Option Push) : (s.setPush t k q).outbox = s.outbox := rfl

@[simp] theorem State.setProf_pending (s : State) (p : Nat) (x : Profile) : (s.setProf p x).pending = s.pending := rfl
@[simp] theorem State.setProf_hw (s : State) (p : Nat) (x : Profile) : (s.setProf p x).hw = s.hw := rfl
@[simp] theorem State.setProf_lk (s : State) (p : Nat) (x : Profile) : (s.setProf p x).lk = s.lk := rfl
@[simp] theorem State.setProf_glb (s : State) (p : Nat) (x : Profile) : (s.setProf p x).glb = s.glb := rfl
@[simp] theorem State.setProf_tbu (s : State) (p : Nat) (x : Profile) : (s.setProf p x).tbu = s.tbu := rfl
@[simp] theorem State.setProf_ctxs (s : State) (p : Nat) (x : Profile) : (s.setProf p x).ctxs = s.ctxs := rfl
@[simp] theorem State.setProf_cores (s : State) (p : Nat) (x : Profile) : (s.setProf p x).cores = s.cores := rfl
@[simp] theorem State.setProf_mem (s : State) (p : Nat) (x : Profile) : (s.setProf p x).mem = s.mem := rfl
@[simp] theorem State.setProf_icu (s : State) (p : Nat) (x : Profile) : (s.setProf p x).icu = s.icu := rfl
@[simp] theorem State.setProf_rng (s : State) (p : Nat) (x : Profile) : (s.setProf p x).rng = s.rng := rfl
@[simp] theorem State.setProf_ddu (s : State) (p : Nat) (x : Profile) : (s.setProf p x).ddu = s.ddu := rfl
@[simp] theorem State.setProf_dol (s : State) (p : Nat) (x : Profile) : (s.setProf p x).dol = s.dol := rfl
@[simp] theorem State.setProf_fns (s : State) (p : Nat) (x : Profile) : (s.setProf p x).fns = s.fns := rfl
@[simp] theorem State.setProf_ports (s : State) (p : Nat) (x : Profile) : (s.setProf p x).ports = s.ports := rfl
@[simp] theorem State.setProf_dmc (s : State) (p : Nat) (x : Profile) : (s.setProf p x).dmc = s.dmc := rfl
@[simp] theorem State.setProf_pmu (s : State) (p : Nat) (x : Profile) : (s.setProf p x).pmu = s.pmu := rfl
@[simp] theorem State.setProf_bsu (s : State) (p : Nat) (x : Profile) : (s.setProf p x).bsu = s.bsu := rfl
@[simp] theorem State.setProf_ras (s : State) (p : Nat) (x : Profile) : (s.setProf p x).ras = s.ras := rfl
@[simp] theorem State.setProf_free (s : State) (p : Nat) (x : Profile) : (s.setProf p x).free = s.free := rfl
@[simp] theorem State.setProf_preds (s : State) (p : Nat) (x : Profile) : (s.setProf p x).preds = s.preds := rfl
@[simp] theorem State.setProf_serial (s : State) (p : Nat) (x : Profile) : (s.setProf p x).serial = s.serial := rfl
@[simp] theorem State.setProf_outbox (s : State) (p : Nat) (x : Profile) : (s.setProf p x).outbox = s.outbox := rfl

@[simp] theorem State.setPool_pending (s : State) (q : Nat) (x : Pool) : (s.setPool q x).pending = s.pending := rfl
@[simp] theorem State.setPool_hw (s : State) (q : Nat) (x : Pool) : (s.setPool q x).hw = s.hw := rfl
@[simp] theorem State.setPool_lk (s : State) (q : Nat) (x : Pool) : (s.setPool q x).lk = s.lk := rfl
@[simp] theorem State.setPool_glb (s : State) (q : Nat) (x : Pool) : (s.setPool q x).glb = s.glb := rfl
@[simp] theorem State.setPool_tbu (s : State) (q : Nat) (x : Pool) : (s.setPool q x).tbu = s.tbu := rfl
@[simp] theorem State.setPool_ctxs (s : State) (q : Nat) (x : Pool) : (s.setPool q x).ctxs = s.ctxs := rfl
@[simp] theorem State.setPool_cores (s : State) (q : Nat) (x : Pool) : (s.setPool q x).cores = s.cores := rfl
@[simp] theorem State.setPool_mem (s : State) (q : Nat) (x : Pool) : (s.setPool q x).mem = s.mem := rfl
@[simp] theorem State.setPool_icu (s : State) (q : Nat) (x : Pool) : (s.setPool q x).icu = s.icu := rfl
@[simp] theorem State.setPool_rng (s : State) (q : Nat) (x : Pool) : (s.setPool q x).rng = s.rng := rfl
@[simp] theorem State.setPool_ddu (s : State) (q : Nat) (x : Pool) : (s.setPool q x).ddu = s.ddu := rfl
@[simp] theorem State.setPool_dol (s : State) (q : Nat) (x : Pool) : (s.setPool q x).dol = s.dol := rfl
@[simp] theorem State.setPool_fns (s : State) (q : Nat) (x : Pool) : (s.setPool q x).fns = s.fns := rfl
@[simp] theorem State.setPool_ports (s : State) (q : Nat) (x : Pool) : (s.setPool q x).ports = s.ports := rfl
@[simp] theorem State.setPool_dmc (s : State) (q : Nat) (x : Pool) : (s.setPool q x).dmc = s.dmc := rfl
@[simp] theorem State.setPool_pmu (s : State) (q : Nat) (x : Pool) : (s.setPool q x).pmu = s.pmu := rfl
@[simp] theorem State.setPool_bsu (s : State) (q : Nat) (x : Pool) : (s.setPool q x).bsu = s.bsu := rfl
@[simp] theorem State.setPool_ras (s : State) (q : Nat) (x : Pool) : (s.setPool q x).ras = s.ras := rfl
@[simp] theorem State.setPool_free (s : State) (q : Nat) (x : Pool) : (s.setPool q x).free = s.free := rfl
@[simp] theorem State.setPool_preds (s : State) (q : Nat) (x : Pool) : (s.setPool q x).preds = s.preds := rfl
@[simp] theorem State.setPool_serial (s : State) (q : Nat) (x : Pool) : (s.setPool q x).serial = s.serial := rfl
@[simp] theorem State.setPool_outbox (s : State) (q : Nat) (x : Pool) : (s.setPool q x).outbox = s.outbox := rfl

@[simp] theorem State.setEntry_pending (s : State) (k : Nat) (e : Option Entry) : (s.setEntry k e).pending = s.pending := rfl
@[simp] theorem State.setEntry_hw (s : State) (k : Nat) (e : Option Entry) : (s.setEntry k e).hw = s.hw := rfl
@[simp] theorem State.setEntry_lk (s : State) (k : Nat) (e : Option Entry) : (s.setEntry k e).lk = s.lk := rfl
@[simp] theorem State.setEntry_glb (s : State) (k : Nat) (e : Option Entry) : (s.setEntry k e).glb = s.glb := rfl
@[simp] theorem State.setEntry_tbu (s : State) (k : Nat) (e : Option Entry) : (s.setEntry k e).tbu = s.tbu := rfl
@[simp] theorem State.setEntry_ctxs (s : State) (k : Nat) (e : Option Entry) : (s.setEntry k e).ctxs = s.ctxs := rfl
@[simp] theorem State.setEntry_cores (s : State) (k : Nat) (e : Option Entry) : (s.setEntry k e).cores = s.cores := rfl
@[simp] theorem State.setEntry_mem (s : State) (k : Nat) (e : Option Entry) : (s.setEntry k e).mem = s.mem := rfl
@[simp] theorem State.setEntry_icu (s : State) (k : Nat) (e : Option Entry) : (s.setEntry k e).icu = s.icu := rfl
@[simp] theorem State.setEntry_rng (s : State) (k : Nat) (e : Option Entry) : (s.setEntry k e).rng = s.rng := rfl
@[simp] theorem State.setEntry_ddu (s : State) (k : Nat) (e : Option Entry) : (s.setEntry k e).ddu = s.ddu := rfl
@[simp] theorem State.setEntry_dol (s : State) (k : Nat) (e : Option Entry) : (s.setEntry k e).dol = s.dol := rfl
@[simp] theorem State.setEntry_fns (s : State) (k : Nat) (e : Option Entry) : (s.setEntry k e).fns = s.fns := rfl
@[simp] theorem State.setEntry_ports (s : State) (k : Nat) (e : Option Entry) : (s.setEntry k e).ports = s.ports := rfl
@[simp] theorem State.setEntry_dmc (s : State) (k : Nat) (e : Option Entry) : (s.setEntry k e).dmc = s.dmc := rfl
@[simp] theorem State.setEntry_pmu (s : State) (k : Nat) (e : Option Entry) : (s.setEntry k e).pmu = s.pmu := rfl
@[simp] theorem State.setEntry_bsu (s : State) (k : Nat) (e : Option Entry) : (s.setEntry k e).bsu = s.bsu := rfl
@[simp] theorem State.setEntry_ras (s : State) (k : Nat) (e : Option Entry) : (s.setEntry k e).ras = s.ras := rfl
@[simp] theorem State.setEntry_free (s : State) (k : Nat) (e : Option Entry) : (s.setEntry k e).free = s.free := rfl
@[simp] theorem State.setEntry_preds (s : State) (k : Nat) (e : Option Entry) : (s.setEntry k e).preds = s.preds := rfl
@[simp] theorem State.setEntry_serial (s : State) (k : Nat) (e : Option Entry) : (s.setEntry k e).serial = s.serial := rfl
@[simp] theorem State.setEntry_outbox (s : State) (k : Nat) (e : Option Entry) : (s.setEntry k e).outbox = s.outbox := rfl

@[simp] theorem State.setVictims_pending (s : State) (b : Nat) (l : List Victim) : (s.setVictims b l).pending = s.pending := rfl
@[simp] theorem State.setVictims_hw (s : State) (b : Nat) (l : List Victim) : (s.setVictims b l).hw = s.hw := rfl
@[simp] theorem State.setVictims_lk (s : State) (b : Nat) (l : List Victim) : (s.setVictims b l).lk = s.lk := rfl
@[simp] theorem State.setVictims_glb (s : State) (b : Nat) (l : List Victim) : (s.setVictims b l).glb = s.glb := rfl
@[simp] theorem State.setVictims_tbu (s : State) (b : Nat) (l : List Victim) : (s.setVictims b l).tbu = s.tbu := rfl
@[simp] theorem State.setVictims_ctxs (s : State) (b : Nat) (l : List Victim) : (s.setVictims b l).ctxs = s.ctxs := rfl
@[simp] theorem State.setVictims_cores (s : State) (b : Nat) (l : List Victim) : (s.setVictims b l).cores = s.cores := rfl
@[simp] theorem State.setVictims_mem (s : State) (b : Nat) (l : List Victim) : (s.setVictims b l).mem = s.mem := rfl
@[simp] theorem State.setVictims_icu (s : State) (b : Nat) (l : List Victim) : (s.setVictims b l).icu = s.icu := rfl
@[simp] theorem State.setVictims_rng (s : State) (b : Nat) (l : List Victim) : (s.setVictims b l).rng = s.rng := rfl
@[simp] theorem State.setVictims_ddu (s : State) (b : Nat) (l : List Victim) : (s.setVictims b l).ddu = s.ddu := rfl
@[simp] theorem State.setVictims_dol (s : State) (b : Nat) (l : List Victim) : (s.setVictims b l).dol = s.dol := rfl
@[simp] theorem State.setVictims_fns (s : State) (b : Nat) (l : List Victim) : (s.setVictims b l).fns = s.fns := rfl
@[simp] theorem State.setVictims_ports (s : State) (b : Nat) (l : List Victim) : (s.setVictims b l).ports = s.ports := rfl
@[simp] theorem State.setVictims_dmc (s : State) (b : Nat) (l : List Victim) : (s.setVictims b l).dmc = s.dmc := rfl
@[simp] theorem State.setVictims_pmu (s : State) (b : Nat) (l : List Victim) : (s.setVictims b l).pmu = s.pmu := rfl
@[simp] theorem State.setVictims_bsu (s : State) (b : Nat) (l : List Victim) : (s.setVictims b l).bsu = s.bsu := rfl
@[simp] theorem State.setVictims_ras (s : State) (b : Nat) (l : List Victim) : (s.setVictims b l).ras = s.ras := rfl
@[simp] theorem State.setVictims_free (s : State) (b : Nat) (l : List Victim) : (s.setVictims b l).free = s.free := rfl
@[simp] theorem State.setVictims_preds (s : State) (b : Nat) (l : List Victim) : (s.setVictims b l).preds = s.preds := rfl
@[simp] theorem State.setVictims_serial (s : State) (b : Nat) (l : List Victim) : (s.setVictims b l).serial = s.serial := rfl
@[simp] theorem State.setVictims_outbox (s : State) (b : Nat) (l : List Victim) : (s.setVictims b l).outbox = s.outbox := rfl

@[simp] theorem State.modCharge_pending (s : State) (t : Nat) (f : Nat × Nat → Nat × Nat) : (s.modCharge t f).pending = s.pending := rfl
@[simp] theorem State.modCharge_hw (s : State) (t : Nat) (f : Nat × Nat → Nat × Nat) : (s.modCharge t f).hw = s.hw := rfl
@[simp] theorem State.modCharge_lk (s : State) (t : Nat) (f : Nat × Nat → Nat × Nat) : (s.modCharge t f).lk = s.lk := rfl
@[simp] theorem State.modCharge_glb (s : State) (t : Nat) (f : Nat × Nat → Nat × Nat) : (s.modCharge t f).glb = s.glb := rfl
@[simp] theorem State.modCharge_tbu (s : State) (t : Nat) (f : Nat × Nat → Nat × Nat) : (s.modCharge t f).tbu = s.tbu := rfl
@[simp] theorem State.modCharge_ctxs (s : State) (t : Nat) (f : Nat × Nat → Nat × Nat) : (s.modCharge t f).ctxs = s.ctxs := rfl
@[simp] theorem State.modCharge_cores (s : State) (t : Nat) (f : Nat × Nat → Nat × Nat) : (s.modCharge t f).cores = s.cores := rfl
@[simp] theorem State.modCharge_mem (s : State) (t : Nat) (f : Nat × Nat → Nat × Nat) : (s.modCharge t f).mem = s.mem := rfl
@[simp] theorem State.modCharge_icu (s : State) (t : Nat) (f : Nat × Nat → Nat × Nat) : (s.modCharge t f).icu = s.icu := rfl
@[simp] theorem State.modCharge_rng (s : State) (t : Nat) (f : Nat × Nat → Nat × Nat) : (s.modCharge t f).rng = s.rng := rfl
@[simp] theorem State.modCharge_ddu (s : State) (t : Nat) (f : Nat × Nat → Nat × Nat) : (s.modCharge t f).ddu = s.ddu := rfl
@[simp] theorem State.modCharge_dol (s : State) (t : Nat) (f : Nat × Nat → Nat × Nat) : (s.modCharge t f).dol = s.dol := rfl
@[simp] theorem State.modCharge_fns (s : State) (t : Nat) (f : Nat × Nat → Nat × Nat) : (s.modCharge t f).fns = s.fns := rfl
@[simp] theorem State.modCharge_ports (s : State) (t : Nat) (f : Nat × Nat → Nat × Nat) : (s.modCharge t f).ports = s.ports := rfl
@[simp] theorem State.modCharge_dmc (s : State) (t : Nat) (f : Nat × Nat → Nat × Nat) : (s.modCharge t f).dmc = s.dmc := rfl
@[simp] theorem State.modCharge_pmu (s : State) (t : Nat) (f : Nat × Nat → Nat × Nat) : (s.modCharge t f).pmu = s.pmu := rfl
@[simp] theorem State.modCharge_bsu (s : State) (t : Nat) (f : Nat × Nat → Nat × Nat) : (s.modCharge t f).bsu = s.bsu := rfl
@[simp] theorem State.modCharge_ras (s : State) (t : Nat) (f : Nat × Nat → Nat × Nat) : (s.modCharge t f).ras = s.ras := rfl
@[simp] theorem State.modCharge_free (s : State) (t : Nat) (f : Nat × Nat → Nat × Nat) : (s.modCharge t f).free = s.free := rfl
@[simp] theorem State.modCharge_preds (s : State) (t : Nat) (f : Nat × Nat → Nat × Nat) : (s.modCharge t f).preds = s.preds := rfl
@[simp] theorem State.modCharge_serial (s : State) (t : Nat) (f : Nat × Nat → Nat × Nat) : (s.modCharge t f).serial = s.serial := rfl
@[simp] theorem State.modCharge_outbox (s : State) (t : Nat) (f : Nat × Nat → Nat × Nat) : (s.modCharge t f).outbox = s.outbox := rfl

@[simp] theorem State.setKey_pending (s : State) (t : Nat) (k : KeyRec) : (s.setKey t k).pending = s.pending := rfl
@[simp] theorem State.setKey_hw (s : State) (t : Nat) (k : KeyRec) : (s.setKey t k).hw = s.hw := rfl
@[simp] theorem State.setKey_lk (s : State) (t : Nat) (k : KeyRec) : (s.setKey t k).lk = s.lk := rfl
@[simp] theorem State.setKey_glb (s : State) (t : Nat) (k : KeyRec) : (s.setKey t k).glb = s.glb := rfl
@[simp] theorem State.setKey_tbu (s : State) (t : Nat) (k : KeyRec) : (s.setKey t k).tbu = s.tbu := rfl
@[simp] theorem State.setKey_ctxs (s : State) (t : Nat) (k : KeyRec) : (s.setKey t k).ctxs = s.ctxs := rfl
@[simp] theorem State.setKey_cores (s : State) (t : Nat) (k : KeyRec) : (s.setKey t k).cores = s.cores := rfl
@[simp] theorem State.setKey_mem (s : State) (t : Nat) (k : KeyRec) : (s.setKey t k).mem = s.mem := rfl
@[simp] theorem State.setKey_icu (s : State) (t : Nat) (k : KeyRec) : (s.setKey t k).icu = s.icu := rfl
@[simp] theorem State.setKey_rng (s : State) (t : Nat) (k : KeyRec) : (s.setKey t k).rng = s.rng := rfl
@[simp] theorem State.setKey_eau (s : State) (t : Nat) (k : KeyRec) : (s.setKey t k).eau = s.eau := rfl
@[simp] theorem State.setKey_ddu (s : State) (t : Nat) (k : KeyRec) : (s.setKey t k).ddu = s.ddu := rfl
@[simp] theorem State.setKey_dol (s : State) (t : Nat) (k : KeyRec) : (s.setKey t k).dol = s.dol := rfl
@[simp] theorem State.setKey_fns (s : State) (t : Nat) (k : KeyRec) : (s.setKey t k).fns = s.fns := rfl
@[simp] theorem State.setKey_ports (s : State) (t : Nat) (k : KeyRec) : (s.setKey t k).ports = s.ports := rfl
@[simp] theorem State.setKey_dmc (s : State) (t : Nat) (k : KeyRec) : (s.setKey t k).dmc = s.dmc := rfl
@[simp] theorem State.setKey_pmu (s : State) (t : Nat) (k : KeyRec) : (s.setKey t k).pmu = s.pmu := rfl
@[simp] theorem State.setKey_ras (s : State) (t : Nat) (k : KeyRec) : (s.setKey t k).ras = s.ras := rfl
@[simp] theorem State.setKey_free (s : State) (t : Nat) (k : KeyRec) : (s.setKey t k).free = s.free := rfl
@[simp] theorem State.setKey_preds (s : State) (t : Nat) (k : KeyRec) : (s.setKey t k).preds = s.preds := rfl
@[simp] theorem State.setKey_serial (s : State) (t : Nat) (k : KeyRec) : (s.setKey t k).serial = s.serial := rfl
@[simp] theorem State.setKey_outbox (s : State) (t : Nat) (k : KeyRec) : (s.setKey t k).outbox = s.outbox := rfl

@[simp] theorem State.setDead_pending (s : State) (t : Nat) (b : Bool) : (s.setDead t b).pending = s.pending := rfl
@[simp] theorem State.setDead_hw (s : State) (t : Nat) (b : Bool) : (s.setDead t b).hw = s.hw := rfl
@[simp] theorem State.setDead_lk (s : State) (t : Nat) (b : Bool) : (s.setDead t b).lk = s.lk := rfl
@[simp] theorem State.setDead_glb (s : State) (t : Nat) (b : Bool) : (s.setDead t b).glb = s.glb := rfl
@[simp] theorem State.setDead_tbu (s : State) (t : Nat) (b : Bool) : (s.setDead t b).tbu = s.tbu := rfl
@[simp] theorem State.setDead_ctxs (s : State) (t : Nat) (b : Bool) : (s.setDead t b).ctxs = s.ctxs := rfl
@[simp] theorem State.setDead_cores (s : State) (t : Nat) (b : Bool) : (s.setDead t b).cores = s.cores := rfl
@[simp] theorem State.setDead_mem (s : State) (t : Nat) (b : Bool) : (s.setDead t b).mem = s.mem := rfl
@[simp] theorem State.setDead_icu (s : State) (t : Nat) (b : Bool) : (s.setDead t b).icu = s.icu := rfl
@[simp] theorem State.setDead_rng (s : State) (t : Nat) (b : Bool) : (s.setDead t b).rng = s.rng := rfl
@[simp] theorem State.setDead_eau (s : State) (t : Nat) (b : Bool) : (s.setDead t b).eau = s.eau := rfl
@[simp] theorem State.setDead_ddu (s : State) (t : Nat) (b : Bool) : (s.setDead t b).ddu = s.ddu := rfl
@[simp] theorem State.setDead_dol (s : State) (t : Nat) (b : Bool) : (s.setDead t b).dol = s.dol := rfl
@[simp] theorem State.setDead_fns (s : State) (t : Nat) (b : Bool) : (s.setDead t b).fns = s.fns := rfl
@[simp] theorem State.setDead_ports (s : State) (t : Nat) (b : Bool) : (s.setDead t b).ports = s.ports := rfl
@[simp] theorem State.setDead_dmc (s : State) (t : Nat) (b : Bool) : (s.setDead t b).dmc = s.dmc := rfl
@[simp] theorem State.setDead_pmu (s : State) (t : Nat) (b : Bool) : (s.setDead t b).pmu = s.pmu := rfl
@[simp] theorem State.setDead_ras (s : State) (t : Nat) (b : Bool) : (s.setDead t b).ras = s.ras := rfl
@[simp] theorem State.setDead_free (s : State) (t : Nat) (b : Bool) : (s.setDead t b).free = s.free := rfl
@[simp] theorem State.setDead_preds (s : State) (t : Nat) (b : Bool) : (s.setDead t b).preds = s.preds := rfl
@[simp] theorem State.setDead_serial (s : State) (t : Nat) (b : Bool) : (s.setDead t b).serial = s.serial := rfl
@[simp] theorem State.setDead_outbox (s : State) (t : Nat) (b : Bool) : (s.setDead t b).outbox = s.outbox := rfl

@[simp] theorem State.modTbu_pending (s : State) (f : Tbu → Tbu) : (s.modTbu f).pending = s.pending := rfl
@[simp] theorem State.modTbu_hw (s : State) (f : Tbu → Tbu) : (s.modTbu f).hw = s.hw := rfl
@[simp] theorem State.modTbu_lk (s : State) (f : Tbu → Tbu) : (s.modTbu f).lk = s.lk := rfl
@[simp] theorem State.modTbu_glb (s : State) (f : Tbu → Tbu) : (s.modTbu f).glb = s.glb := rfl
@[simp] theorem State.modTbu_ctxs (s : State) (f : Tbu → Tbu) : (s.modTbu f).ctxs = s.ctxs := rfl
@[simp] theorem State.modTbu_cores (s : State) (f : Tbu → Tbu) : (s.modTbu f).cores = s.cores := rfl
@[simp] theorem State.modTbu_mem (s : State) (f : Tbu → Tbu) : (s.modTbu f).mem = s.mem := rfl
@[simp] theorem State.modTbu_icu (s : State) (f : Tbu → Tbu) : (s.modTbu f).icu = s.icu := rfl
@[simp] theorem State.modTbu_rng (s : State) (f : Tbu → Tbu) : (s.modTbu f).rng = s.rng := rfl
@[simp] theorem State.modTbu_eau (s : State) (f : Tbu → Tbu) : (s.modTbu f).eau = s.eau := rfl
@[simp] theorem State.modTbu_ddu (s : State) (f : Tbu → Tbu) : (s.modTbu f).ddu = s.ddu := rfl
@[simp] theorem State.modTbu_dol (s : State) (f : Tbu → Tbu) : (s.modTbu f).dol = s.dol := rfl
@[simp] theorem State.modTbu_fns (s : State) (f : Tbu → Tbu) : (s.modTbu f).fns = s.fns := rfl
@[simp] theorem State.modTbu_ports (s : State) (f : Tbu → Tbu) : (s.modTbu f).ports = s.ports := rfl
@[simp] theorem State.modTbu_dmc (s : State) (f : Tbu → Tbu) : (s.modTbu f).dmc = s.dmc := rfl
@[simp] theorem State.modTbu_pmu (s : State) (f : Tbu → Tbu) : (s.modTbu f).pmu = s.pmu := rfl
@[simp] theorem State.modTbu_bsu (s : State) (f : Tbu → Tbu) : (s.modTbu f).bsu = s.bsu := rfl
@[simp] theorem State.modTbu_ras (s : State) (f : Tbu → Tbu) : (s.modTbu f).ras = s.ras := rfl
@[simp] theorem State.modTbu_free (s : State) (f : Tbu → Tbu) : (s.modTbu f).free = s.free := rfl
@[simp] theorem State.modTbu_preds (s : State) (f : Tbu → Tbu) : (s.modTbu f).preds = s.preds := rfl
@[simp] theorem State.modTbu_serial (s : State) (f : Tbu → Tbu) : (s.modTbu f).serial = s.serial := rfl
@[simp] theorem State.modTbu_outbox (s : State) (f : Tbu → Tbu) : (s.modTbu f).outbox = s.outbox := rfl

/-! ### Fields of a context -/

@[simp] theorem Ctx.gset_run (x : Ctx) (r : GReg) (w : Word) : (x.gset r w).run = x.run := rfl
@[simp] theorem Ctx.gset_k (x : Ctx) (r : GReg) (w : Word) : (x.gset r w).k = x.k := rfl
@[simp] theorem Ctx.gset_pcc (x : Ctx) (r : GReg) (w : Word) : (x.gset r w).pcc = x.pcc := rfl
@[simp] theorem Ctx.gset_esc (x : Ctx) (r : GReg) (w : Word) : (x.gset r w).esc = x.esc := rfl
@[simp] theorem Ctx.gset_evc (x : Ctx) (r : GReg) (w : Word) : (x.gset r w).evc = x.evc := rfl
@[simp] theorem Ctx.gset_n (x : Ctx) (r : GReg) (w : Word) : (x.gset r w).n = x.n := rfl
@[simp] theorem Ctx.gset_z (x : Ctx) (r : GReg) (w : Word) : (x.gset r w).z = x.z := rfl
@[simp] theorem Ctx.gset_c (x : Ctx) (r : GReg) (w : Word) : (x.gset r w).c = x.c := rfl
@[simp] theorem Ctx.gset_v (x : Ctx) (r : GReg) (w : Word) : (x.gset r w).v = x.v := rfl
@[simp] theorem Ctx.gset_dl (x : Ctx) (r : GReg) (w : Word) : (x.gset r w).dl = x.dl := rfl
@[simp] theorem Ctx.gset_fpstat (x : Ctx) (r : GReg) (w : Word) : (x.gset r w).fpstat = x.fpstat := rfl
@[simp] theorem Ctx.gset_bd (x : Ctx) (r : GReg) (w : Word) : (x.gset r w).bd = x.bd := rfl
@[simp] theorem Ctx.gset_bkaddr (x : Ctx) (r : GReg) (w : Word) : (x.gset r w).bkaddr = x.bkaddr := rfl
@[simp] theorem Ctx.gset_bken (x : Ctx) (r : GReg) (w : Word) : (x.gset r w).bken = x.bken := rfl
@[simp] theorem Ctx.gset_bkskip (x : Ctx) (r : GReg) (w : Word) : (x.gset r w).bkskip = x.bkskip := rfl
@[simp] theorem Ctx.gset_floor (x : Ctx) (r : GReg) (w : Word) : (x.gset r w).floor = x.floor := rfl
@[simp] theorem Ctx.gset_stack (x : Ctx) (r : GReg) (w : Word) : (x.gset r w).stack = x.stack := rfl
@[simp] theorem Ctx.gset_held (x : Ctx) (r : GReg) (w : Word) : (x.gset r w).held = x.held := rfl
@[simp] theorem Ctx.gset_alarm (x : Ctx) (r : GReg) (w : Word) : (x.gset r w).alarm = x.alarm := rfl
@[simp] theorem Ctx.gset_alarmPending (x : Ctx) (r : GReg) (w : Word) : (x.gset r w).alarmPending = x.alarmPending := rfl
@[simp] theorem Ctx.gset_deadline (x : Ctx) (r : GReg) (w : Word) : (x.gset r w).deadline = x.deadline := rfl
@[simp] theorem Ctx.gset_coaches (x : Ctx) (r : GReg) (w : Word) : (x.gset r w).coaches = x.coaches := rfl
@[simp] theorem Ctx.gset_retired (x : Ctx) (r : GReg) (w : Word) : (x.gset r w).retired = x.retired := rfl
@[simp] theorem Ctx.gset_pclass (x : Ctx) (r : GReg) (w : Word) : (x.gset r w).pclass = x.pclass := rfl
@[simp] theorem Ctx.gset_longOps (x : Ctx) (r : GReg) (w : Word) : (x.gset r w).longOps = x.longOps := rfl
@[simp] theorem Ctx.gset_routine (x : Ctx) (r : GReg) (w : Word) : (x.gset r w).routine = x.routine := rfl
@[simp] theorem Ctx.gset_pendRet (x : Ctx) (r : GReg) (w : Word) : (x.gset r w).pendRet = x.pendRet := rfl
@[simp] theorem Ctx.gset_pendAsync (x : Ctx) (r : GReg) (w : Word) : (x.gset r w).pendAsync = x.pendAsync := rfl
@[simp] theorem Ctx.gset_restartPend (x : Ctx) (r : GReg) (w : Word) : (x.gset r w).restartPend = x.restartPend := rfl
@[simp] theorem Ctx.gset_wEret (x : Ctx) (r : GReg) (w : Word) : (x.gset r w).wEret = x.wEret := rfl
@[simp] theorem Ctx.gset_wCause (x : Ctx) (r : GReg) (w : Word) : (x.gset r w).wCause = x.wCause := rfl
@[simp] theorem Ctx.gset_wReason (x : Ctx) (r : GReg) (w : Word) : (x.gset r w).wReason = x.wReason := rfl
@[simp] theorem Ctx.gset_wCount (x : Ctx) (r : GReg) (w : Word) : (x.gset r w).wCount = x.wCount := rfl
@[simp] theorem Ctx.gset_wAddr (x : Ctx) (r : GReg) (w : Word) : (x.gset r w).wAddr = x.wAddr := rfl
@[simp] theorem Ctx.gset_history (x : Ctx) (r : GReg) (w : Word) : (x.gset r w).history = x.history := rfl
@[simp] theorem Ctx.gset_retStack (x : Ctx) (r : GReg) (w : Word) : (x.gset r w).retStack = x.retStack := rfl
@[simp] theorem Ctx.gset_retTop (x : Ctx) (r : GReg) (w : Word) : (x.gset r w).retTop = x.retTop := rfl
@[simp] theorem Ctx.gset_checks (x : Ctx) (r : GReg) (w : Word) : (x.gset r w).checks = x.checks := rfl
@[simp] theorem Ctx.gset_early (x : Ctx) (r : GReg) (w : Word) : (x.gset r w).early = x.early := rfl
@[simp] theorem Ctx.gset_invalT (x : Ctx) (r : GReg) (w : Word) : (x.gset r w).invalT = x.invalT := rfl
@[simp] theorem Ctx.gset_invalW (x : Ctx) (r : GReg) (w : Word) : (x.gset r w).invalW = x.invalW := rfl

@[simp] theorem Ctx.kset_run (x : Ctx) (r : KReg) (w : Cap) : (x.kset r w).run = x.run := rfl
@[simp] theorem Ctx.kset_g (x : Ctx) (r : KReg) (w : Cap) : (x.kset r w).g = x.g := rfl
@[simp] theorem Ctx.kset_pcc (x : Ctx) (r : KReg) (w : Cap) : (x.kset r w).pcc = x.pcc := rfl
@[simp] theorem Ctx.kset_esc (x : Ctx) (r : KReg) (w : Cap) : (x.kset r w).esc = x.esc := rfl
@[simp] theorem Ctx.kset_evc (x : Ctx) (r : KReg) (w : Cap) : (x.kset r w).evc = x.evc := rfl
@[simp] theorem Ctx.kset_n (x : Ctx) (r : KReg) (w : Cap) : (x.kset r w).n = x.n := rfl
@[simp] theorem Ctx.kset_z (x : Ctx) (r : KReg) (w : Cap) : (x.kset r w).z = x.z := rfl
@[simp] theorem Ctx.kset_c (x : Ctx) (r : KReg) (w : Cap) : (x.kset r w).c = x.c := rfl
@[simp] theorem Ctx.kset_v (x : Ctx) (r : KReg) (w : Cap) : (x.kset r w).v = x.v := rfl
@[simp] theorem Ctx.kset_dl (x : Ctx) (r : KReg) (w : Cap) : (x.kset r w).dl = x.dl := rfl
@[simp] theorem Ctx.kset_fpstat (x : Ctx) (r : KReg) (w : Cap) : (x.kset r w).fpstat = x.fpstat := rfl
@[simp] theorem Ctx.kset_bd (x : Ctx) (r : KReg) (w : Cap) : (x.kset r w).bd = x.bd := rfl
@[simp] theorem Ctx.kset_bkaddr (x : Ctx) (r : KReg) (w : Cap) : (x.kset r w).bkaddr = x.bkaddr := rfl
@[simp] theorem Ctx.kset_bken (x : Ctx) (r : KReg) (w : Cap) : (x.kset r w).bken = x.bken := rfl
@[simp] theorem Ctx.kset_bkskip (x : Ctx) (r : KReg) (w : Cap) : (x.kset r w).bkskip = x.bkskip := rfl
@[simp] theorem Ctx.kset_floor (x : Ctx) (r : KReg) (w : Cap) : (x.kset r w).floor = x.floor := rfl
@[simp] theorem Ctx.kset_stack (x : Ctx) (r : KReg) (w : Cap) : (x.kset r w).stack = x.stack := rfl
@[simp] theorem Ctx.kset_held (x : Ctx) (r : KReg) (w : Cap) : (x.kset r w).held = x.held := rfl
@[simp] theorem Ctx.kset_alarm (x : Ctx) (r : KReg) (w : Cap) : (x.kset r w).alarm = x.alarm := rfl
@[simp] theorem Ctx.kset_alarmPending (x : Ctx) (r : KReg) (w : Cap) : (x.kset r w).alarmPending = x.alarmPending := rfl
@[simp] theorem Ctx.kset_deadline (x : Ctx) (r : KReg) (w : Cap) : (x.kset r w).deadline = x.deadline := rfl
@[simp] theorem Ctx.kset_coaches (x : Ctx) (r : KReg) (w : Cap) : (x.kset r w).coaches = x.coaches := rfl
@[simp] theorem Ctx.kset_retired (x : Ctx) (r : KReg) (w : Cap) : (x.kset r w).retired = x.retired := rfl
@[simp] theorem Ctx.kset_pclass (x : Ctx) (r : KReg) (w : Cap) : (x.kset r w).pclass = x.pclass := rfl
@[simp] theorem Ctx.kset_longOps (x : Ctx) (r : KReg) (w : Cap) : (x.kset r w).longOps = x.longOps := rfl
@[simp] theorem Ctx.kset_routine (x : Ctx) (r : KReg) (w : Cap) : (x.kset r w).routine = x.routine := rfl
@[simp] theorem Ctx.kset_pendRet (x : Ctx) (r : KReg) (w : Cap) : (x.kset r w).pendRet = x.pendRet := rfl
@[simp] theorem Ctx.kset_pendAsync (x : Ctx) (r : KReg) (w : Cap) : (x.kset r w).pendAsync = x.pendAsync := rfl
@[simp] theorem Ctx.kset_restartPend (x : Ctx) (r : KReg) (w : Cap) : (x.kset r w).restartPend = x.restartPend := rfl
@[simp] theorem Ctx.kset_wEret (x : Ctx) (r : KReg) (w : Cap) : (x.kset r w).wEret = x.wEret := rfl
@[simp] theorem Ctx.kset_wCause (x : Ctx) (r : KReg) (w : Cap) : (x.kset r w).wCause = x.wCause := rfl
@[simp] theorem Ctx.kset_wReason (x : Ctx) (r : KReg) (w : Cap) : (x.kset r w).wReason = x.wReason := rfl
@[simp] theorem Ctx.kset_wCount (x : Ctx) (r : KReg) (w : Cap) : (x.kset r w).wCount = x.wCount := rfl
@[simp] theorem Ctx.kset_wAddr (x : Ctx) (r : KReg) (w : Cap) : (x.kset r w).wAddr = x.wAddr := rfl
@[simp] theorem Ctx.kset_history (x : Ctx) (r : KReg) (w : Cap) : (x.kset r w).history = x.history := rfl
@[simp] theorem Ctx.kset_retStack (x : Ctx) (r : KReg) (w : Cap) : (x.kset r w).retStack = x.retStack := rfl
@[simp] theorem Ctx.kset_retTop (x : Ctx) (r : KReg) (w : Cap) : (x.kset r w).retTop = x.retTop := rfl
@[simp] theorem Ctx.kset_checks (x : Ctx) (r : KReg) (w : Cap) : (x.kset r w).checks = x.checks := rfl
@[simp] theorem Ctx.kset_early (x : Ctx) (r : KReg) (w : Cap) : (x.kset r w).early = x.early := rfl
@[simp] theorem Ctx.kset_invalT (x : Ctx) (r : KReg) (w : Cap) : (x.kset r w).invalT = x.invalT := rfl
@[simp] theorem Ctx.kset_invalW (x : Ctx) (r : KReg) (w : Cap) : (x.kset r w).invalW = x.invalW := rfl

@[simp] theorem Ctx.count_run (x : Ctx) : (x.count).run = x.run := rfl
@[simp] theorem Ctx.count_g (x : Ctx) : (x.count).g = x.g := rfl
@[simp] theorem Ctx.count_k (x : Ctx) : (x.count).k = x.k := rfl
@[simp] theorem Ctx.count_pcc (x : Ctx) : (x.count).pcc = x.pcc := rfl
@[simp] theorem Ctx.count_esc (x : Ctx) : (x.count).esc = x.esc := rfl
@[simp] theorem Ctx.count_evc (x : Ctx) : (x.count).evc = x.evc := rfl
@[simp] theorem Ctx.count_n (x : Ctx) : (x.count).n = x.n := rfl
@[simp] theorem Ctx.count_z (x : Ctx) : (x.count).z = x.z := rfl
@[simp] theorem Ctx.count_c (x : Ctx) : (x.count).c = x.c := rfl
@[simp] theorem Ctx.count_v (x : Ctx) : (x.count).v = x.v := rfl
@[simp] theorem Ctx.count_dl (x : Ctx) : (x.count).dl = x.dl := rfl
@[simp] theorem Ctx.count_fpstat (x : Ctx) : (x.count).fpstat = x.fpstat := rfl
@[simp] theorem Ctx.count_bd (x : Ctx) : (x.count).bd = x.bd := rfl
@[simp] theorem Ctx.count_bkaddr (x : Ctx) : (x.count).bkaddr = x.bkaddr := rfl
@[simp] theorem Ctx.count_bken (x : Ctx) : (x.count).bken = x.bken := rfl
@[simp] theorem Ctx.count_bkskip (x : Ctx) : (x.count).bkskip = x.bkskip := rfl
@[simp] theorem Ctx.count_floor (x : Ctx) : (x.count).floor = x.floor := rfl
@[simp] theorem Ctx.count_stack (x : Ctx) : (x.count).stack = x.stack := rfl
@[simp] theorem Ctx.count_held (x : Ctx) : (x.count).held = x.held := rfl
@[simp] theorem Ctx.count_alarm (x : Ctx) : (x.count).alarm = x.alarm := rfl
@[simp] theorem Ctx.count_alarmPending (x : Ctx) : (x.count).alarmPending = x.alarmPending := rfl
@[simp] theorem Ctx.count_deadline (x : Ctx) : (x.count).deadline = x.deadline := rfl
@[simp] theorem Ctx.count_coaches (x : Ctx) : (x.count).coaches = x.coaches := rfl
@[simp] theorem Ctx.count_pclass (x : Ctx) : (x.count).pclass = x.pclass := rfl
@[simp] theorem Ctx.count_longOps (x : Ctx) : (x.count).longOps = x.longOps := rfl
@[simp] theorem Ctx.count_routine (x : Ctx) : (x.count).routine = x.routine := rfl
@[simp] theorem Ctx.count_pendRet (x : Ctx) : (x.count).pendRet = x.pendRet := rfl
@[simp] theorem Ctx.count_pendAsync (x : Ctx) : (x.count).pendAsync = x.pendAsync := rfl
@[simp] theorem Ctx.count_restartPend (x : Ctx) : (x.count).restartPend = x.restartPend := rfl
@[simp] theorem Ctx.count_wEret (x : Ctx) : (x.count).wEret = x.wEret := rfl
@[simp] theorem Ctx.count_wCause (x : Ctx) : (x.count).wCause = x.wCause := rfl
@[simp] theorem Ctx.count_wReason (x : Ctx) : (x.count).wReason = x.wReason := rfl
@[simp] theorem Ctx.count_wCount (x : Ctx) : (x.count).wCount = x.wCount := rfl
@[simp] theorem Ctx.count_wAddr (x : Ctx) : (x.count).wAddr = x.wAddr := rfl
@[simp] theorem Ctx.count_history (x : Ctx) : (x.count).history = x.history := rfl
@[simp] theorem Ctx.count_retStack (x : Ctx) : (x.count).retStack = x.retStack := rfl
@[simp] theorem Ctx.count_retTop (x : Ctx) : (x.count).retTop = x.retTop := rfl
@[simp] theorem Ctx.count_checks (x : Ctx) : (x.count).checks = x.checks := rfl
@[simp] theorem Ctx.count_early (x : Ctx) : (x.count).early = x.early := rfl
@[simp] theorem Ctx.count_invalT (x : Ctx) : (x.count).invalT = x.invalT := rfl
@[simp] theorem Ctx.count_invalW (x : Ctx) : (x.count).invalW = x.invalW := rfl

@[simp] theorem Ctx.withNzcv_run (x : Ctx) (f : Nzcv) : (x.withNzcv f).run = x.run := rfl
@[simp] theorem Ctx.withNzcv_g (x : Ctx) (f : Nzcv) : (x.withNzcv f).g = x.g := rfl
@[simp] theorem Ctx.withNzcv_k (x : Ctx) (f : Nzcv) : (x.withNzcv f).k = x.k := rfl
@[simp] theorem Ctx.withNzcv_pcc (x : Ctx) (f : Nzcv) : (x.withNzcv f).pcc = x.pcc := rfl
@[simp] theorem Ctx.withNzcv_esc (x : Ctx) (f : Nzcv) : (x.withNzcv f).esc = x.esc := rfl
@[simp] theorem Ctx.withNzcv_evc (x : Ctx) (f : Nzcv) : (x.withNzcv f).evc = x.evc := rfl
@[simp] theorem Ctx.withNzcv_dl (x : Ctx) (f : Nzcv) : (x.withNzcv f).dl = x.dl := rfl
@[simp] theorem Ctx.withNzcv_fpstat (x : Ctx) (f : Nzcv) : (x.withNzcv f).fpstat = x.fpstat := rfl
@[simp] theorem Ctx.withNzcv_bd (x : Ctx) (f : Nzcv) : (x.withNzcv f).bd = x.bd := rfl
@[simp] theorem Ctx.withNzcv_bkaddr (x : Ctx) (f : Nzcv) : (x.withNzcv f).bkaddr = x.bkaddr := rfl
@[simp] theorem Ctx.withNzcv_bken (x : Ctx) (f : Nzcv) : (x.withNzcv f).bken = x.bken := rfl
@[simp] theorem Ctx.withNzcv_bkskip (x : Ctx) (f : Nzcv) : (x.withNzcv f).bkskip = x.bkskip := rfl
@[simp] theorem Ctx.withNzcv_floor (x : Ctx) (f : Nzcv) : (x.withNzcv f).floor = x.floor := rfl
@[simp] theorem Ctx.withNzcv_stack (x : Ctx) (f : Nzcv) : (x.withNzcv f).stack = x.stack := rfl
@[simp] theorem Ctx.withNzcv_held (x : Ctx) (f : Nzcv) : (x.withNzcv f).held = x.held := rfl
@[simp] theorem Ctx.withNzcv_alarm (x : Ctx) (f : Nzcv) : (x.withNzcv f).alarm = x.alarm := rfl
@[simp] theorem Ctx.withNzcv_alarmPending (x : Ctx) (f : Nzcv) : (x.withNzcv f).alarmPending = x.alarmPending := rfl
@[simp] theorem Ctx.withNzcv_deadline (x : Ctx) (f : Nzcv) : (x.withNzcv f).deadline = x.deadline := rfl
@[simp] theorem Ctx.withNzcv_coaches (x : Ctx) (f : Nzcv) : (x.withNzcv f).coaches = x.coaches := rfl
@[simp] theorem Ctx.withNzcv_retired (x : Ctx) (f : Nzcv) : (x.withNzcv f).retired = x.retired := rfl
@[simp] theorem Ctx.withNzcv_pclass (x : Ctx) (f : Nzcv) : (x.withNzcv f).pclass = x.pclass := rfl
@[simp] theorem Ctx.withNzcv_longOps (x : Ctx) (f : Nzcv) : (x.withNzcv f).longOps = x.longOps := rfl
@[simp] theorem Ctx.withNzcv_routine (x : Ctx) (f : Nzcv) : (x.withNzcv f).routine = x.routine := rfl
@[simp] theorem Ctx.withNzcv_pendRet (x : Ctx) (f : Nzcv) : (x.withNzcv f).pendRet = x.pendRet := rfl
@[simp] theorem Ctx.withNzcv_pendAsync (x : Ctx) (f : Nzcv) : (x.withNzcv f).pendAsync = x.pendAsync := rfl
@[simp] theorem Ctx.withNzcv_restartPend (x : Ctx) (f : Nzcv) : (x.withNzcv f).restartPend = x.restartPend := rfl
@[simp] theorem Ctx.withNzcv_wEret (x : Ctx) (f : Nzcv) : (x.withNzcv f).wEret = x.wEret := rfl
@[simp] theorem Ctx.withNzcv_wCause (x : Ctx) (f : Nzcv) : (x.withNzcv f).wCause = x.wCause := rfl
@[simp] theorem Ctx.withNzcv_wReason (x : Ctx) (f : Nzcv) : (x.withNzcv f).wReason = x.wReason := rfl
@[simp] theorem Ctx.withNzcv_wCount (x : Ctx) (f : Nzcv) : (x.withNzcv f).wCount = x.wCount := rfl
@[simp] theorem Ctx.withNzcv_wAddr (x : Ctx) (f : Nzcv) : (x.withNzcv f).wAddr = x.wAddr := rfl
@[simp] theorem Ctx.withNzcv_history (x : Ctx) (f : Nzcv) : (x.withNzcv f).history = x.history := rfl
@[simp] theorem Ctx.withNzcv_retStack (x : Ctx) (f : Nzcv) : (x.withNzcv f).retStack = x.retStack := rfl
@[simp] theorem Ctx.withNzcv_retTop (x : Ctx) (f : Nzcv) : (x.withNzcv f).retTop = x.retTop := rfl
@[simp] theorem Ctx.withNzcv_checks (x : Ctx) (f : Nzcv) : (x.withNzcv f).checks = x.checks := rfl
@[simp] theorem Ctx.withNzcv_early (x : Ctx) (f : Nzcv) : (x.withNzcv f).early = x.early := rfl
@[simp] theorem Ctx.withNzcv_invalT (x : Ctx) (f : Nzcv) : (x.withNzcv f).invalT = x.invalT := rfl
@[simp] theorem Ctx.withNzcv_invalW (x : Ctx) (f : Nzcv) : (x.withNzcv f).invalW = x.invalW := rfl

end Sys2Proof.Machine
end

