-- ==== Sys2Proof/Laws/Issue.lean ====
section
/-!
SUPPORT. What the issue of an instruction comes to, once its fetch has passed.
-/

set_option Elab.async false

namespace Sys2Proof.Machine

open Sys2Proof Sys2Proof.Safety

/-- A fetch changes no unit but the memory, the cores' translations, the error records and the free values. -/
theorem fetch_units (s : State) (n len : Nat) : SameUnits s (s.fetch n len).2 := by
  have h := State.fetch_still s n len
  simp only [State.still_eq, Prod.mk.injEq] at h
  generalize (s.fetch n len).2 = t at h
  obtain ⟨h1, h2, h3, h4, h5, h6, h7, h8, h9, h10, h11, h12, h13, h14, h15, h16⟩ := h
  cases t
  simp only at h1 h2 h3 h4 h5 h6 h7 h8 h9 h10 h11 h12 h13 h14 h15 h16
  subst h1 h2 h3 h4 h5 h6 h7 h8 h9 h10 h11 h12 h13 h14 h15 h16
  rfl

/-- A fetch changes no context. -/
theorem fetched_ctxs {h : Hd} {s t : State} (f : Fetched h s t) : t.ctxs = s.ctxs := by
  have := fetch_units s h.ctx h.len
  rw [f.2.2.2.2.2.2.1] at this
  unfold SameUnits at this
  dsimp only at this
  rw [this]

theorem fetched_ctx {h : Hd} {s t : State} (f : Fetched h s t) (m : Nat) : t.ctx m = s.ctx m := by
  unfold State.ctx; rw [fetched_ctxs f]

/-- Without hardware errors no core is still to be offlined. -/
theorem unharmed_noStop {s : State} (h : Unharmed s) : NoStop s := fun e he => (h.2 e he).1

/-- An entry of a table is the default or one of those listed. -/
theorem tget_mem {α : Type} (d : α) (t : Tbl α) (k : Nat) : tget d t k = d ∨ (k, tget d t k) ∈ t := by
  induction t with
  | nil => exact .inl rfl
  | cons e t ih =>
    obtain ⟨j, w⟩ := e
    unfold tget
    split
    · rename_i hj; rw [hj]; exact .inr (.head _)
    · exact ih.imp_right (.tail _)

/-- With no core to be offlined an instruction of any context goes on. -/
theorem noStop_stopping {s : State} (h : NoStop s) (n : Nat) : s.stopping n = false := by
  unfold State.stopping State.core
  rcases tget_mem ({} : Core) s.cores (coreOf n) with e | e
  · rw [e]; rfl
  · rw [h _ e]; rfl

/-- With no core to be offlined none is offlined. -/
theorem noStop_stopCores {s : State} (h : NoStop s) : s.stopCores = s := by
  unfold State.stopCores
  rw [if_pos]
  rw [List.all_eq_true]
  exact fun e he => by rw [h e he]; rfl

/-- Whether a core is to be offlined is a matter of the cores alone. -/
theorem noStop_congr {s u : State} (h : NoStop s) (e : u.cores = s.cores) : NoStop u := by
  unfold NoStop; rw [e]; exact h

/-- At a boundary where nothing waits no exception is taken. -/
theorem boundary_none {s : State} {n : Nat} (h : s.boundaryDue n = false) : s.boundary n = none := by
  unfold State.boundaryDue at h
  simp only [Bool.or_eq_false_iff, Bool.not_eq_false', List.isEmpty_iff] at h
  unfold State.boundary
  simp [h.1, h.2]

/-- With no long operation in flight there is none to wait for. -/
theorem settleFor_none {s : State} {n : Nat} (h : (s.ctx n).longOps = []) (pc : Word) (d : Deps) : s.settleFor n pc d = (none, s) := by
  simp [State.settleFor, h]

/-- What an instruction comes to when its fetch passes, before cores are offlined (R118, R140). -/
theorem issueHere_fetched {h : Hd} {s t : State} (f : Fetched h s t) (ok al mi : Bool) (d : Deps) (body : State → Eff) :
    s.issueHere h ok al mi d body = if ok then t.runIf h al body else t.takeExc h.ctx (t.exc h.ctx 1) := by
  have hc := fetched_ctx f h.ctx
  obtain ⟨-, h0, -, h2, h3, h4, h5, -⟩ := f
  unfold State.issueHere
  dsimp only
  rw [boundary_none h2]
  dsimp only
  rw [settleFor_none h3]
  dsimp only
  rw [noStop_stopping (unharmed_noStop h0), h5]
  dsimp only
  cases ok
  · rfl
  · simp only [Bool.not_true, Bool.false_eq_true, if_false, if_true]
    rw [hc]
    unfold NoReturn at h4
    cases hp : (s.ctx h.ctx).pendRet with
    | none => rfl
    | some p => simp [(h4 p hp).2]

/-- What issue comes to for an instruction whose fetch passes. -/
theorem issue_fetched {h : Hd} {s t : State} (f : Fetched h s t) (al mi : Bool) (d : Deps) (body : State → Eff) :
    s.issue h true al mi d body = (t.runIf h al body).stopCores := by
  have e := issueHere_fetched f true al mi d body
  unfold State.issue
  simp only [f.1, State.strike, List.foldl_nil, f.2.2.1, Bool.not_true, Bool.false_eq_true, if_false, e, if_true]

/-- An ill-formed instruction raises Illegal once it is fetched (R118). -/
theorem issue_ill {h : Hd} {s t : State} (f : Fetched h s t) (al mi : Bool) (d : Deps) (body : State → Eff) :
    s.issue h false al mi d body = (t.takeExc h.ctx (t.exc h.ctx 1)).stopCores := by
  have e := issueHere_fetched f false al mi d body
  unfold State.issue
  simp only [f.1, State.strike, List.foldl_nil, f.2.2.1, Bool.not_true, Bool.false_eq_true, if_false, e]

/-- With nothing in flight, taking an exception is entering it. -/
theorem takeExc_plain {t : State} {n : Nat} (h : (t.ctx n).longOps = []) (e : Exc) : t.takeExc n e = t.enter n e := by
  simp [State.takeExc, State.settleAll, State.finishHead, h]

/-- An instruction whose condition is true has its effect. -/
theorem runIf_true {h : Hd} {s t : State} (f : Fetched h s t) (al : Bool) (body : State → Eff)
    (c : condHolds h.cond (s.ctx h.ctx) = true) :
    t.runIf h al body = State.finish h.ctx (s.ctx h.ctx).pcc.cursor h.len (body t) := by
  unfold State.runIf
  dsimp only
  rw [fetched_ctx f, c]
  simp

/-- An instruction that ERET does not run alone, and whose condition is false, only retires. -/
theorem runIf_false {h : Hd} {s t : State} (f : Fetched h s t) (body : State → Eff) (c : condHolds h.cond (s.ctx h.ctx) = false) :
    t.runIf h false body = t.retireTo h.ctx (nextAddr h s) := by
  have h4 := f.2.2.2.2.2.1
  unfold State.runIf
  dsimp only
  rw [fetched_ctx f, c]
  unfold NoReturn at h4
  cases hp : (s.ctx h.ctx).pendRet with
  | none => rfl
  | some p => simp [(h4 p hp).1, (h4 p hp).2, nextAddr]

/-- The next address after an instruction that ERET does not run alone (R281 step 7). -/
theorem noReturn_after {s : State} {n : Nat} (h : NoReturn s n) (a : Word) : (s.ctx n).after a = a := by
  unfold NoReturn at h
  unfold Ctx.after
  cases hp : (s.ctx n).pendRet with
  | none => rfl
  | some p => simp [(h p hp).1]

/-- Retiring to `a` with no return pending (R192). -/
theorem retireTo_ctx (s : State) (n : Nat) (a : Word) (h : (s.ctx n).after a = a) :
    OnlyCtx s (s.retireTo n a) n (retired (s.ctx n) a) := by
  refine ⟨?_, fun m hm => ?_, rfl⟩
  · simp only [State.retireTo, State.modCtx_ctx, if_true, retired, Ctx.count, h]
  · simp [State.retireTo, hm]

/-- The context that an effect wrote is the only one that changed. -/
theorem onlyCtx_set {t u : State} {n : Nat} {c d : Ctx} (h : OnlyCtx (t.setCtx n d) u n c) : OnlyCtx t u n c := by
  refine ⟨h.1, fun m hm => ?_, ?_⟩
  · rw [h.2.1 m hm]; simp [hm]
  · rw [h.2.2]; rfl

/-- A context changes alone while no core is to be offlined: none is. -/
theorem onlyCtx_stopCores {t u : State} {n : Nat} {c : Ctx} (h : OnlyCtx t u n c) (ht : NoStop t) : OnlyCtx t u.stopCores n c := by
  rw [noStop_stopCores (noStop_congr ht (by rw [h.2.2]))]; exact h

/-- An effect that writes the context of its instruction alone retires with it. -/
theorem finish_retire {h : Hd} {s t : State} (ht : NoStop t) (c : Ctx) (hp : c.after (nextAddr h s) = nextAddr h s) :
    OnlyCtx t (State.finish h.ctx (s.ctx h.ctx).pcc.cursor h.len (.retire (t.setCtx h.ctx c))) h.ctx (retired c (nextAddr h s)) := by
  apply onlyCtx_set (d := c)
  have hs : (t.setCtx h.ctx c).stopping h.ctx = false := noStop_stopping (noStop_congr (u := t.setCtx h.ctx c) ht rfl) _
  have := retireTo_ctx (t.setCtx h.ctx c) h.ctx (nextAddr h s) (by simpa using hp)
  rw [State.setCtx_ctx, if_pos rfl] at this
  unfold State.finish
  rw [show (Eff.retire (t.setCtx h.ctx c)).state = t.setCtx h.ctx c from rfl, hs]
  exact this

end Sys2Proof.Machine
end

