-- ==== Sys2Proof/Laws/Memory.lean ====
section
/-!
SUPPORT. The canonical form of memory: its words and its poisoned lines are sparse tables in canonical form, and what a scratch bank
keeps of the DRAM beneath it lies in the bank's range. Every memory operation keeps the form, and the memory of reset has it.
-/

namespace Sys2Proof.Machine

open Sys2Proof

/-- What a scratch bank that is a home keeps is a canonical table of words and one of poisoned lines, both in its range; a bank that is
no home keeps nothing. -/
def ScBank.wf (k : ScBank) : Bool :=
  (k.live || (k.snap.isEmpty && k.snapBad.isEmpty))
    && (twf {} k.snap && k.snap.all (fun e => decide (scratchLo k.range ≤ e.1) && decide (e.1 < scratchLo (k.range + 1))))
    && (twf false k.snapBad && k.snapBad.all (fun e => decide (32768 * k.range ≤ e.1) && decide (e.1 < 32768 * (k.range + 1))))

/-- The canonical form of memory. -/
def Memory.wf (m : Mem) : Bool := twf {} m.mem && twf false m.poison && m.scBank.all (fun e => e.2.wf)

theorem Memory.wf_default : Memory.wf {} = true := by decide

theorem foldl_wf {α : Type} (f : Mem → α → Mem) (hf : ∀ m a, Memory.wf m = true → Memory.wf (f m a) = true) (l : List α) (m : Mem)
    (h : Memory.wf m = true) : Memory.wf (l.foldl f m) = true := by
  induction l generalizing m with
  | nil => exact h
  | cons a t ih => exact ih _ (hf m a h)

/-! ### Words, lines and poison -/

theorem Mem.put_wf (m : Mem) (w : Nat) (v : MWord) (h : Memory.wf m = true) : Memory.wf (m.put w v) = true := by
  simp only [Memory.wf, Bool.and_eq_true] at h ⊢
  exact ⟨⟨twf_tset _ _ _ _ h.1.1, h.1.2⟩, h.2⟩
theorem Memory.wf_poison (m : Mem) (l : Nat) (b : Bool) (h : Memory.wf m = true) :
    Memory.wf { m with poison := tset false m.poison l b } = true := by
  simp only [Memory.wf, Bool.and_eq_true] at h ⊢
  exact ⟨⟨h.1.1, twf_tset _ _ _ _ h.1.2⟩, h.2⟩
theorem Mem.putLine_wf (m : Mem) (l : Nat) (ws : List MWord) (h : Memory.wf m = true) : Memory.wf (m.putLine l ws) = true :=
  foldl_wf _ (fun m _ h => Mem.put_wf m _ _ h) _ _ h
theorem Mem.putLine_poison (m : Mem) (l : Nat) (ws : List MWord) : (m.putLine l ws).poison = m.poison := by
  have h (l1 : List (MWord × Nat)) (m : Mem) : (l1.foldl (fun (m : Mem) e => m.put (12 * l + e.2) e.1) m).poison = m.poison := by
    induction l1 generalizing m with
    | nil => rfl
    | cons a t ih => exact ih _
  exact h _ m
theorem Mem.setNow_wf (m : Mem) (l : Nat) (x : Home) (h : Memory.wf m = true) : Memory.wf (m.setNow l x) = true := by
  have h1 := Memory.wf_poison _ l x.bad (Mem.putLine_wf m l x.words h)
  rw [Mem.putLine_poison] at h1
  exact h1
theorem Mem.poisonLine_wf (m : Mem) (l : Nat) (h : Memory.wf m = true) : Memory.wf (m.poisonLine l) = true := Mem.setNow_wf m l _ h
theorem Mem.putByte_wf (m : Mem) (pa : Nat) (b : Byte) (h : Memory.wf m = true) : Memory.wf (m.putByte pa b) = true :=
  Mem.put_wf m _ _ h
theorem Mem.note_wf (m : Mem) (x : MemNote) (h : Memory.wf m = true) : Memory.wf (m.note x) = true := h
theorem Mem.dropUps_wf (m : Mem) (l : Nat) (p : Upset → Bool) (h : Memory.wf m = true) : Memory.wf (m.dropUps l p) = true := h
theorem Mem.markDirty_wf (m : Mem) (l : Nat) (h : Memory.wf m = true) : Memory.wf (m.markDirty l) = true := by
  unfold Mem.markDirty; split <;> exact h
theorem Mem.sysCheck_wf (m : Mem) (a : Asker) (l : Nat) (h : Memory.wf m = true) : Memory.wf (m.sysCheck a l).2 = true := by
  unfold Mem.sysCheck; split <;> exact h

/-! ### Homes -/

theorem Mem.setHome_wf (m : Mem) (l : Nat) (x : Home) (h : Memory.wf m = true) : Memory.wf (m.setHome l x) = true := by
  unfold Mem.setHome
  split
  · exact h
  · exact Mem.setNow_wf m l x h
theorem Mem.readHome_wf (m : Mem) (a : Asker) (l : Nat) (h : Memory.wf m = true) : Memory.wf (m.readHome a l).2 = true := by
  have hs := Mem.sysCheck_wf m a l h
  have hn : Memory.wf ((if m.hasUp l .link then (m.dropUps l (fun u => decide (u = .link))).note (.link l) else m).note (.read l)) = true := by
    split <;> exact h
  unfold Mem.readHome
  dsimp only
  generalize (if m.hasUp l .link then (m.dropUps l (fun u => decide (u = .link))).note (.link l) else m).note (.read l) = n at hn ⊢
  split
  · split
    · exact Mem.setHome_wf _ l _ hs
    · exact hs
  split
  · exact Mem.setHome_wf m l _ h
  split
  · exact Mem.setHome_wf n l _ hn
  · split <;> exact hn
  · split <;> exact hn
theorem Mem.writeHome_wf (m : Mem) (l : Nat) (x : Home) (h : Memory.wf m = true) : Memory.wf (m.writeHome l x) = true := by
  unfold Mem.writeHome
  split
  · exact Mem.setHome_wf (m.dropUps l Upset.isSys) l x h
  split
  · exact h
  · exact Mem.setHome_wf (m.dropUps l Upset.isDram) l x h
theorem Mem.writeBack_wf (m : Mem) (l : Nat) (h : Memory.wf m = true) : Memory.wf (m.writeBack l) = true :=
  Mem.writeHome_wf m l _ h
theorem Mem.discard_wf (m : Mem) (l : Nat) (h : Memory.wf m = true) : Memory.wf (m.discard l) = true := by
  unfold Mem.discard
  split
  · rename_i x _
    exact Mem.setNow_wf m l x h
  · exact h
theorem Mem.tidy_wf (m : Mem) (l : Nat) (h : Memory.wf m = true) : Memory.wf (m.tidy l) = true := by
  unfold Mem.tidy
  split
  · exact h
  · rename_i x _
    exact Mem.setNow_wf m l ⟨(m.line l).zipIdx.map (fun e => { e.1 with tag := (x.words.getD e.2 {}).tag }), x.bad⟩ h
theorem Mem.wayHome_wf (m : Mem) (a : Asker) (l : Nat) (h : Memory.wf m = true) : Memory.wf (m.wayHome a l) = true := by
  have hs := Mem.sysCheck_wf m a l h
  unfold Mem.wayHome
  dsimp only
  split
  · exact Mem.writeHome_wf _ l _ hs
  split
  · split
    · exact Mem.writeBack_wf _ l (Mem.poisonLine_wf _ l hs)
    · exact Mem.writeHome_wf _ l _ hs
  · exact Mem.writeBack_wf _ l hs

/-! ### System cache -/

theorem Mem.sysEvict_wf (m : Mem) (a : Asker) (w : Way) (h : Memory.wf m = true) : Memory.wf (m.sysEvict a w) = true := by
  unfold Mem.sysEvict
  split
  · exact Mem.tidy_wf _ _ (Mem.wayHome_wf m a _ h)
  · exact Mem.tidy_wf (m.dropUps _ _) _ h
theorem Mem.sysFill_wf (m : Mem) (a : Asker) (l : Nat) (d st : Bool) (h : Memory.wf m = true) : Memory.wf (m.sysFill a l d st) = true := by
  unfold Mem.sysFill
  dsimp only
  split
  · split <;> exact h
  · split
    · split
      · exact Mem.writeBack_wf m l h
      · exact h
    · split
      · exact Mem.sysEvict_wf { m with sys := _ } a _ h
      · exact h
theorem Mem.fromSlice_wf (m : Mem) (a : Asker) (l : Nat) (st : Bool) (h : Memory.wf m = true) : Memory.wf (m.fromSlice a l st) = true := by
  have hs := Mem.sysCheck_wf m a l h
  have hr := Mem.readHome_wf m a l h
  unfold Mem.fromSlice
  split
  · refine Mem.sysFill_wf _ a l false st ?_
    split
    · exact Mem.poisonLine_wf _ l (Mem.markDirty_wf _ l hs)
    · exact hs
  · refine Mem.sysFill_wf _ a l false st ?_
    split
    · exact Mem.poisonLine_wf _ l hr
    · exact hr

/-! ### Scratch banks -/

theorem tget_all {α : Type} (p : α → Bool) (d : α) (hd : p d = true) (t : Tbl α) (h : t.all (fun e => p e.2) = true) (k : Nat) :
    p (tget d t k) = true := by
  induction t with
  | nil => exact hd
  | cons e t ih =>
    simp only [List.all_cons, Bool.and_eq_true] at h
    unfold tget
    split
    · exact h.1
    · exact ih h.2

theorem tset_all {α : Type} [DecidableEq α] (p : α → Bool) (d : α) (t : Tbl α) (h : t.all (fun e => p e.2) = true) (k : Nat) (v : α)
    (hv : p v = true) : (tset d t k v).all (fun e => p e.2) = true := by
  unfold tset
  split
  · simp only [List.all_eq_true] at h ⊢
    intro x hx
    exact h x (List.mem_filter.1 hx).1
  · induction t with
    | nil => simp [tput, hv]
    | cons e t ih =>
      simp only [List.all_cons, Bool.and_eq_true] at h
      unfold tput
      split
      · simpa [hv, h.1] using h.2
      split
      · simpa [hv] using h.2
      · simpa [h.1] using ih h.2

theorem Memory.wf_bank (m : Mem) (b : Nat) (k : ScBank) (h : Memory.wf m = true) (hk : k.wf = true) :
    Memory.wf { m with scBank := tset {} m.scBank b k } = true := by
  simp only [Memory.wf, Bool.and_eq_true] at h ⊢
  exact ⟨h.1, tset_all ScBank.wf {} _ h.2 b k hk⟩

theorem Memory.wf_getBank (m : Mem) (b : Nat) (h : Memory.wf m = true) : (tget {} m.scBank b).wf = true := by
  simp only [Memory.wf, Bool.and_eq_true] at h
  exact tget_all ScBank.wf {} (by decide) _ h.2 b

theorem Mem.setBank_wf {m : Mem} {b : Nat} {k : ScBank} (h : Memory.wf m = true) (hk : k.wf = true) :
    Memory.wf { m with scBank := tset {} m.scBank b k } = true := Memory.wf_bank m b k h hk

/-- A bank that keeps nothing has the form. -/
theorem ScBank.wf_empty (k : ScBank) (h1 : k.snap = []) (h2 : k.snapBad = []) : k.wf = true := by
  simp [ScBank.wf, h1, h2, twf, twfFrom]

/-- The form of a bank is about whether it is a home, its range, and what it keeps. -/
theorem ScBank.wf_congr {j k : ScBank} (h : k.wf = true) (h1 : j.live = k.live) (h2 : j.range = k.range) (h3 : j.snap = k.snap)
    (h4 : j.snapBad = k.snapBad) : j.wf = true := by
  unfold ScBank.wf at h ⊢
  rw [h1, h2, h3, h4]
  exact h

/-- A canonical table whose keys all satisfy `p`. -/
def TblIn {α : Type} [DecidableEq α] (d : α) (p : Nat → Bool) (t : Tbl α) : Prop := twf d t = true ∧ ∀ e ∈ t, p e.1 = true

theorem TblIn.tset {α : Type} [DecidableEq α] {d : α} {p : Nat → Bool} {t : Tbl α} (h : TblIn d p t) (k : Nat) (v : α) (hk : p k = true) :
    TblIn d p (tset d t k v) := by
  refine ⟨twf_tset d t k v h.1, ?_⟩
  have hp : ∀ t : Tbl α, (∀ e ∈ t, p e.1 = true) → ∀ e ∈ tput t k v, p e.1 = true := by
    intro t
    induction t with
    | nil => simp [tput, hk]
    | cons a t ih =>
      intro ht
      have ha := ht a (List.mem_cons_self ..)
      have htl : ∀ e ∈ t, p e.1 = true := fun e he => ht e (List.mem_cons_of_mem _ he)
      unfold tput
      split
      · intro e he
        rcases List.mem_cons.1 he with rfl | he
        · exact hk
        · exact ht e he
      split
      · intro e he
        rcases List.mem_cons.1 he with rfl | he
        · exact hk
        · exact htl e he
      · intro e he
        rcases List.mem_cons.1 he with rfl | he
        · exact ha
        · exact ih htl e he
  unfold Machine.tset
  split
  · exact fun e he => h.2 e (List.mem_filter.1 he).1
  · exact hp t h.2

theorem TblIn.foldl {α β : Type} [DecidableEq α] {d : α} {p : Nat → Bool} (f : Tbl α → β → Tbl α) (l : List β)
    (hf : ∀ t, ∀ b ∈ l, TblIn d p t → TblIn d p (f t b)) (t : Tbl α) (h : TblIn d p t) : TblIn d p (l.foldl f t) := by
  induction l generalizing t with
  | nil => exact h
  | cons b l ih =>
    exact ih (fun t c hc => hf t c (List.mem_cons_of_mem _ hc)) _ (hf t b (List.mem_cons_self ..) h)

theorem tableIn_in {α : Type} [DecidableEq α] (d : α) (t : Tbl α) (lo hi : Nat) (h : twf d t = true) :
    TblIn d (fun k => decide (lo ≤ k) && decide (k < hi)) (tableIn t lo hi) :=
  ⟨twfFrom_filter d t _ h, fun _ he => (List.mem_filter.1 he).2⟩

theorem Mem.homeWords_in (m : Mem) (base : Nat) (h : Memory.wf m = true) :
    TblIn {} (fun k => decide (scratchLo base ≤ k) && decide (k < scratchLo (base + 1))) (m.homeWords base) := by
  simp only [Memory.wf, Bool.and_eq_true] at h
  refine TblIn.foldl _ _ (fun t e he ht => ?_) _ (tableIn_in {} m.mem _ _ h.1.1)
  have hr := (List.mem_filter.1 he).2
  simp only [Bool.and_eq_true, decide_eq_true_eq] at hr
  split
  · refine TblIn.foldl _ _ (fun t i hi ht => ht.tset _ _ ?_) _ ht
    have := List.mem_range.1 hi
    show (decide (scratchLo base ≤ 12 * e.1 + i) && decide (12 * e.1 + i < scratchLo (base + 1))) = true
    unfold scratchLo
    exact Bool.and_eq_true_iff.2 ⟨decide_eq_true (by omega), decide_eq_true (by omega)⟩
  · exact ht

theorem Mem.homeBads_in (m : Mem) (base : Nat) (h : Memory.wf m = true) :
    TblIn false (fun k => decide (32768 * base ≤ k) && decide (k < 32768 * (base + 1))) (m.homeBads base) := by
  simp only [Memory.wf, Bool.and_eq_true] at h
  refine TblIn.foldl _ _ (fun t e he ht => ?_) _ (tableIn_in false m.poison _ _ h.1.2)
  have hr := (List.mem_filter.1 he).2
  split
  · exact ht.tset _ _ hr
  · exact ht

theorem Mem.bankEmpty_wf (m : Mem) (a : Asker) (b : Nat) (h : Memory.wf m = true) : Memory.wf (m.bankEmpty a b) = true :=
  foldl_wf _ (fun m e h => Mem.sysEvict_wf (m.setSysWay e.1 e.2.1 none) a e.2.2 h) _ m h

theorem Mem.bankRelease_wf (m : Mem) (a : Asker) (b : Nat) (h : Memory.wf m = true) : Memory.wf (m.bankRelease a b) = true :=
  foldl_wf _ (fun m l h => Mem.writeHome_wf m l _ h) _ _
    (Mem.setBank_wf (foldl_wf _ (fun m l h => Mem.readHome_wf m a l h) _ m h) (ScBank.wf_empty _ rfl rfl))

theorem Mem.bankTake_wf (m : Mem) (a : Asker) (b : Nat) (h : Memory.wf m = true) : Memory.wf (m.bankTake a b) = true := by
  have h1 := foldl_wf (fun (m : Mem) l => (m.readHome a l).2) (fun m l h => Mem.readHome_wf m a l h)
    (rangeLines (tget {} m.scBank b).base) _ (Mem.bankEmpty_wf m a b h)
  refine Mem.setBank_wf h1 ?_
  have hw := Mem.homeWords_in _ (tget {} m.scBank b).base h1
  have hb := Mem.homeBads_in _ (tget {} m.scBank b).base h1
  simp only [ScBank.wf, Bool.and_eq_true, List.all_eq_true, Bool.true_or, true_and]
  exact ⟨⟨hw.1, fun e he => by simpa using hw.2 e he⟩, ⟨hb.1, fun e he => by simpa using hb.2 e he⟩⟩

theorem Mem.bankDone_wf (m : Mem) (a : Asker) (b : Nat) (h : Memory.wf m = true) : Memory.wf (m.bankDone a b) = true := by
  have h1 : Memory.wf (if (tget {} m.scBank b).live then m.bankRelease a b else m) = true := by
    split
    · exact Mem.bankRelease_wf m a b h
    · exact h
  unfold Mem.bankDone
  dsimp only
  generalize (if (tget {} m.scBank b).live then m.bankRelease a b else m) = n at h1 ⊢
  have h2 : Memory.wf (if (tget {} n.scBank b).en then n.bankTake a b else n) = true := by
    split
    · exact Mem.bankTake_wf n a b h1
    · exact h1
  generalize (if (tget {} n.scBank b).en then n.bankTake a b else n) = x at h2 ⊢
  split
  · exact h
  · exact Mem.setBank_wf h2 (ScBank.wf_congr (Memory.wf_getBank x b h2) rfl rfl rfl rfl)

theorem Mem.bankWrite_wf (m : Mem) (pop b : Nat) (en : Bool) (base : Nat) (h : Memory.wf m = true) :
    Memory.wf (m.bankWrite pop b en base) = true := by
  have hk := Memory.wf_getBank m b h
  unfold Mem.bankWrite
  dsimp only
  split
  · exact h
  split
  · exact Mem.setBank_wf h (ScBank.wf_congr hk rfl rfl rfl rfl)
  · exact Mem.setBank_wf h (ScBank.wf_congr hk rfl rfl rfl rfl)

theorem Mem.bankLost_wf (m : Mem) (b : Nat) (h : Memory.wf m = true) : Memory.wf (m.bankLost b) = true := by
  have hk := Memory.wf_getBank m b h
  unfold Mem.bankLost
  dsimp only
  split
  · exact h
  · generalize tget {} m.scBank b = k at hk ⊢
    simp only [ScBank.wf, Bool.and_eq_true, List.all_eq_true, decide_eq_true_eq] at hk
    refine Memory.wf_bank { m with mem := _, poison := _ } b _ ?_ (ScBank.wf_empty _ rfl rfl)
    simp only [Memory.wf, Bool.and_eq_true] at h ⊢
    exact ⟨⟨twf_tsplice _ _ _ _ _ h.1.1 hk.1.2.1 hk.1.2.2 (by unfold scratchLo; omega),
      twf_tsplice _ _ _ _ _ h.1.2 hk.2.1 hk.2.2 (by omega)⟩, h.2⟩

theorem Mem.settle_wf (m : Mem) (a : Asker) (l : Nat) (h : Memory.wf m = true) : Memory.wf (m.settle a l) = true :=
  foldl_wf _ (fun m _ h => by split; exact Mem.bankDone_wf m a _ h; exact h) _ m h

/-! ### L1, L2 and the snoop filter -/

theorem Mem.l1Drop_wf (m : Mem) (k l : Nat) (x y : Bool) (h : Memory.wf m = true) : Memory.wf (m.l1Drop k l x y) = true := h
theorem Mem.l2SetState_wf (m : Mem) (cl l : Nat) (st : Mesi) (h : Memory.wf m = true) : Memory.wf (m.l2SetState cl l st) = true := by
  unfold Mem.l2SetState
  dsimp only
  split <;> exact h
theorem Mem.filterTidy_wf (m : Mem) (l : Nat) (h : Memory.wf m = true) : Memory.wf (m.filterTidy l) = true := by
  unfold Mem.filterTidy; split <;> exact h
theorem Mem.l2Drop_wf (m : Mem) (cl l : Nat) (h : Memory.wf m = true) : Memory.wf (m.l2Drop cl l) = true := by
  have h1 := foldl_wf (fun (m : Mem) k => m.l1Drop k l true true) (fun m k h => Mem.l1Drop_wf m k l true true h) (coresOf cl) m h
  unfold Mem.l2Drop
  dsimp only
  generalize List.foldl (fun (m : Mem) k => m.l1Drop k l true true) m (coresOf cl) = n at h1 ⊢
  exact Mem.filterTidy_wf { n.dropUps l (Upset.isL2 cl) with l2 := _ } l h1
theorem Mem.l2Check_wf (m : Mem) (cl l : Nat) (h : Memory.wf m = true) : Memory.wf (m.l2Check cl l) = true := by
  have h1 := Mem.dropUps_wf m l (Upset.isL2 cl) h
  unfold Mem.l2Check
  split
  · exact h
  split
  · split
    · exact Mem.note_wf _ _ (Mem.poisonLine_wf _ l h1)
    · exact Mem.note_wf _ _ (Mem.tidy_wf _ l (Mem.l2Drop_wf _ cl l h1))
  split
  · exact Mem.note_wf _ _ h1
  · exact h
theorem Mem.l2Lose_wf (m : Mem) (a : Asker) (cl l : Nat) (h : Memory.wf m = true) : Memory.wf (m.l2Lose a cl l) = true := by
  unfold Mem.l2Lose
  split
  · exact Mem.sysFill_wf _ a l true false (Mem.l2Drop_wf _ cl l (Mem.l2Check_wf m cl l h))
  · exact Mem.tidy_wf _ l (Mem.l2Drop_wf m cl l h)
theorem Mem.filterUse_wf (m : Mem) (a : Asker) (l : Nat) (h : Memory.wf m = true) : Memory.wf (m.filterUse a l) = true := by
  unfold Mem.filterUse
  dsimp only
  split
  · exact h
  split
  · exact h
  · split
    · exact foldl_wf (fun (m : Mem) cl => m.l2Lose a cl _) (fun m cl h => Mem.l2Lose_wf m a cl _ h) _ { m with filter := _ } h
    · exact h
theorem Mem.l2Place_wf (m : Mem) (a : Asker) (cl l : Nat) (st : Mesi) (b : Bool) (h : Memory.wf m = true) :
    Memory.wf (m.l2Place a cl l st b) = true := by
  unfold Mem.l2Place
  dsimp only
  split
  · exact h
  · split
    · exact Mem.l2Lose_wf { m with l2 := _ } a cl _ h
    · exact h
theorem Mem.l2CheckAll_wf (m : Mem) (l : Nat) (h : Memory.wf m = true) : Memory.wf (m.l2CheckAll l) = true :=
  foldl_wf _ (fun m o h => Mem.l2Check_wf m o l h) _ m h
theorem Mem.l2Share_wf (m : Mem) (a : Asker) (l : Nat) (b : Bool) (h : Memory.wf m = true) : Memory.wf (m.l2Share a l b) = true :=
  foldl_wf _ (fun m o h => by
    split
    · exact Mem.l2SetState_wf _ o l _ (Mem.sysFill_wf m a l true b h)
    · exact Mem.l2SetState_wf m o l _ h
    · exact h) _ m h
theorem Mem.l2Read_wf (m : Mem) (a : Asker) (cl l : Nat) (b : Bool) (h : Memory.wf m = true) : Memory.wf (m.l2Read a cl l b) = true := by
  have h1 := Mem.l2Check_wf _ cl l (Mem.settle_wf m a l h)
  unfold Mem.l2Read
  dsimp only
  split
  · exact h1
  · refine Mem.l2Place_wf _ a cl l _ b (Mem.filterUse_wf _ a l ?_)
    have h2 := Mem.l2CheckAll_wf _ l h1
    split
    · exact Mem.l2Share_wf _ a l b h2
    · exact Mem.fromSlice_wf _ a l b h2
theorem Mem.l2Own_wf (m : Mem) (a : Asker) (cl l : Nat) (b : Bool) (h : Memory.wf m = true) : Memory.wf (m.l2Own a cl l b) = true := by
  have h1 := Mem.l2CheckAll_wf _ l (Mem.settle_wf m a l h)
  unfold Mem.l2Own
  dsimp only
  generalize (m.settle a l).l2CheckAll l = n at h1 ⊢
  have h2 := foldl_wf (fun (m : Mem) o => m.l2Drop o l) (fun m o h => Mem.l2Drop_wf m o l h)
    ((n.l2Holders l).filter (fun o => decide (o ≠ cl))) n h1
  split
  · split
    · exact Mem.l2SetState_wf _ cl l _ (Mem.filterUse_wf _ a l h2)
    · exact h2
  · refine Mem.l2Place_wf _ a cl l _ b (Mem.filterUse_wf _ a l ?_)
    split
    · exact h2
    · exact Mem.fromSlice_wf _ a l b h2
theorem Mem.l2Dirty_wf (m : Mem) (cl l : Nat) (h : Memory.wf m = true) : Memory.wf (m.l2Dirty cl l) = true := by
  unfold Mem.l2Dirty
  dsimp only
  split
  · exact Mem.markDirty_wf m l h
  · refine Mem.l2SetState_wf _ cl l _ (Mem.markDirty_wf _ l ?_)
    split
    · split <;> exact h
    · exact h
theorem Mem.l1Read_wf (m : Mem) (a : Asker) (k l : Nat) (x b : Bool) (h : Memory.wf m = true) : Memory.wf (m.l1Read a k l x b) = true := by
  have h1 : Memory.wf ((m.settle a l).l1Check k l x) = true := by
    unfold Mem.l1Check
    split <;> exact Mem.settle_wf m a l h
  unfold Mem.l1Read
  dsimp only
  generalize (m.settle a l).l1Check k l x = n at h1 ⊢
  have hs : ∀ (n : Mem) (u : CacheSet), Memory.wf n = true → Memory.wf (n.setL1 k l x u) = true := by
    intro n u hn
    unfold Mem.setL1
    split <;> exact hn
  have h2 := Mem.l2Read_wf n a (k / 8) l b h1
  split
  · exact hs _ _ h1
  · split
    · exact h2
    · refine hs _ _ ?_
      split <;> exact h2
theorem Mem.l2Accept_wf (m : Mem) (k l : Nat) (h : Memory.wf m = true) : Memory.wf (m.l2Accept k l) = true :=
  Mem.l2Dirty_wf _ _ l (foldl_wf (fun (m : Mem) j => m.l1Drop j l true true) (fun m j h => Mem.l1Drop_wf m j l true true h) _ m h)

/-! ### Agents, maintenance and the merging buffer -/

theorem Mem.slicePull_wf (m : Mem) (a : Asker) (l : Nat) (h : Memory.wf m = true) : Memory.wf (m.slicePull a l) = true :=
  foldl_wf _ (fun m cl h => Mem.l2Lose_wf m a cl l h) _ m h
theorem Mem.putWordsAt_wf (m : Mem) (l : Nat) (ws : List (Nat × MWord)) (h : Memory.wf m = true) :
    Memory.wf (m.putWordsAt l ws) = true := by
  have h1 := foldl_wf (fun (m : Mem) e => m.put (12 * l + e.1) e.2) (fun m e h => Mem.put_wf m _ _ h) ws m h
  unfold Mem.putWordsAt
  dsimp only
  split
  · exact Memory.wf_poison _ _ _ h1
  · exact h1
theorem Mem.sliceWrite_wf (m : Mem) (a : Asker) (l : Nat) (ws : List (Nat × MWord)) (h : Memory.wf m = true) :
    Memory.wf (m.sliceWrite a l ws) = true := by
  have h1 := Mem.slicePull_wf _ a l (Mem.settle_wf m a l h)
  unfold Mem.sliceWrite
  dsimp only
  generalize (m.settle a l).slicePull a l = n at h1 ⊢
  have h2 : Memory.wf (if decide (12 ≤ ws.length) = true then (false, n)
      else if holds (tget [] n.sys (sysKey l)) l = true then n.sysCheck a l else n.readHome a l).2 = true := by
    split
    · exact h1
    split
    · exact Mem.sysCheck_wf n a l h1
    · exact Mem.readHome_wf n a l h1
  generalize (if decide (12 ≤ ws.length) = true then (false, n)
      else if holds (tget [] n.sys (sysKey l)) l = true then n.sysCheck a l else n.readHome a l) = r at h2 ⊢
  have h3 : Memory.wf (if r.1 then (r.2.markDirty l).poisonLine l else r.2) = true := by
    split
    · exact Mem.poisonLine_wf _ l (Mem.markDirty_wf _ l h2)
    · exact h2
  generalize (if r.1 then (r.2.markDirty l).poisonLine l else r.2) = x at h3 ⊢
  split
  · exact Mem.putWordsAt_wf _ l ws (Mem.sysFill_wf _ a l true false (Mem.markDirty_wf x l h3))
  · exact Mem.writeHome_wf x l _ h3
theorem Mem.sliceWriteData_wf (m : Mem) (a : Asker) (l : Nat) (ws : List (Nat × Word)) (h : Memory.wf m = true) :
    Memory.wf (m.sliceWriteData a l ws) = true := Mem.sliceWrite_wf m a l _ h
theorem Mem.sliceLines_wf (m : Mem) (a : Asker) (n l : Nat) (ws : List Word) (h : Memory.wf m = true) :
    Memory.wf (m.sliceLines a n l ws) = true := by
  induction n generalizing m l ws with
  | zero => exact h
  | succ n ih => exact ih _ _ _ (Mem.sliceWriteData_wf m a l _ h)
theorem Mem.sliceRead_wf (m : Mem) (a : Asker) (l : Nat) (h : Memory.wf m = true) : Memory.wf (m.sliceRead a l) = true := by
  have h1 := Mem.l2CheckAll_wf _ l (Mem.settle_wf m a l h)
  unfold Mem.sliceRead
  dsimp only
  generalize (m.settle a l).l2CheckAll l = n at h1 ⊢
  have hs := Mem.sysCheck_wf n a l h1
  have hr := Mem.readHome_wf n a l h1
  split
  · exact Mem.l2Share_wf n a l false h1
  split
  · split
    · exact Mem.poisonLine_wf _ l (Mem.markDirty_wf _ l hs)
    · exact hs
  · split
    · exact Mem.poisonLine_wf _ l hr
    · exact hr
theorem Mem.sysClean_wf (m : Mem) (l : Nat) (h : Memory.wf m = true) : Memory.wf (m.sysClean l) = true := by
  unfold Mem.sysClean; split <;> exact h
theorem Mem.cleanLine_wf (m : Mem) (a : Asker) (l : Nat) (h : Memory.wf m = true) : Memory.wf (m.cleanLine a l) = true := by
  have h1 := Mem.l2CheckAll_wf _ l (Mem.settle_wf m a l h)
  unfold Mem.cleanLine
  dsimp only
  generalize (m.settle a l).l2CheckAll l = n at h1 ⊢
  split
  · split
    · exact Mem.wayHome_wf _ a l (Mem.sysClean_wf n l h1)
    · exact h1
  · have h2 := foldl_wf (fun (m : Mem) o => m.l2SetState o l .e) (fun m o h => Mem.l2SetState_wf m o l .e h)
      ((n.l2Holders l).filter (fun o => decide (n.l2State o l = some .m))) n h1
    exact Mem.writeBack_wf (((List.foldl (fun (m : Mem) o => m.l2SetState o l .e) n _).sysClean l).dropUps l Upset.isSys) l
      (Mem.sysClean_wf _ l h2)
theorem Mem.invLine_wf (m : Mem) (a : Asker) (l : Nat) (h : Memory.wf m = true) : Memory.wf (m.invLine a l) = true := by
  have h1 := Mem.settle_wf m a l h
  unfold Mem.invLine
  dsimp only
  generalize m.settle a l = n at h1 ⊢
  have h2 := foldl_wf (fun (m : Mem) o => m.l2Drop o l) (fun m o h => Mem.l2Drop_wf m o l h) (n.l2Holders l) n h1
  exact Mem.discard_wf { (List.foldl (fun (m : Mem) o => m.l2Drop o l) n (n.l2Holders l)).dropUps l Upset.isSys with sys := _ } l h2
theorem Mem.cleanL2Way_wf (m : Mem) (a : Asker) (cl set way : Nat) (h : Memory.wf m = true) :
    Memory.wf (m.cleanL2Way a cl set way) = true := by
  unfold Mem.cleanL2Way
  split
  · split
    · exact Mem.cleanLine_wf m a _ h
    · exact h
  · exact h
theorem Mem.cleanSysWay_wf (m : Mem) (a : Asker) (slice set way : Nat) (h : Memory.wf m = true) :
    Memory.wf (m.cleanSysWay a slice set way) = true := by
  unfold Mem.cleanSysWay
  split
  · split
    · exact Mem.wayHome_wf (m.setSysWay _ _ _) a _ h
    · exact h
  · exact h
theorem Mem.applyEntry_wf (m : Mem) (e : MEntry) (h : Memory.wf m = true) : Memory.wf (m.applyEntry e) = true := by
  have h2 := foldl_wf (fun (m : Mem) w => m.put (12 * e.line + w) ⟨(m.word (12 * e.line + w)).data, true⟩)
    (fun m _ h => Mem.put_wf m _ _ h) e.capW _ (foldl_wf (fun (m : Mem) (b : Nat × Option Byte) =>
      match b.2 with | some v => m.putByte (48 * e.line + b.1) v | none => m)
      (fun m b h => by split; exact Mem.putByte_wf m _ _ h; exact h) e.bytes m h)
  unfold Mem.applyEntry
  dsimp only
  split
  · exact Memory.wf_poison _ _ _ h2
  · exact h2
theorem Mem.drainEntry_wf (m : Mem) (a : Asker) (k : Nat) (e : MEntry) (h : Memory.wf m = true) : Memory.wf (m.drainEntry a k e) = true :=
  Mem.applyEntry_wf _ e (Mem.l2Accept_wf _ k e.line (Mem.l2Own_wf m a (k / 8) e.line e.stream h))

/-! ### Kindling and sleep -/

theorem Mem.putWords_wf (m : Mem) (w : Nat) (ws : List MWord) (h : Memory.wf m = true) : Memory.wf (m.putWords w ws) = true := by
  have hz (j : Nat) (l : List MWord) : twfFrom (α := MWord) {} (w + j)
      (((l.zipIdx j).map (fun e => (w + e.2, e.1))).filter (fun e => decide (e.2 ≠ {}))) = true := by
    induction l generalizing j with
    | nil => rfl
    | cons a t ih =>
      simp only [List.zipIdx_cons, List.map_cons, List.filter_cons]
      split
      · rename_i ha
        simp only [twfFrom, ha, Bool.and_eq_true, decide_eq_true_eq, Nat.le_refl, true_and]
        exact ih (j + 1)
      · exact twfFrom_weaken _ _ (by omega) (ih (j + 1))
  have hr (e : Nat × MWord) (he : e ∈ ((ws.zipIdx.map (fun e => (w + e.2, e.1))).filter (fun e => decide (e.2 ≠ {})))) :
      w ≤ e.1 ∧ e.1 < w + ws.length := by
    obtain ⟨x, hx, rfl⟩ := List.mem_map.1 (List.mem_filter.1 he).1
    have := List.snd_lt_of_mem_zipIdx hx
    simp only
    omega
  unfold Mem.putWords
  simp only [Memory.wf, Bool.and_eq_true] at h ⊢
  exact ⟨⟨twf_tsplice _ _ _ _ _ h.1.1 (twfFrom_weaken _ _ (Nat.zero_le _) (hz 0 ws)) hr (by omega), twf_tkeep _ _ _ h.1.2⟩, h.2⟩

theorem Mem.asleep_wf (m : Mem) (h : Memory.wf m = true) : Memory.wf m.asleep = true := by
  simp only [Memory.wf, Mem.asleep, Bool.and_eq_true, List.all_eq_true] at h ⊢
  exact ⟨h.1, fun e he => h.2 e (List.mem_filter.1 he).1⟩

/-- The memory of reset lists nothing. -/
theorem State.reset_memory_wf : Memory.wf State.reset.mem = true := by decide

end Sys2Proof.Machine
end

