-- ==== Sys2Proof/Laws/RomService.lean ====
section
/-!
SUPPORT. The lemmas of RomUnits for the service core, the loads and leases, and the registers.
-/

set_option Elab.async false
set_option linter.unusedSimpArgs false

namespace Sys2Proof.Machine

open Sys2Proof

/-! ### Micro -/



/-! ### Service -/

theorem State.svcRow_rom (s0 : State) (sel : Carriage → Bool) (f : State → Carriage → State) (hf : ∀ s a1, (f s a1).rom = s.rom) :
    (State.svcRow s0 sel f).rom = s0.rom := by
  unfold State.svcRow
  dsimp only
  split
  · exact State.handOver_rom ..
  split
  · rw [hf]; exact State.handOver_rom ..
  · exact State.handOver_rom ..

theorem State.devidCarriage_rom (s : State) (c : Carriage) :
    (State.devidCarriage s c).rom = s.rom := State.complete_rom ..

theorem execDevidSet_rom (s : State) :
    ∃ t, execDevidSet s = .next t ∧ t.rom = s.rom := ⟨_, rfl, by grind [State.rom_eq, State.svcRow_rom, State.devidCarriage_rom]⟩

theorem State.releaseCarriage_rom (s : State) (c : Carriage) :
    (State.releaseCarriage s c).rom = s.rom := by
  unfold State.releaseCarriage
  grind [State.rom_eq, State.complete_rom, State.each_rom, State.releaseOne_rom]

theorem execReleaseCore_rom (s : State) :
    ∃ t, execReleaseCore s = .next t ∧ t.rom = s.rom := ⟨_, rfl, by grind [State.rom_eq, State.svcRow_rom, State.releaseCarriage_rom]⟩

theorem State.keyRollCarriage_rom (s : State) (c : Carriage) :
    (State.keyRollCarriage s c).rom = s.rom := by
  unfold State.keyRollCarriage
  grind [State.rom_eq, State.complete_rom, State.setKey_rom]

theorem execKeyRoll_rom (s : State) :
    ∃ t, execKeyRoll s = .next t ∧ t.rom = s.rom := ⟨_, rfl, by grind [State.rom_eq, State.svcRow_rom, State.keyRollCarriage_rom]⟩

theorem State.setDead_rom (s : State) (t : Nat) (b : Bool) :
    (State.setDead s t b).rom = s.rom := rfl

theorem State.killLeases_rom (s : State) (t : Nat) :
    (State.killLeases s t).rom = s.rom := by
  unfold State.killLeases
  grind [State.rom_eq, State.ringBreak_rom, State.each_rom, State.profBreak_rom, State.poolBreak_rom, State.breakOwned_rom]

theorem State.killFetches_rom (s : State) (t : Nat) :
    (State.killFetches s t).rom = s.rom := by
  unfold State.killFetches
  grind [State.rom_eq, State.each_rom, State.dropFetch_rom]

theorem State.leaseBreak_rom (s : State) (kind : Nat) (index : Nat) :
    (State.leaseBreak s kind index).rom = s.rom := by
  unfold State.leaseBreak
  grind [State.rom_eq, State.icuBreak_rom, State.ringBreak_rom, State.profBreak_rom, State.poolBreak_rom, State.dmcBreak_rom, State.frzLapse_rom]

theorem State.breakDue_rom (s : State) :
    (State.breakDue s).rom = s.rom := by
  unfold State.breakDue
  grind [State.rom_eq, State.leaseBreak_rom]

theorem State.leaseGo_rom (s : State) (kind : Nat) (index : Nat) :
    (State.leaseGo s kind index).rom = s.rom := by
  unfold State.leaseGo
  grind [State.rom_eq, State.breakDue_rom]

theorem State.loadFinish_rom (s : State) :
    (State.loadFinish s).rom = s.rom := by
  unfold State.loadFinish
  split
  · rfl
  · dsimp only
    split
    · rfl
    · exact (State.breakDue_rom _).trans ((State.complete_rom ..).trans (by simp only [State.rom]; split <;> rfl))

theorem State.readImage_rom (s : State) (c : Carriage) (image : ImageRead) :
    (State.readImage s c image).rom = s.rom := by
  unfold State.readImage
  ((repeat' split) <;> first | with_reducible rfl | (simp (disch := (intros; first | with_reducible rfl | grind [State.rom_eq, Eff.state, MicroOut.st, State.emit_rom, State.linkTlp_rom, State.aerError_rom])) only [foldl_rom, ite_rom, ite_self, State.emit_rom, State.linkTlp_rom, State.aerError_rom]; done) | grind [State.rom_eq, Eff.state, MicroOut.st, State.emit_rom, State.linkTlp_rom, State.aerError_rom])

theorem State.loadCarriage_rom (patch : Bool) (image : ImageRead) (s0 : State) (c : Carriage) :
    (State.loadCarriage patch image s0 c).rom = s0.rom := by
  unfold State.loadCarriage
  grind [State.rom_eq, State.readImage_rom, State.complete_rom, State.each_rom, State.modCore_rom, State.loadFinish_rom]

theorem execPatchLoad_rom (image : ImageRead) (s : State) :
    ∃ t, execPatchLoad image s = .next t ∧ t.rom = s.rom := ⟨_, rfl, by grind [State.rom_eq, State.svcRow_rom, State.loadCarriage_rom]⟩

theorem execDecodeLoad_rom (image : ImageRead) (s : State) :
    ∃ t, execDecodeLoad image s = .next t ∧ t.rom = s.rom := ⟨_, rfl, by grind [State.rom_eq, State.svcRow_rom, State.loadCarriage_rom]⟩

theorem State.loadLeave_rom (s : State) (k : Nat) :
    (State.loadLeave s k).rom = s.rom := by
  unfold State.loadLeave
  grind [State.rom_eq, State.loadFinish_rom]

theorem execMicrocodeFlip_rom (core : Nat) (s : State) :
    ∃ t, execMicrocodeFlip core s = .next t ∧ t.rom = s.rom := ⟨_, rfl, by grind [State.rom_eq, State.loadLeave_rom, State.modCore_rom]⟩

theorem State.loadCore_rom (s : State) (k : Nat) :
    (State.loadCore s k).rom = s.rom := rfl

theorem execBsuWdogWrite_rom (s : State) :
    ∃ t, execBsuWdogWrite s = .next t ∧ t.rom = s.rom := ⟨_, rfl, rfl⟩

/-! ### RasOff -/

theorem State.elapse_rom (s : State) :
    (State.elapse s).rom = s.rom := by
  unfold State.elapse
  grind [State.rom_eq, State.draw_rom]

theorem State.setClu_rom (s : State) (k : Nat) (p : CluPower) :
    (State.setClu s k p).rom = s.rom := by
  unfold State.setClu
  grind [State.rom_eq, State.elapse_rom, State.raise_rom]

theorem State.restartNow_rom (s : State) (n : Nat) :
    (State.restartNow s n).rom = s.rom := by
  unfold State.restartNow
  simp only [ite_rom, ite_self, State.freeCoaches_rom, State.clearStack_rom, State.returnHeld_rom, State.modCtx_rom]

theorem State.alarmEnds_rom (s : State) (n : Nat) :
    (State.alarmEnds s n).rom = s.rom := by
  unfold State.alarmEnds
  grind [State.rom_eq, State.takeAlarm_rom, State.retireTo_rom, State.modCtx_rom]

theorem State.cluRun_rom (s : State) (k : Nat) :
    (State.cluRun s k).rom = s.rom := by
  unfold State.cluRun
  grind [State.rom_eq, State.setClu_rom, State.each_rom, State.restartNow_rom, State.alarmEnds_rom]

theorem State.cluWake_rom (s : State) (k : Nat) :
    (State.cluWake s k).rom = s.rom := by
  unfold State.cluWake
  simp only [ite_rom, ite_self, State.cluRun_rom]

theorem State.restart_rom (s : State) (n : Nat) :
    (State.restart s n).rom = s.rom := by
  unfold State.restart
  simp only [ite_rom, ite_self, State.modCtx_rom, State.restartNow_rom, State.cluWake_rom]

theorem State.cluFlush_rom (s : State) (k : Nat) :
    (State.cluFlush s k).rom = s.rom := State.onMem_rom ..

theorem State.cluOff_rom (s : State) (k : Nat) :
    (State.cluOff s k).rom = s.rom := by
  unfold State.cluOff
  grind [State.rom_eq, State.cluFlush_rom, State.each_rom, State.returnHeld_rom, State.freeCoaches_rom, State.leaveWaiting_rom, State.breakOwned_rom, State.setClu_rom, State.loadLeave_rom]

theorem State.cluOffline_rom (s : State) (k : Nat) :
    (State.cluOffline s k).rom = s.rom := by
  unfold State.cluOffline
  grind [State.rom_eq, State.each_rom, State.clearStack_rom, State.returnHeld_rom, State.cluOff_rom, State.record_rom]

theorem State.coreDown_rom (s : State) (k : Nat) :
    (State.coreDown s k).rom = s.rom := by
  unfold State.coreDown
  dsimp only
  (try simp (disch := (intros; first | with_reducible rfl | grind [State.rom_eq, Eff.state, MicroOut.st, State.drainCore_rom, State.modCore_rom, State.each_rom, State.returnHeld_rom, State.freeCoaches_rom, State.leaveWaiting_rom, State.breakOwned_rom, State.record_rom, State.cluOffline_rom])) only [foldl_rom, ite_rom, ite_self, State.drainCore_rom, State.modCore_rom, State.each_rom, State.returnHeld_rom, State.freeCoaches_rom, State.leaveWaiting_rom, State.breakOwned_rom, State.record_rom, State.cluOffline_rom])
  ((repeat' split) <;> first | with_reducible rfl | (simp (disch := (intros; first | with_reducible rfl | grind [State.rom_eq, Eff.state, MicroOut.st, State.drainCore_rom, State.modCore_rom, State.each_rom, State.returnHeld_rom, State.freeCoaches_rom, State.leaveWaiting_rom, State.breakOwned_rom, State.record_rom, State.cluOffline_rom])) only [foldl_rom, ite_rom, ite_self, State.drainCore_rom, State.modCore_rom, State.each_rom, State.returnHeld_rom, State.freeCoaches_rom, State.leaveWaiting_rom, State.breakOwned_rom, State.record_rom, State.cluOffline_rom]; done) | grind [State.rom_eq, Eff.state, MicroOut.st, State.drainCore_rom, State.modCore_rom, State.each_rom, State.returnHeld_rom, State.freeCoaches_rom, State.leaveWaiting_rom, State.breakOwned_rom, State.record_rom, State.cluOffline_rom])

theorem State.stopCores_rom (s : State) :
    (State.stopCores s).rom = s.rom := by
  unfold State.stopCores
  grind [State.rom_eq, State.each_rom, State.coreDown_rom]

theorem State.tagsLost_rom (s : State) (k : Nat) (set : Nat) :
    (State.tagsLost s k set).rom = s.rom := by
  unfold State.tagsLost
  grind [State.rom_eq, State.cluOffline_rom]

theorem State.strikeOne_rom (s : State) (x : Strike) :
    (State.strikeOne s x).rom = s.rom := by
  unfold State.strikeOne
  grind [State.rom_eq, State.modCore_rom, State.tagsLost_rom]

theorem State.strike_rom (s : State) (xs : List Strike) :
    (State.strike s xs).rom = s.rom := by
  unfold State.strike
  simp (disch := (intros; first | with_reducible rfl | grind [State.rom_eq, Eff.state, MicroOut.st, State.strikeOne_rom])) only [foldl_rom, ite_rom, ite_self, State.strikeOne_rom]

theorem State.readMicro_rom (s : State) (k : Nat) (a : Nat) :
    (State.readMicro s k a).rom = s.rom := by
  unfold State.readMicro
  simp only [ite_rom, ite_self, State.modCore_rom, State.record_rom]

theorem State.drainRunning_rom (s : State) :
    (State.drainRunning s).rom = s.rom := by
  unfold State.drainRunning
  grind [State.rom_eq, State.stopCores_rom, State.each_rom, State.drainCore_rom]

theorem State.killCarriage_rom (s : State) (c : Carriage) :
    (State.killCarriage s c).rom = s.rom := by
  unfold State.killCarriage
  simp only [ite_rom, ite_self, State.complete_rom, State.killFetches_rom, State.killLeases_rom, State.eauKill_rom, State.drainRunning_rom, State.setDead_rom]

theorem State.reviveCarriage_rom (s : State) (c : Carriage) :
    (State.reviveCarriage s c).rom = s.rom := by
  unfold State.reviveCarriage
  simp only [ite_rom, ite_self, State.complete_rom, State.eauRevive_rom, State.setDead_rom]

theorem execTenantKill_rom (s : State) :
    ∃ t, execTenantKill s = .next t ∧ t.rom = s.rom := ⟨_, rfl, by grind [State.rom_eq, State.svcRow_rom, State.killCarriage_rom]⟩

theorem execTenantRevive_rom (s : State) :
    ∃ t, execTenantRevive s = .next t ∧ t.rom = s.rom := ⟨_, rfl, by grind [State.rom_eq, State.svcRow_rom, State.reviveCarriage_rom]⟩

/-! ### RegRead -/

theorem State.rcClear_rom (s : State) (n : Nat) :
    (State.rcClear s n).rom = s.rom := by
  unfold State.rcClear
  grind [State.rom_eq, State.modTbu_rom, State.modPort_rom, State.modChan_rom, State.modCore_rom]

theorem State.latched_rom (s : State) (code : Nat) (n : Nat) :
    (State.latched s code n).2.rom = s.rom := by
  unfold State.latched
  grind [State.rom_eq, State.elapsePhase_rom, State.modTbu_rom, State.elapse_rom, State.icuRestart_rom]

theorem State.regRead_rom (s : State) (r : Requester) (n : Nat) (p : Part) :
    (State.regRead s r n p).2.rom = s.rom := by
  unfold State.regRead
  simp only [ite_rom, ite_self, State.latched_rom, State.rcClear_rom]

/-! ### RegWrite -/

theorem State.modLk_rom (s : State) (f : Lk → Lk) :
    (State.modLk s f).rom = s.rom := by
  unfold State.modLk
  grind [State.rom_eq]

theorem State.glbPut_rom (s : State) (i : Nat) (w : RegWr) :
    (State.glbPut s i w).rom = s.rom := by
  unfold State.glbPut
  grind [State.rom_eq, State.modLk_rom]

theorem State.tbuPut_rom (s : State) (i : Nat) (w : RegWr) :
    (State.tbuPut s i w).rom = s.rom := by
  unfold State.tbuPut
  grind [State.rom_eq, State.modLk_rom, State.modTbu_rom, State.failLink_rom, State.tbuLine_rom]

theorem State.eauPut_rom (s : State) (i : Nat) (w : RegWr) :
    (State.eauPut s i w).rom = s.rom := by
  unfold State.eauPut
  grind [State.rom_eq, State.modLk_rom, State.eauLine_rom]

theorem State.servePut_rom (s : State) (n : Nat) (m : Nat) :
    (State.servePut s n m).rom = s.rom := State.modLk_rom ..

theorem State.dduPut_rom (s : State) (i : Nat) (w : RegWr) :
    (State.dduPut s i w).rom = s.rom := by
  unfold State.dduPut
  grind [State.rom_eq, State.modLk_rom, State.servePut_rom]

theorem State.dolPut_rom (s : State) (i : Nat) (w : RegWr) :
    (State.dolPut s i w).rom = s.rom := by
  unfold State.dolPut
  grind [State.rom_eq, State.modLk_rom]

theorem State.rngPut_rom (s : State) (i : Nat) (p : Part) (w : RegWr) :
    (State.rngPut s i p w).rom = s.rom := by
  unfold State.rngPut
  simp only [ite_rom, ite_self, State.modLk_rom, State.pageWrite_rom]

theorem State.hpcPut_rom (s : State) (p : Nat) (i : Nat) (w : RegWr) :
    (State.hpcPut s p i w).rom = s.rom := by
  unfold State.hpcPut
  grind [State.rom_eq, State.modLk_rom, State.unfreeze_rom, State.modPort_rom, State.ptmStart_rom]

theorem State.icuEdit_rom (s : State) (w : RegWr) :
    (State.icuEdit s w).rom = s.rom := by
  unfold State.icuEdit
  grind [State.rom_eq, State.icuAcquire_rom, State.icuCommit_rom, State.icuAbort_rom]

theorem State.icuShadow_rom (s : State) (r : Requester) (f : IcuLease → IcuLease) :
    (State.icuShadow s r f).rom = s.rom := by
  unfold State.icuShadow
  grind [State.rom_eq]

theorem State.icuPut_rom (s : State) (i : Nat) (w : RegWr) :
    (State.icuPut s i w).rom = s.rom := by
  unfold State.icuPut
  grind [State.rom_eq, State.modLk_rom, State.icuEdit_rom, State.icuShadow_rom]

theorem State.modDmcLk_rom (s : State) (c : Nat) (f : DmcLk → DmcLk) :
    (State.modDmcLk s c f).rom = s.rom := State.modLk_rom ..

theorem State.tsetPut_rom (s : State) (c : Nat) (i : Nat) (w : RegWr) :
    (State.tsetPut s c i w).rom = s.rom := by
  unfold State.tsetPut
  simp only [ite_rom, ite_self, State.modChan_rom]

theorem State.maintPut_rom (s : State) (w : RegWr) :
    (State.maintPut s w).rom = s.rom := by
  unfold State.maintPut
  grind [State.rom_eq, State.modLk_rom, State.dmcAcquire_rom, State.dmcCommit_rom, State.dmcAbort_rom]

theorem State.dmcPut_rom (s : State) (c : Nat) (i : Nat) (w : RegWr) :
    (State.dmcPut s c i w).rom = s.rom := by
  unfold State.dmcPut
  grind [State.rom_eq, State.modDmcLk_rom, State.modChan_rom, State.maintPut_rom, State.tsetPut_rom]

theorem State.pmuPut_rom (s : State) (i : Nat) (w : RegWr) :
    (State.pmuPut s i w).rom = s.rom := by
  unfold State.pmuPut
  grind [State.rom_eq, State.modLk_rom]

theorem State.bsuPut_rom (s : State) (i : Nat) (w : RegWr) :
    (State.bsuPut s i w).rom = s.rom := by
  unfold State.bsuPut
  grind [State.rom_eq, State.leaseGo_rom]

theorem State.rasPutReg_rom (s : State) (i : Nat) (w : RegWr) :
    (State.rasPutReg s i w).rom = s.rom := by
  unfold State.rasPutReg
  grind [State.rom_eq, State.modLk_rom]

theorem State.predFlush_rom (s : State) (k : Nat) :
    (State.predFlush s k).rom = s.rom := by
  unfold State.predFlush
  grind [State.rom_eq, State.modCore_rom, State.each_rom, State.modCtx_rom]

theorem State.cluPut_rom (s : State) (k : Nat) (i : Nat) (w : RegWr) :
    (State.cluPut s k i w).rom = s.rom := by
  unfold State.cluPut
  simp only [ite_rom, ite_self, State.modCore_rom, State.predFlush_rom, State.modLk_rom, State.restart_rom]

theorem State.regWrite_rom (s : State) (r : Requester) (n : Nat) (p : Part) (v : Word) :
    (State.regWrite s r n p v).rom = s.rom := by
  unfold State.regWrite
  grind [State.rom_eq, State.glbPut_rom, State.tbuPut_rom, State.eauPut_rom, State.dduPut_rom, State.dolPut_rom, State.rngPut_rom, State.hpcPut_rom, State.icuPut_rom, State.dmcPut_rom, State.pmuPut_rom, State.bsuPut_rom, State.rasPutReg_rom, State.cluPut_rom]

/-! ### Access -/

theorem State.ownerStep_rom (s : State) (n : Nat) (k : Cap) (p : Part1) :
    (State.ownerStep s n k p).2.rom = s.rom := by
  unfold State.ownerStep
  grind [State.rom_eq, State.physOf_rom]

theorem State.errorResponse_rom (s : State) (n : Nat) (pa : Nat) :
    (State.errorResponse s n pa).rom = s.rom := State.record_rom ..

theorem State.readPart_rom (s : State) (n : Nat) (p : Part1) (pa : Nat) (second : Bool) :
    (State.readPart s n p pa second).2.rom = s.rom := by
  unfold State.readPart
  grind [State.rom_eq, State.errorResponse_rom, State.showLine_rom, State.dropBad_rom, State.onMem_rom, State.access_rom]

theorem State.loadPart_rom (s : State) (n : Nat) (k : Cap) (p : Part1) (second : Bool) :
    (State.loadPart s n k p second).2.rom = s.rom := by
  unfold State.loadPart
  grind [State.rom_eq, State.ownerStep_rom, State.readPart_rom]

theorem State.deviceReady_rom (s : State) (n : Nat) :
    (State.deviceReady s n).rom = s.rom := State.drainCtx_rom ..

theorem State.deviceLoad_rom (s : State) (n : Nat) (k : Cap) (p : Part1) (reg : Bool) :
    (State.deviceLoad s n k p reg).2.rom = s.rom := by
  unfold State.deviceLoad
  grind [State.rom_eq, State.ownerStep_rom, State.deviceReady_rom, State.regRead_rom, State.errorResponse_rom]

theorem State.load_rom (s : State) (n : Nat) (k : Cap) (perms : List Nat) (ea : Nat) (size : Nat) (align : Nat) (reg : Bool) :
    (State.load s n k perms ea size align reg).2.rom = s.rom := by
  unfold State.load
  grind [State.rom_eq, State.deviceLoad_rom, State.loadPart_rom]

theorem State.storePart_rom (s : State) (n : Nat) (k : Cap) (ea : Nat) (p : Part1) (bs : List Byte) (capW : Bool) :
    (State.storePart s n k ea p bs capW).2.rom = s.rom := by
  unfold State.storePart
  grind [State.rom_eq, State.ownerStep_rom, State.errorResponse_rom, State.bufferStore_rom]

theorem State.deviceStore_rom (s : State) (n : Nat) (k : Cap) (p : Part1) (bs : List Byte) (reg : Bool) :
    (State.deviceStore s n k p bs reg).2.rom = s.rom := by
  unfold State.deviceStore
  grind [State.rom_eq, State.ownerStep_rom, State.deviceReady_rom, State.regWrite_rom, State.errorResponse_rom]

theorem State.store_rom (s : State) (n : Nat) (k : Cap) (perms : List Nat) (ea : Nat) (align : Nat) (bs : List Byte) (capW : Bool) (reg : Bool) :
    (State.store s n k perms ea align bs capW reg).2.rom = s.rom := by
  unfold State.store
  grind [State.rom_eq, State.deviceStore_rom, State.storePart_rom]

theorem State.atomic_rom (s : State) (n : Nat) (k : Cap) (ea : Nat) (size : Nat) (f : DWord → Option DWord) :
    (State.atomic s n k ea size f).2.rom = s.rom := by
  unfold State.atomic
  ((repeat' split) <;> first | with_reducible rfl | (simp (disch := (intros; first | with_reducible rfl | grind [State.rom_eq, Eff.state, MicroOut.st, State.ownerStep_rom, State.drainCtx_rom, State.errorResponse_rom, State.access_rom, State.onMem_rom])) only [foldl_rom, ite_rom, ite_self, State.ownerStep_rom, State.drainCtx_rom, State.errorResponse_rom, State.access_rom, State.onMem_rom]; done) | grind [State.rom_eq, Eff.state, MicroOut.st, State.ownerStep_rom, State.drainCtx_rom, State.errorResponse_rom, State.access_rom, State.onMem_rom])

theorem State.maintLine_rom (s : State) (n : Nat) (k : Cap) (perm : Nat) (ea : Nat) :
    (State.maintLine s n k perm ea).2.rom = s.rom := by
  unfold State.maintLine
  grind [State.rom_eq, State.ownerStep_rom, State.errorResponse_rom]

/-! ### RegCmd -/

theorem State.regError_rom (s : State) (r : Requester) (n : Nat) :
    (State.regError s r n).rom = s.rom := State.record_rom ..

theorem State.heard_rom (s : State) (x1 : Requester) :
    (State.heard s x1).rom = s.rom := by
  unfold State.heard
  grind [State.rom_eq, State.linkTlp_rom]

theorem State.writing_rom (s : State) (r : Requester) (n : Nat) (p : Part) (f : State → State) (hf : ∀ s, (f s).rom = s.rom) :
    (State.writing s r n p f).rom = s.rom := by
  unfold State.writing
  ((repeat' split) <;> first | with_reducible rfl | (simp (disch := (intros; first | with_reducible rfl | grind [State.rom_eq, Eff.state, MicroOut.st, State.heard_rom, State.urWrite_rom, State.regError_rom, hf])) only [foldl_rom, ite_rom, ite_self, State.heard_rom, State.urWrite_rom, State.regError_rom, hf]; done) | grind [State.rom_eq, Eff.state, MicroOut.st, State.heard_rom, State.urWrite_rom, State.regError_rom, hf])

theorem State.write0_rom (s : State) (r : Requester) (n : Nat) (p : Part) (v : Word) :
    (State.write0 s r n p v).rom = s.rom := by
  unfold State.write0
  grind [State.rom_eq, State.writing_rom, State.regWrite_rom]

theorem State.read0_rom (s : State) (r : Requester) (n : Nat) (p : Part) :
    (State.read0 s r n p).rom = s.rom := by
  unfold State.read0
  grind [State.rom_eq, State.heard_rom, State.emit_rom, State.urRead_rom, State.regError_rom, State.regRead_rom]

theorem State.pageAccess_rom (s : State) (r : Requester) (t : Nat) (p : Part) (rd : Bool) (f : State → State) (hf : ∀ s, (f s).rom = s.rom) :
    (State.pageAccess s r t p rd f).rom = s.rom := by
  unfold State.pageAccess
  simp only [ite_rom, ite_self, State.heard_rom, State.emit_rom, State.urRead_rom, State.urWrite_rom, hf]

theorem State.cfgAccess_rom (s : State) (r : Requester) (t : Nat) (rd : Bool) (f : State → State) (hf : ∀ s, (f s).rom = s.rom) :
    (State.cfgAccess s r t rd f).rom = s.rom := by
  unfold State.cfgAccess
  simp only [ite_rom, ite_self, State.heard_rom, State.emit_rom, State.urRead_rom, State.urWrite_rom, hf]

theorem State.noWindow_rom (s : State) (r : Requester) (rd : Bool) :
    (State.noWindow s r rd).rom = s.rom := by
  unfold State.noWindow
  grind [State.rom_eq, State.linkTlp_rom, State.emit_rom, State.urRead_rom, State.urWrite_rom]

theorem State.accessWrite_rom (s : State) (r : Requester) (a : RegAddr) (part : Part) (v : Word) :
    (State.accessWrite s r a part v).rom = s.rom := by
  unfold State.accessWrite
  grind [State.rom_eq, State.write0_rom, State.pageAccess_rom, State.pageWrite_rom, State.cfgAccess_rom, State.cfgWrite_rom, State.msixWrite_rom, State.rngDrop_rom]

theorem State.accessRead_rom (s : State) (r : Requester) (a : RegAddr) (part : Part) :
    (State.accessRead s r a part).rom = s.rom := by
  unfold State.accessRead
  grind [State.rom_eq, State.read0_rom, State.pageAccess_rom, State.emit_rom, State.cfgAccess_rom]

theorem execRegisterWrite_rom (r : Requester) (a : RegAddr) (part : Part) (v : Word) (s : State) :
    ∃ t, execRegisterWrite r a part v s = .next t ∧ t.rom = s.rom := ⟨_, rfl, by grind [State.rom_eq, State.accessWrite_rom, State.noWindow_rom]⟩

theorem execRcFieldRead_rom (r : Requester) (a : RegAddr) (part : Part) (s : State) :
    ∃ t, execRcFieldRead r a part s = .next t ∧ t.rom = s.rom := ⟨_, rfl, by grind [State.rom_eq, State.accessRead_rom, State.noWindow_rom]⟩

theorem execGlbLockSet_rom (r : Requester) (s : State) :
    ∃ t, execGlbLockSet r s = .next t ∧ t.rom = s.rom := ⟨_, rfl, by simp only [ite_rom, ite_self, State.write0_rom]⟩

theorem execTbuNowLoRead_rom (r : Requester) (part : Part) (s : State) :
    ∃ t, execTbuNowLoRead r part s = .next t ∧ t.rom = s.rom := ⟨_, rfl, by simp only [ite_rom, ite_self, State.read0_rom]⟩

theorem execPmuResLowRead_rom (r : Requester) (n : Nat) (part : Part) (s : State) :
    ∃ t, execPmuResLowRead r n part s = .next t ∧ t.rom = s.rom := ⟨_, rfl, by simp only [ite_rom, ite_self, State.read0_rom]⟩

theorem execIcuStatusRead_rom (r : Requester) (part : Part) (s : State) :
    ∃ t, execIcuStatusRead r part s = .next t ∧ t.rom = s.rom := ⟨_, rfl, by simp only [ite_rom, ite_self, State.read0_rom]⟩

theorem execPredFlush_rom (r : Requester) (core : Nat) (s : State) :
    ∃ t, execPredFlush r core s = .next t ∧ t.rom = s.rom := ⟨_, rfl, by simp only [ite_rom, ite_self, State.write0_rom]⟩

theorem execPredFlushDone_rom (core : Nat) (s : State) :
    ∃ t, execPredFlushDone core s = .next t ∧ t.rom = s.rom := ⟨_, rfl, rfl⟩

theorem execRestart_rom (r : Requester) (ctx : Nat) (s : State) :
    ∃ t, execRestart r ctx s = .next t ∧ t.rom = s.rom := ⟨_, rfl, by simp only [ite_rom, ite_self, State.write0_rom]⟩

theorem execIcuEditAcquire_rom (r : Requester) (src : Nat) (s : State) :
    ∃ t, execIcuEditAcquire r src s = .next t ∧ t.rom = s.rom := ⟨_, rfl, by grind [State.rom_eq, State.writing_rom, State.icuAcquire_rom]⟩

theorem execIcuEditCommit_rom (r : Requester) (s : State) :
    ∃ t, execIcuEditCommit r s = .next t ∧ t.rom = s.rom := ⟨_, rfl, by grind [State.rom_eq, State.writing_rom, State.icuCommit_rom]⟩

theorem execIcuEditAbort_rom (r : Requester) (s : State) :
    ∃ t, execIcuEditAbort r s = .next t ∧ t.rom = s.rom := ⟨_, rfl, by grind [State.rom_eq, State.writing_rom, State.icuAbort_rom]⟩

theorem execDmcMaintAcquire_rom (r : Requester) (s : State) :
    ∃ t, execDmcMaintAcquire r s = .next t ∧ t.rom = s.rom := ⟨_, rfl, by grind [State.rom_eq, State.writing_rom, State.dmcAcquire_rom]⟩

theorem execDmcMaintCommit_rom (r : Requester) (s : State) :
    ∃ t, execDmcMaintCommit r s = .next t ∧ t.rom = s.rom := ⟨_, rfl, by grind [State.rom_eq, State.writing_rom, State.dmcCommit_rom]⟩

theorem execDmcMaintAbort_rom (r : Requester) (s : State) :
    ∃ t, execDmcMaintAbort r s = .next t ∧ t.rom = s.rom := ⟨_, rfl, by grind [State.rom_eq, State.writing_rom, State.dmcAbort_rom]⟩

theorem execLeaseBreakIcu_rom (r : Requester) (s : State) :
    ∃ t, execLeaseBreakIcu r s = .next t ∧ t.rom = s.rom := ⟨_, rfl, by grind [State.rom_eq, State.writing_rom, State.leaseGo_rom]⟩

theorem execLeaseBreakRing_rom (r : Requester) (tenant : Nat) (s : State) :
    ∃ t, execLeaseBreakRing r tenant s = .next t ∧ t.rom = s.rom := ⟨_, rfl, by grind [State.rom_eq, State.writing_rom, State.leaseGo_rom]⟩

theorem execLeaseBreakProfile_rom (r : Requester) (profile : Nat) (s : State) :
    ∃ t, execLeaseBreakProfile r profile s = .next t ∧ t.rom = s.rom := ⟨_, rfl, by grind [State.rom_eq, State.writing_rom, State.leaseGo_rom]⟩

theorem execLeaseBreakPool_rom (r : Requester) (pool : Nat) (s : State) :
    ∃ t, execLeaseBreakPool r pool s = .next t ∧ t.rom = s.rom := ⟨_, rfl, by grind [State.rom_eq, State.writing_rom, State.leaseGo_rom]⟩

theorem execLeaseBreakDram_rom (r : Requester) (s : State) :
    ∃ t, execLeaseBreakDram r s = .next t ∧ t.rom = s.rom := ⟨_, rfl, by grind [State.rom_eq, State.writing_rom, State.leaseGo_rom]⟩

theorem execLeaseBreakFreeze_rom (r : Requester) (port : Nat) (s : State) :
    ∃ t, execLeaseBreakFreeze r port s = .next t ∧ t.rom = s.rom := ⟨_, rfl, by grind [State.rom_eq, State.writing_rom, State.leaseGo_rom]⟩

end Sys2Proof.Machine
end

