-- ==== Sys2Proof/Laws/RomCores.lean ====
section
/-!
SUPPORT. The lemmas of RomUnits for the instructions, the exceptions, the events of the cores, and power.
-/

set_option Elab.async false
set_option linter.unusedSimpArgs false

namespace Sys2Proof.Machine

open Sys2Proof

/-! ### Exceptions -/

theorem State.frameLine_rom (s : State) (n : Nat) (own : Bool) (va : Nat) :
    (State.frameLine s n own va).2.rom = s.rom := by
  unfold State.frameLine
  grind [State.rom_eq, State.physOf_rom, State.errorResponse_rom, State.access_rom]

theorem State.frameLines_rom (s : State) (n : Nat) (own : Bool) (x3 : List Nat) :
    (State.frameLines s n own x3).2.rom = s.rom := by
  fun_induction State.frameLines <;> grind [State.rom_eq, State.frameLine_rom]

theorem State.frameAt_rom (s : State) (n : Nat) (own : Bool) (lo : Int) :
    (State.frameAt s n own lo).2.rom = s.rom := by
  unfold State.frameAt
  grind [State.rom_eq, State.frameLines_rom]

theorem State.wedge_rom (s : State) (n : Nat) (reason : Nat) (cause : Nat) (addr : Word) (eret : Bool) :
    (State.wedge s n reason cause addr eret).rom = s.rom := by
  unfold State.wedge
  simp only [ite_rom, ite_self, State.returnHeld_rom, State.modCtx_rom, State.raise_rom]

theorem State.pushFrame_rom (s : State) (n : Nat) (lines : List (Nat × Bool)) (bs : List Byte) (tags : List Nat) (va : Nat) (why : Nat × Word) :
    (State.pushFrame s n lines bs tags va why).rom = s.rom := by
  unfold State.pushFrame
  simp (disch := (intros; first | with_reducible rfl | grind [State.rom_eq, Eff.state, MicroOut.st, State.bufferStore_rom])) only [foldl_rom, ite_rom, ite_self, State.bufferStore_rom]

theorem State.entryBegins_rom (s : State) (n : Nat) (e : Exc) :
    (State.entryBegins s n e).rom = s.rom := rfl

theorem State.enter_rom (s : State) (n : Nat) (e : Exc) :
    (State.enter s n e).rom = s.rom := by
  unfold State.enter
  grind [State.rom_eq, State.frameAt_rom, State.entryBegins_rom, State.wedge_rom, State.pushFrame_rom, State.modCtx_rom, State.wrongPath_rom]

theorem State.eretNow_rom (s : State) (n : Nat) :
    (State.eretNow s n).rom = s.rom := by
  unfold State.eretNow
  grind [State.rom_eq, State.frameAt_rom, State.wedge_rom, State.modCtx_rom]

/-! ### Operands -/



/-! ### Issue -/

theorem State.blkStep_rom (s : State) (n : Nat) (k : Cap) (kd : BlkKind) (p : BlkProg) :
    (State.blkStep s n k kd p).2.rom = s.rom := by
  unfold State.blkStep
  grind [State.rom_eq, State.load_rom, State.store_rom]

theorem State.blkRun_rom (s : State) (n : Nat) (k : Cap) (kd : BlkKind) (x4 : Nat) (x5 : BlkProg) :
    (State.blkRun s n k kd x4 x5).2.2.rom = s.rom := by
  fun_induction State.blkRun <;> grind [State.rom_eq, State.blkStep_rom]

theorem State.vendorRun_rom (s : State) (k : Nat) (i : Nat) :
    (State.vendorRun s k i).rom = s.rom := by
  unfold State.vendorRun
  simp (disch := (intros; first | with_reducible rfl | grind [State.rom_eq, Eff.state, MicroOut.st, State.readMicro_rom])) only [foldl_rom, ite_rom, ite_self, State.readMicro_rom]

theorem State.vendorMicro_rom (s : State) (n : Nat) (kd : BlkKind) :
    (State.vendorMicro s n kd).2.rom = s.rom := by
  have h : ∀ l : List Nat, ((l.foldl (fun (e : List Word × State) _ => let d := e.2.draw (2 ^ 36); (e.1 ++ [word d.1], d.2)) ([], s)).2).rom = s.rom :=
    fun l => foldl_snd_rom (fun (e : List Word × State) (_ : Nat) => let d := e.2.draw (2 ^ 36); (e.1 ++ [word d.1], d.2)) (fun r _ => State.draw_rom r.2 (2 ^ 36)) l ([], s)
  unfold State.vendorMicro
  dsimp only
  split
  · exact h _
  split
  · exact h _
  · rw [State.draw_rom]; exact h _

theorem State.blkGo_rom (s : State) (n : Nat) (addr : Word) (kd : BlkKind) (o : BlkOp) (m : Nat) :
    (State.blkGo s n addr kd o m).2.rom = s.rom := by
  unfold State.blkGo
  grind [State.rom_eq, State.blkRun_rom, State.modCtx_rom, State.vendorMicro_rom]

theorem State.runLong_rom (s : State) (n : Nat) (op : LongOp) :
    (State.runLong s n op).2.rom = s.rom := by
  unfold State.runLong
  grind [State.rom_eq, State.setCtx_rom, State.blkGo_rom]

theorem State.finishHead_rom (s : State) (n : Nat) (next : Word) :
    (State.finishHead s n next).2.rom = s.rom := by
  unfold State.finishHead
  grind [State.rom_eq, State.modCtx_rom, State.runLong_rom]

theorem State.settleAll_rom (s : State) (n : Nat) (next : Word) :
    (State.settleAll s n next).2.rom = s.rom := by
  unfold State.settleAll
  grind [State.rom_eq, State.finishHead_rom]

theorem State.settleFor_rom (s : State) (n : Nat) (next : Word) (d : Deps) :
    (State.settleFor s n next d).2.rom = s.rom := by
  unfold State.settleFor
  grind [State.rom_eq, State.settleAll_rom, State.finishHead_rom]

theorem State.takeExc_rom (s : State) (n : Nat) (e : Exc) :
    (State.takeExc s n e).rom = s.rom := by
  unfold State.takeExc
  grind [State.rom_eq, State.settleAll_rom, State.enter_rom]

theorem fetchLine_rom (n : Nat) (b : Block) (r : Except Nat Nat × State) : (fetchLine n b r).2.rom = r.2.rom := by
  unfold fetchLine
  grind [State.rom_eq, State.errorResponse_rom, State.access_rom]

theorem State.fetchUnder_rom (s : State) (n : Nat) (c : Ctx) (old : Bool) (a : Nat) :
    (State.fetchUnder s n c old a).2.rom = s.rom := by
  unfold State.fetchUnder
  split
  · rfl
  split
  · rfl
  rw [fetchLine_rom]
  split
  · exact State.physOld_rom ..
  · exact State.physOf_rom ..

theorem State.fetchByte_rom (s : State) (n : Nat) (a : Nat) :
    (State.fetchByte s n a).2.rom = s.rom := by
  unfold State.fetchByte
  grind [State.rom_eq, State.fetchUnder_rom, State.draw_rom]

theorem State.fetchBytes_rom (s : State) (n : Nat) (x2 : Nat) (x3 : Nat) :
    (State.fetchBytes s n x2 x3).2.rom = s.rom := by
  fun_induction State.fetchBytes <;> grind [State.rom_eq, State.fetchByte_rom]

theorem State.fetch_rom (s : State) (n : Nat) (len : Nat) :
    (State.fetch s n len).2.rom = s.rom := by
  unfold State.fetch
  grind [State.rom_eq, State.fetchBytes_rom]

theorem State.startLong_rom (s : State) (n : Nat) (addr : Word) (next : Word) (k : LongKind) :
    (State.startLong s n addr next k).rom = s.rom := rfl

theorem State.refetch_rom (s : State) (n : Nat) :
    (State.refetch s n).rom = s.rom := rfl

theorem vendored_rom (n : Nat) (i : Nat) (f : State → Eff) (s : State) (hf : ∀ s, (f s).state.rom = s.rom) :
    (vendored n i f s).state.rom = s.rom := by
  unfold vendored
  dsimp only
  split
  · exact State.vendorRun_rom ..
  · rw [hf, State.vendorRun_rom]

theorem State.blockedExc_rom (s : State) (n : Nat) :
    (State.blockedExc s n).rom = s.rom := by
  unfold State.blockedExc
  grind [State.rom_eq, State.takeExc_rom, State.leaveWaiting_rom]

theorem State.finish_rom (n : Nat) (addr : Word) (len : Nat) (e : Eff) : (State.finish n addr len e).rom = e.state.rom := by
  unfold State.finish
  split
  · rfl
  split
  · exact State.retireTo_rom ..
  · exact (State.retireTo_rom ..).trans (State.refetch_rom ..)
  · rfl
  · exact State.startLong_rom ..
  · exact State.takeExc_rom ..
  · rfl

theorem State.runIf_rom (s : State) (h : Hd) (always : Bool) (body : State → Eff) (hbody : ∀ s, (body s).state.rom = s.rom) :
    (State.runIf s h always body).rom = s.rom := by
  unfold State.runIf
  dsimp only
  rw [ite_rom, State.retireTo_rom, State.finish_rom, hbody, ite_self]

theorem State.issueHere_rom (s : State) (h : Hd) (ok : Bool) (always : Bool) (micro : Bool) (d : Deps) (body : State → Eff) (hbody : ∀ s, (body s).state.rom = s.rom) :
    (State.issueHere s h ok always micro d body).rom = s.rom := by
  have hr := fun s => State.runIf_rom s h always body hbody
  unfold State.issueHere
  dsimp only
  split
  · exact State.takeExc_rom ..
  have hs := State.settleFor_rom s h.ctx (s.ctx h.ctx).pcc.cursor (if h.cond = 0 then d else { d with flags := true })
  split <;> rename_i e
  · rw [e] at hs; rw [State.enter_rom]; exact hs
  rw [e] at hs; rename_i s1
  have hf := State.fetch_rom s1 h.ctx h.len
  split
  · exact hs
  split <;> rename_i e1
  · rw [e1] at hf; rw [State.takeExc_rom]; exact hf.trans hs
  · rw [e1] at hf
    have hf := hf.trans hs
    split
    · rw [State.takeExc_rom]; exact hf
    rw [ite_rom, State.takeExc_rom, hr, ite_self]; exact hf

theorem State.issue_rom (s : State) (h : Hd) (ok : Bool) (always : Bool) (micro : Bool) (d : Deps) (body : State → Eff) (hbody : ∀ s, (body s).state.rom = s.rom) :
    (State.issue s h ok always micro d body).rom = s.rom := by
  unfold State.issue
  dsimp only
  rw [State.stopCores_rom]
  split
  · rw [State.blockedExc_rom, State.strike_rom]
  · rw [State.issueHere_rom _ _ _ _ _ _ _ hbody, State.strike_rom]

/-! ### Alu -/

theorem aluEff_rom (k : AluK) (n : Nat) (o : AluOp) (s : State) :
    (aluEff k n o s).state.rom = s.rom := rfl

theorem aluWide_rom (k : AluK) (h : Hd) (o : AluOp) (s : State) :
    (aluWide k h o s).rom = s.rom := by
  unfold aluWide
  grind [State.rom_eq, State.issue_rom, aluEff_rom]

theorem aluNarrow_rom (k : AluK) (h : Hd) (o : AluOp) (s : State) :
    (aluNarrow k h o s).rom = s.rom := by
  unfold aluNarrow
  grind [State.rom_eq, State.issue_rom, aluEff_rom]

theorem aluLong_rom (k : LongKind) (h : Hd) (o : AluOp) (s : State) :
    (aluLong k h o s).rom = s.rom := by
  unfold aluLong
  grind [State.rom_eq, Eff.state, MicroOut.st, State.issue_rom]

theorem execAdd_rom (h : Hd) (o : AluOp) (s : State) :
    ∃ t, execAdd h o s = .next t ∧ t.rom = s.rom := ⟨_, rfl, by simp only [ite_rom, ite_self, aluWide_rom]⟩

theorem execSub_rom (h : Hd) (o : AluOp) (s : State) :
    ∃ t, execSub h o s = .next t ∧ t.rom = s.rom := ⟨_, rfl, by simp only [ite_rom, ite_self, aluWide_rom]⟩

theorem execAnd_rom (h : Hd) (o : AluOp) (s : State) :
    ∃ t, execAnd h o s = .next t ∧ t.rom = s.rom := ⟨_, rfl, by simp only [ite_rom, ite_self, aluWide_rom]⟩

theorem execOr_rom (h : Hd) (o : AluOp) (s : State) :
    ∃ t, execOr h o s = .next t ∧ t.rom = s.rom := ⟨_, rfl, by simp only [ite_rom, ite_self, aluWide_rom]⟩

theorem execXor_rom (h : Hd) (o : AluOp) (s : State) :
    ∃ t, execXor h o s = .next t ∧ t.rom = s.rom := ⟨_, rfl, by simp only [ite_rom, ite_self, aluWide_rom]⟩

theorem execShl_rom (h : Hd) (o : AluOp) (s : State) :
    ∃ t, execShl h o s = .next t ∧ t.rom = s.rom := ⟨_, rfl, by simp only [ite_rom, ite_self, aluNarrow_rom]⟩

theorem execShr_rom (h : Hd) (o : AluOp) (s : State) :
    ∃ t, execShr h o s = .next t ∧ t.rom = s.rom := ⟨_, rfl, by simp only [ite_rom, ite_self, aluNarrow_rom]⟩

theorem execSar_rom (h : Hd) (o : AluOp) (s : State) :
    ∃ t, execSar h o s = .next t ∧ t.rom = s.rom := ⟨_, rfl, by simp only [ite_rom, ite_self, aluNarrow_rom]⟩

theorem execRol_rom (h : Hd) (o : AluOp) (s : State) :
    ∃ t, execRol h o s = .next t ∧ t.rom = s.rom := ⟨_, rfl, by simp only [ite_rom, ite_self, aluNarrow_rom]⟩

theorem execRor_rom (h : Hd) (o : AluOp) (s : State) :
    ∃ t, execRor h o s = .next t ∧ t.rom = s.rom := ⟨_, rfl, by simp only [ite_rom, ite_self, aluNarrow_rom]⟩

theorem execMul_rom (h : Hd) (o : AluOp) (s : State) :
    ∃ t, execMul h o s = .next t ∧ t.rom = s.rom := ⟨_, rfl, by simp only [ite_rom, ite_self, aluNarrow_rom]⟩

theorem execMulh_rom (h : Hd) (o : AluOp) (s : State) :
    ∃ t, execMulh h o s = .next t ∧ t.rom = s.rom := ⟨_, rfl, by simp only [ite_rom, ite_self, aluLong_rom]⟩

theorem execDiv_rom (h : Hd) (o : AluOp) (s : State) :
    ∃ t, execDiv h o s = .next t ∧ t.rom = s.rom := ⟨_, rfl, by simp only [ite_rom, ite_self, aluLong_rom]⟩

theorem execRem_rom (h : Hd) (o : AluOp) (s : State) :
    ∃ t, execRem h o s = .next t ∧ t.rom = s.rom := ⟨_, rfl, by simp only [ite_rom, ite_self, aluLong_rom]⟩

theorem fpLong_rom (k : FpKind) (ok : Bool) (h : Hd) (o : FpOp) (s : State) :
    (fpLong k ok h o s).rom = s.rom := by
  unfold fpLong
  grind [State.rom_eq, Eff.state, MicroOut.st, State.issue_rom]

theorem execFadd_rom (h : Hd) (o : FpOp) (s : State) :
    ∃ t, execFadd h o s = .next t ∧ t.rom = s.rom := ⟨_, rfl, by simp only [ite_rom, ite_self, fpLong_rom]⟩

theorem execFsub_rom (h : Hd) (o : FpOp) (s : State) :
    ∃ t, execFsub h o s = .next t ∧ t.rom = s.rom := ⟨_, rfl, by simp only [ite_rom, ite_self, fpLong_rom]⟩

theorem execFmul_rom (h : Hd) (o : FpOp) (s : State) :
    ∃ t, execFmul h o s = .next t ∧ t.rom = s.rom := ⟨_, rfl, by simp only [ite_rom, ite_self, fpLong_rom]⟩

theorem execFdiv_rom (h : Hd) (o : FpOp) (s : State) :
    ∃ t, execFdiv h o s = .next t ∧ t.rom = s.rom := ⟨_, rfl, by simp only [ite_rom, ite_self, fpLong_rom]⟩

theorem execFsqrt_rom (h : Hd) (o : FpOp) (s : State) :
    ∃ t, execFsqrt h o s = .next t ∧ t.rom = s.rom := ⟨_, rfl, by simp only [ite_rom, ite_self, fpLong_rom]⟩

theorem execFcmp_rom (h : Hd) (o : FpOp) (s : State) :
    ∃ t, execFcmp h o s = .next t ∧ t.rom = s.rom := ⟨_, rfl, by simp only [ite_rom, ite_self, fpLong_rom]⟩

theorem moveEff_rom (n : Nat) (o : MoveOp) (s : State) :
    (moveEff n o s).state.rom = s.rom := rfl

theorem cmpEff_rom (k : AluK) (n : Nat) (o : MoveOp) (s : State) :
    (cmpEff k n o s).state.rom = s.rom := rfl

theorem countEff_rom (f : (w : Nat) → BitVec w → Nat) (n : Nat) (o : MoveOp) (s : State) :
    (countEff f n o s).state.rom = s.rom := rfl

theorem selEff_rom (h : Hd) (a : GReg) (b : GReg) (x : GReg) (s : State) :
    (selEff h a b x s).state.rom = s.rom := rfl

theorem fieldEff_rom (f : Word → Word → Word) (n : Nat) (o : FieldOp) (s : State) :
    (fieldEff f n o s).state.rom = s.rom := rfl

theorem execMov_rom (h : Hd) (o : MoveOp) (s : State) :
    ∃ t, execMov h o s = .next t ∧ t.rom = s.rom := ⟨_, rfl, by grind [State.rom_eq, State.issue_rom, moveEff_rom]⟩

theorem execCmp_rom (h : Hd) (o : MoveOp) (s : State) :
    ∃ t, execCmp h o s = .next t ∧ t.rom = s.rom := ⟨_, rfl, by grind [State.rom_eq, State.issue_rom, cmpEff_rom]⟩

theorem execTst_rom (h : Hd) (o : MoveOp) (s : State) :
    ∃ t, execTst h o s = .next t ∧ t.rom = s.rom := ⟨_, rfl, by grind [State.rom_eq, State.issue_rom, cmpEff_rom]⟩

theorem execPopc_rom (h : Hd) (o : MoveOp) (s : State) :
    ∃ t, execPopc h o s = .next t ∧ t.rom = s.rom := ⟨_, rfl, by grind [State.rom_eq, State.issue_rom, countEff_rom]⟩

theorem execClz_rom (h : Hd) (o : MoveOp) (s : State) :
    ∃ t, execClz h o s = .next t ∧ t.rom = s.rom := ⟨_, rfl, by grind [State.rom_eq, State.issue_rom, countEff_rom]⟩

theorem execSel_rom (h : Hd) (a : GReg) (b : GReg) (c : GReg) (s : State) :
    ∃ t, execSel h a b c s = .next t ∧ t.rom = s.rom := ⟨_, rfl, by grind [State.rom_eq, State.issue_rom, selEff_rom]⟩

theorem execFext_rom (h : Hd) (o : FieldOp) (s : State) :
    ∃ t, execFext h o s = .next t ∧ t.rom = s.rom := ⟨_, rfl, by grind [State.rom_eq, State.issue_rom, fieldEff_rom]⟩

theorem execFextS_rom (h : Hd) (o : FieldOp) (s : State) :
    ∃ t, execFextS h o s = .next t ∧ t.rom = s.rom := ⟨_, rfl, by grind [State.rom_eq, State.issue_rom, fieldEff_rom]⟩

theorem execFins_rom (h : Hd) (o : FieldOp) (s : State) :
    ∃ t, execFins h o s = .next t ∧ t.rom = s.rom := ⟨_, rfl, by grind [State.rom_eq, State.issue_rom, fieldEff_rom]⟩

/-! ### LoadStore -/

theorem loadEff_rom (n : Nat) (size : Nat) (reg : Bool) (o : MemOp) (s : State) :
    (loadEff n size reg o s).state.rom = s.rom := by
  unfold loadEff
  grind [State.rom_eq, Eff.state, MicroOut.st, State.load_rom, State.modCtx_rom]

theorem loadPairEff_rom (n : Nat) (o : MemOp) (s : State) :
    (loadPairEff n o s).state.rom = s.rom := by
  unfold loadPairEff
  grind [State.rom_eq, Eff.state, MicroOut.st, State.load_rom, State.modCtx_rom]

theorem loadCapEff_rom (n : Nat) (o : MemOp) (s : State) :
    (loadCapEff n o s).state.rom = s.rom := by
  unfold loadCapEff
  grind [State.rom_eq, Eff.state, MicroOut.st, State.load_rom, State.modCtx_rom]

theorem storeEff_rom (n : Nat) (reg : Bool) (bs : Ctx → List Byte) (o : MemOp) (s : State) :
    (storeEff n reg bs o s).state.rom = s.rom := by
  unfold storeEff
  grind [State.rom_eq, Eff.state, MicroOut.st, State.store_rom]

theorem storeCapEff_rom (n : Nat) (o : MemOp) (s : State) :
    (storeCapEff n o s).state.rom = s.rom := by
  unfold storeCapEff
  grind [State.rom_eq, Eff.state, MicroOut.st, State.store_rom]

theorem execLdb_rom (h : Hd) (o : MemOp) (s : State) :
    ∃ t, execLdb h o s = .next t ∧ t.rom = s.rom := ⟨_, rfl, by grind [State.rom_eq, State.issue_rom, loadEff_rom]⟩

theorem execLdh_rom (h : Hd) (o : MemOp) (s : State) :
    ∃ t, execLdh h o s = .next t ∧ t.rom = s.rom := ⟨_, rfl, by grind [State.rom_eq, State.issue_rom, loadEff_rom]⟩

theorem execLdw_rom (h : Hd) (o : MemOp) (s : State) :
    ∃ t, execLdw h o s = .next t ∧ t.rom = s.rom := ⟨_, rfl, by grind [State.rom_eq, State.issue_rom, loadEff_rom]⟩

theorem execLdd_rom (h : Hd) (o : MemOp) (s : State) :
    ∃ t, execLdd h o s = .next t ∧ t.rom = s.rom := ⟨_, rfl, by grind [State.rom_eq, State.issue_rom, loadPairEff_rom]⟩

theorem execLdc_rom (h : Hd) (o : MemOp) (s : State) :
    ∃ t, execLdc h o s = .next t ∧ t.rom = s.rom := ⟨_, rfl, by grind [State.rom_eq, State.issue_rom, loadCapEff_rom]⟩

theorem execStb_rom (h : Hd) (o : MemOp) (s : State) :
    ∃ t, execStb h o s = .next t ∧ t.rom = s.rom := ⟨_, rfl, by grind [State.rom_eq, State.issue_rom, storeEff_rom]⟩

theorem execSth_rom (h : Hd) (o : MemOp) (s : State) :
    ∃ t, execSth h o s = .next t ∧ t.rom = s.rom := ⟨_, rfl, by grind [State.rom_eq, State.issue_rom, storeEff_rom]⟩

theorem execStw_rom (h : Hd) (o : MemOp) (s : State) :
    ∃ t, execStw h o s = .next t ∧ t.rom = s.rom := ⟨_, rfl, by grind [State.rom_eq, State.issue_rom, storeEff_rom]⟩

theorem execStd_rom (h : Hd) (o : MemOp) (s : State) :
    ∃ t, execStd h o s = .next t ∧ t.rom = s.rom := ⟨_, rfl, by grind [State.rom_eq, State.issue_rom, storeEff_rom]⟩

theorem execStc_rom (h : Hd) (o : MemOp) (s : State) :
    ∃ t, execStc h o s = .next t ∧ t.rom = s.rom := ⟨_, rfl, by grind [State.rom_eq, State.issue_rom, storeCapEff_rom]⟩

theorem atomEff_rom (k : AtomK) (n : Nat) (o : AtomOp) (s : State) :
    (atomEff k n o s).state.rom = s.rom := by
  unfold atomEff
  grind [State.rom_eq, Eff.state, MicroOut.st, State.atomic_rom, State.modCtx_rom]

theorem casEff_rom (n : Nat) (o : AtomOp) (s : State) :
    (casEff n o s).state.rom = s.rom := by
  unfold casEff
  grind [State.rom_eq, Eff.state, MicroOut.st, State.atomic_rom, State.modCtx_rom]

theorem atomIssue_rom (h : Hd) (o : AtomOp) (d : Deps) (f : State → Eff) (s : State) (hf : ∀ s, (f s).state.rom = s.rom) :
    (atomIssue h o d f s).rom = s.rom := by
  unfold atomIssue
  exact State.issue_rom _ _ _ _ _ _ _ hf

theorem execAtomicSwap_rom (h : Hd) (o : AtomOp) (s : State) :
    ∃ t, execAtomicSwap h o s = .next t ∧ t.rom = s.rom := ⟨_, rfl, by grind [State.rom_eq, atomIssue_rom, atomEff_rom]⟩

theorem execAtomicAdd_rom (h : Hd) (o : AtomOp) (s : State) :
    ∃ t, execAtomicAdd h o s = .next t ∧ t.rom = s.rom := ⟨_, rfl, by grind [State.rom_eq, atomIssue_rom, atomEff_rom]⟩

theorem execAtomicAnd_rom (h : Hd) (o : AtomOp) (s : State) :
    ∃ t, execAtomicAnd h o s = .next t ∧ t.rom = s.rom := ⟨_, rfl, by grind [State.rom_eq, atomIssue_rom, atomEff_rom]⟩

theorem execAtomicOr_rom (h : Hd) (o : AtomOp) (s : State) :
    ∃ t, execAtomicOr h o s = .next t ∧ t.rom = s.rom := ⟨_, rfl, by grind [State.rom_eq, atomIssue_rom, atomEff_rom]⟩

theorem execAtomicXor_rom (h : Hd) (o : AtomOp) (s : State) :
    ∃ t, execAtomicXor h o s = .next t ∧ t.rom = s.rom := ⟨_, rfl, by grind [State.rom_eq, atomIssue_rom, atomEff_rom]⟩

theorem execAtomicSmin_rom (h : Hd) (o : AtomOp) (s : State) :
    ∃ t, execAtomicSmin h o s = .next t ∧ t.rom = s.rom := ⟨_, rfl, by grind [State.rom_eq, atomIssue_rom, atomEff_rom]⟩

theorem execAtomicSmax_rom (h : Hd) (o : AtomOp) (s : State) :
    ∃ t, execAtomicSmax h o s = .next t ∧ t.rom = s.rom := ⟨_, rfl, by grind [State.rom_eq, atomIssue_rom, atomEff_rom]⟩

theorem execCas_rom (h : Hd) (o : AtomOp) (s : State) :
    ∃ t, execCas h o s = .next t ∧ t.rom = s.rom := ⟨_, rfl, by grind [State.rom_eq, atomIssue_rom, casEff_rom]⟩

/-! ### Control -/

theorem branchEff_rom (h : Hd) (t : State → Word) (link : Bool) (reg : Bool) (kind : Nat) (s : State) :
    (branchEff h t link reg kind s).state.rom = s.rom := by
  unfold branchEff
  grind [State.rom_eq, Eff.state, MicroOut.st, State.resolveBranch_rom, State.modCtx_rom, State.pushReturn_rom, State.popReturn_rom]

theorem execBr_rom (h : Hd) (d : Disp) (s : State) :
    ∃ t, execBr h d s = .next t ∧ t.rom = s.rom := ⟨_, rfl, by grind [State.rom_eq, State.issue_rom, branchEff_rom]⟩

theorem execCall_rom (h : Hd) (d : Disp) (s : State) :
    ∃ t, execCall h d s = .next t ∧ t.rom = s.rom := ⟨_, rfl, by grind [State.rom_eq, State.issue_rom, branchEff_rom]⟩

theorem execBrR_rom (h : Hd) (a : GReg) (s : State) :
    ∃ t, execBrR h a s = .next t ∧ t.rom = s.rom := ⟨_, rfl, by grind [State.rom_eq, State.issue_rom, branchEff_rom]⟩

theorem execCallR_rom (h : Hd) (a : GReg) (s : State) :
    ∃ t, execCallR h a s = .next t ∧ t.rom = s.rom := ⟨_, rfl, by grind [State.rom_eq, State.issue_rom, branchEff_rom]⟩

theorem execRet_rom (h : Hd) (s : State) :
    ∃ t, execRet h s = .next t ∧ t.rom = s.rom := ⟨_, rfl, by grind [State.rom_eq, State.issue_rom, branchEff_rom]⟩

theorem trapEff_rom (h : Hd) (t : BitVec 5) (s : State) :
    (trapEff h t s).state.rom = s.rom := State.takeExc_rom ..

theorem waitEff_rom (n : Nat) (len : Nat) (s : State) :
    (waitEff n len s).state.rom = s.rom := by
  unfold waitEff
  grind [State.rom_eq, Eff.state, MicroOut.st, State.modCtx_rom]

theorem alarmEff_rom (n : Nat) (a : GReg) (s : State) :
    (alarmEff n a s).state.rom = s.rom := by
  unfold alarmEff
  grind [State.rom_eq, Eff.state, MicroOut.st, State.modCtx_rom]

theorem eoiEff_rom (n : Nat) (a : GReg) (s : State) :
    (eoiEff n a s).state.rom = s.rom := by
  unfold eoiEff
  grind [State.rom_eq, Eff.state, MicroOut.st, State.modCtx_rom, State.endService_rom]

theorem sgiEff_rom (n : Nat) (a : GReg) (s : State) :
    (sgiEff n a s).state.rom = s.rom := by
  unfold sgiEff
  grind [State.rom_eq, Eff.state, MicroOut.st, State.raise_rom]

theorem execEret_rom (h : Hd) (s : State) :
    ∃ t, execEret h s = .next t ∧ t.rom = s.rom := ⟨_, rfl, by grind [State.rom_eq, Eff.state, MicroOut.st, State.issue_rom, vendored_rom, State.eretNow_rom]⟩

theorem execWait_rom (h : Hd) (s : State) :
    ∃ t, execWait h s = .next t ∧ t.rom = s.rom := ⟨_, rfl, by grind [State.rom_eq, State.issue_rom, waitEff_rom]⟩

theorem execTrap_rom (h : Hd) (n : BitVec 5) (s : State) :
    ∃ t, execTrap h n s = .next t ∧ t.rom = s.rom := ⟨_, rfl, by grind [State.rom_eq, State.issue_rom, vendored_rom, trapEff_rom]⟩

theorem execEoi_rom (h : Hd) (a : GReg) (s : State) :
    ∃ t, execEoi h a s = .next t ∧ t.rom = s.rom := ⟨_, rfl, by grind [State.rom_eq, State.issue_rom, eoiEff_rom]⟩

theorem execSgi_rom (h : Hd) (a : GReg) (s : State) :
    ∃ t, execSgi h a s = .next t ∧ t.rom = s.rom := ⟨_, rfl, by grind [State.rom_eq, State.issue_rom, sgiEff_rom]⟩

theorem execAlarm_rom (h : Hd) (a : GReg) (s : State) :
    ∃ t, execAlarm h a s = .next t ∧ t.rom = s.rom := ⟨_, rfl, by grind [State.rom_eq, State.issue_rom, alarmEff_rom]⟩

theorem execNop_rom (h : Hd) (s : State) :
    ∃ t, execNop h s = .next t ∧ t.rom = s.rom := ⟨_, rfl, by grind [State.rom_eq, Eff.state, MicroOut.st, State.issue_rom]⟩

/-! ### CapOps -/

theorem capEff_rom (n : Nat) (a : KReg) (r : State → Except Nat Cap) (s : State) :
    (capEff n a r s).state.rom = s.rom := by
  unfold capEff
  grind [State.rom_eq, Eff.state, MicroOut.st, State.modCtx_rom]

theorem csetsEff_rom (n : Nat) (b : KReg) (i : Nat) (s : State) :
    (csetsEff n b i s).state.rom = s.rom := by
  unfold csetsEff
  grind [State.rom_eq, Eff.state, MicroOut.st, State.setCtx_rom]

theorem cjumpEff_rom (n : Nat) (a : KReg) (b : KReg) (x : GReg) (s : State) :
    (cjumpEff n a b x s).state.rom = s.rom := by
  unfold cjumpEff
  grind [State.rom_eq, Eff.state, MicroOut.st, State.setCtx_rom]

theorem execCbound_rom (h : Hd) (a : KReg) (b : KReg) (c : GReg) (s : State) :
    ∃ t, execCbound h a b c s = .next t ∧ t.rom = s.rom := ⟨_, rfl, by grind [State.rom_eq, State.issue_rom, capEff_rom]⟩

theorem execCrestrict_rom (h : Hd) (a : KReg) (b : KReg) (c : GReg) (s : State) :
    ∃ t, execCrestrict h a b c s = .next t ∧ t.rom = s.rom := ⟨_, rfl, by grind [State.rom_eq, State.issue_rom, capEff_rom]⟩

theorem execCseal_rom (h : Hd) (a : KReg) (b : KReg) (c : KReg) (s : State) :
    ∃ t, execCseal h a b c s = .next t ∧ t.rom = s.rom := ⟨_, rfl, by grind [State.rom_eq, State.issue_rom, capEff_rom]⟩

theorem execCunseal_rom (h : Hd) (a : KReg) (b : KReg) (c : KReg) (s : State) :
    ∃ t, execCunseal h a b c s = .next t ∧ t.rom = s.rom := ⟨_, rfl, by grind [State.rom_eq, State.issue_rom, capEff_rom]⟩

theorem execCget_rom (h : Hd) (a : GReg) (b : KReg) (selr : Nat) (s : State) :
    ∃ t, execCget h a b selr s = .next t ∧ t.rom = s.rom := ⟨_, rfl, by grind [State.rom_eq, Eff.state, MicroOut.st, State.issue_rom, State.modCtx_rom]⟩

theorem execCsetc_rom (h : Hd) (a : KReg) (b : KReg) (c : GReg) (s : State) :
    ∃ t, execCsetc h a b c s = .next t ∧ t.rom = s.rom := ⟨_, rfl, by grind [State.rom_eq, State.issue_rom, capEff_rom]⟩

theorem execCmove_rom (h : Hd) (a : KReg) (b : KReg) (s : State) :
    ∃ t, execCmove h a b s = .next t ∧ t.rom = s.rom := ⟨_, rfl, by grind [State.rom_eq, State.issue_rom, capEff_rom]⟩

theorem execCgets_rom (h : Hd) (a : KReg) (selr : Nat) (s : State) :
    ∃ t, execCgets h a selr s = .next t ∧ t.rom = s.rom := ⟨_, rfl, by grind [State.rom_eq, State.issue_rom, capEff_rom]⟩

theorem execCsets_rom (h : Hd) (b : KReg) (selr : Nat) (s : State) :
    ∃ t, execCsets h b selr s = .next t ∧ t.rom = s.rom := ⟨_, rfl, by grind [State.rom_eq, State.issue_rom, csetsEff_rom]⟩

theorem execCjump_rom (h : Hd) (a : KReg) (b : KReg) (c : GReg) (s : State) :
    ∃ t, execCjump h a b c s = .next t ∧ t.rom = s.rom := ⟨_, rfl, by grind [State.rom_eq, State.issue_rom, vendored_rom, cjumpEff_rom]⟩

/-! ### SysReg -/

theorem State.blockWrite_rom (s : State) (x : Nat) (i : Nat) (w : Nat) (v : Word) :
    (State.blockWrite s x i w v).rom = s.rom := State.modCtx_rom ..

theorem State.srWrite_rom (s : State) (x : Nat) (n : Nat) (v : Word) :
    (State.srWrite s x n v).rom = s.rom := by
  unfold State.srWrite
  dsimp only
  simp only [ite_rom, State.modCtx_rom, State.onMem_rom, State.blockWrite_rom]
  (repeat' split) <;> rfl

theorem srEff_rom (x : Nat) (n : Nat) (write : Bool) (f : State → State) (s : State) (hf : ∀ s, (f s).rom = s.rom) :
    (srEff x n write f s).state.rom = s.rom := by
  unfold srEff
  grind [Eff.state]

theorem execGetsr_rom (h : Hd) (a : GReg) (n : BitVec 18) (s : State) :
    ∃ t, execGetsr h a n s = .next t ∧ t.rom = s.rom := ⟨_, rfl, by grind [State.rom_eq, State.issue_rom, srEff_rom, State.modCtx_rom]⟩

theorem execSetsr_rom (h : Hd) (a : GReg) (n : BitVec 18) (s : State) :
    ∃ t, execSetsr h a n s = .next t ∧ t.rom = s.rom := ⟨_, rfl, by grind [State.rom_eq, State.issue_rom, srEff_rom, State.srWrite_rom]⟩

theorem blkIssue.go_rom (k : BlkKind) (h : Hd) (o : BlkOp) (s : State) :
    (blkIssue.go k h o s).state.rom = s.rom := by
  unfold blkIssue.go
  grind [State.rom_eq, Eff.state, MicroOut.st, vendored_rom]

theorem blkIssue_rom (k : BlkKind) (h : Hd) (o : BlkOp) (s : State) :
    (blkIssue k h o s).rom = s.rom := by
  unfold blkIssue
  grind [State.rom_eq, Eff.state, MicroOut.st, State.issue_rom, blkIssue.go_rom]

theorem execBlkmove_rom (h : Hd) (o : BlkOp) (s : State) :
    ∃ t, execBlkmove h o s = .next t ∧ t.rom = s.rom := ⟨_, rfl, by simp only [ite_rom, ite_self, blkIssue_rom]⟩

theorem execBlkfill_rom (h : Hd) (o : BlkOp) (s : State) :
    ∃ t, execBlkfill h o s = .next t ∧ t.rom = s.rom := ⟨_, rfl, by simp only [ite_rom, ite_self, blkIssue_rom]⟩

theorem execMatchWords_rom (h : Hd) (o : BlkOp) (s : State) :
    ∃ t, execMatchWords h o s = .next t ∧ t.rom = s.rom := ⟨_, rfl, by simp only [ite_rom, ite_self, blkIssue_rom]⟩

theorem maintEff_rom (n : Nat) (a : GReg) (auth : KReg) (perm : Nat) (f : Mem → Asker → Nat → Mem) (s : State) :
    (maintEff n a auth perm f s).state.rom = s.rom := by
  unfold maintEff
  grind [State.rom_eq, Eff.state, MicroOut.st, State.maintLine_rom, State.drainCtx_rom, State.onMem_rom]

theorem pccEff_rom (n : Nat) (perm : Nat) (f : State → State) (s : State) (hf : ∀ s, (f s).rom = s.rom) :
    (pccEff n perm f s).state.rom = s.rom := by
  unfold pccEff
  grind [Eff.state]

theorem cleanSet_rom (n : Nat) (g : Word) (s : State) :
    (cleanSet n g s).rom = s.rom := by
  unfold cleanSet
  grind [State.rom_eq, State.onMem_rom]

theorem invPage_rom (n : Nat) (g : Word) (s : State) :
    (invPage n g s).rom = s.rom := by
  unfold invPage
  grind [State.rom_eq, State.dropTlb_rom]

theorem execCleanA_rom (h : Hd) (a : GReg) (auth : KReg) (s : State) :
    ∃ t, execCleanA h a auth s = .next t ∧ t.rom = s.rom := ⟨_, rfl, by grind [State.rom_eq, State.issue_rom, maintEff_rom]⟩

theorem execInvA_rom (h : Hd) (a : GReg) (auth : KReg) (s : State) :
    ∃ t, execInvA h a auth s = .next t ∧ t.rom = s.rom := ⟨_, rfl, by grind [State.rom_eq, State.issue_rom, maintEff_rom]⟩

theorem execCleanS_rom (h : Hd) (a : GReg) (s : State) :
    ∃ t, execCleanS h a s = .next t ∧ t.rom = s.rom := ⟨_, rfl, by grind [State.rom_eq, State.issue_rom, pccEff_rom, cleanSet_rom]⟩

theorem execInvpg_rom (h : Hd) (a : GReg) (s : State) :
    ∃ t, execInvpg h a s = .next t ∧ t.rom = s.rom := ⟨_, rfl, by grind [State.rom_eq, State.issue_rom, pccEff_rom, invPage_rom]⟩

theorem execInvwalk_rom (h : Hd) (s : State) :
    ∃ t, execInvwalk h s = .next t ∧ t.rom = s.rom := ⟨_, rfl, by grind [State.rom_eq, State.issue_rom, pccEff_rom, State.dropTlb_rom]⟩

theorem execInvblk_rom (h : Hd) (n : BitVec 4) (s : State) :
    ∃ t, execInvblk h n s = .next t ∧ t.rom = s.rom := ⟨_, rfl, by grind [State.rom_eq, State.issue_rom, pccEff_rom, State.dropTlb_rom]⟩

theorem execFenceM_rom (h : Hd) (s : State) :
    ∃ t, execFenceM h s = .next t ∧ t.rom = s.rom := ⟨_, rfl, by grind [State.rom_eq, Eff.state, MicroOut.st, State.issue_rom, State.drainCtx_rom]⟩

theorem execFenceL_rom (h : Hd) (s : State) :
    ∃ t, execFenceL h s = .next t ∧ t.rom = s.rom := ⟨_, rfl, by grind [State.rom_eq, Eff.state, MicroOut.st, State.issue_rom]⟩

theorem execFenceI_rom (h : Hd) (s : State) :
    ∃ t, execFenceI h s = .next t ∧ t.rom = s.rom := ⟨_, rfl, by grind [State.rom_eq, Eff.state, MicroOut.st, State.issue_rom, State.refetch_rom, State.drainCtx_rom]⟩

theorem execFenceT_rom (h : Hd) (s : State) :
    ∃ t, execFenceT h s = .next t ∧ t.rom = s.rom := ⟨_, rfl, by grind [State.rom_eq, Eff.state, MicroOut.st, State.issue_rom, State.modCtx_rom]⟩

/-! ### Customer -/

theorem microDst_rom (s : State) (n : Nat) (r : Routine) (sel : Nat) (v : Word) :
    (microDst s n r sel v).1.rom = s.rom := by
  unfold microDst
  grind [State.rom_eq, State.modCtx_rom]

theorem microNext_rom (s : State) (r : Routine) (w : Nat) (next : Nat) :
    (microNext s r w next).st.rom = s.rom := by
  unfold microNext
  grind [State.rom_eq, Eff.state, MicroOut.st]

theorem State.microStep_rom (s : State) (n : Nat) (r : Routine) (w : Nat) :
    (State.microStep s n r w).st.rom = s.rom := by
  unfold State.microStep
  grind [State.rom_eq, Eff.state, MicroOut.st, State.modCtx_rom, microDst_rom, microNext_rom, State.load_rom, State.store_rom, State.drainCtx_rom]

theorem State.microRun_rom (s : State) (n : Nat) (x2 : Nat) (x3 : Routine) :
    (State.microRun s n x2 x3).st.rom = s.rom := by
  fun_induction State.microRun <;> grind [State.rom_eq, Eff.state, MicroOut.st, State.modCtx_rom, State.readMicro_rom, State.microStep_rom]

theorem custOut_rom (n : Nat) (m : MicroOut) : (custOut n m).state.rom = m.st.rom := by
  cases m <;> rfl

theorem State.custGo_rom (s : State) (n : Nat) (r : Routine) :
    (State.custGo s n r).state.rom = s.rom := by
  unfold State.custGo
  rw [custOut_rom]
  exact State.microRun_rom ..

theorem custEff_rom (h : Hd) (o : CustOp) (s : State) :
    (custEff h o s).state.rom = s.rom := by
  unfold custEff
  grind [State.rom_eq, Eff.state, MicroOut.st, State.custGo_rom]

theorem State.custContinue_rom (s : State) (n : Nat) (o : CustOp) :
    (State.custContinue s n o).rom = s.rom := by
  unfold State.custContinue
  split
  · rfl
  dsimp only
  split
  · rfl
  · rw [State.finish_rom, State.custGo_rom]

theorem execCustomerInstruction_rom (h : Hd) (o : CustOp) (s : State) :
    ∃ t, execCustomerInstruction h o s = .next t ∧ t.rom = s.rom := ⟨_, rfl, by grind [State.rom_eq, State.stopCores_rom, State.custContinue_rom, State.strike_rom, State.issue_rom, custEff_rom]⟩

theorem execCustomerRoutineLimit_rom (ctx : Nat) (s : State) :
    ∃ t, execCustomerRoutineLimit ctx s = .next t ∧ t.rom = s.rom := ⟨_, rfl, by grind [State.rom_eq, State.stopCores_rom, State.takeExc_rom]⟩

theorem execIllegal_rom (ctx : Nat) (bytes : List Byte) (s : State) :
    ∃ t, execIllegal ctx bytes s = .next t ∧ t.rom = s.rom := ⟨_, rfl, by grind [State.rom_eq, Eff.state, MicroOut.st, State.issue_rom]⟩

/-! ### CoreEvents -/

theorem takeEff_rom (h : Hd) (a : KReg) (b : KReg) (s : State) :
    (takeEff h a b s).state.rom = s.rom := by
  unfold takeEff
  grind [State.rom_eq, Eff.state, MicroOut.st, State.takeAlarm_rom, State.modCtx_rom]

theorem decideEff_rom (n : Nat) (a : GReg) (b : GReg) (k : KReg) (s : State) :
    (decideEff n a b k s).state.rom = s.rom := by
  unfold decideEff
  grind [State.rom_eq, Eff.state, MicroOut.st, State.dolDecide_rom, State.modCtx_rom]

theorem doneEff_rom (n : Nat) (a : KReg) (s : State) :
    (doneEff n a s).state.rom = s.rom := by
  unfold doneEff
  grind [State.rom_eq, Eff.state, MicroOut.st, State.modCtx_rom, State.freeCoach_rom]

theorem execTake_rom (h : Hd) (a : KReg) (b : KReg) (s : State) :
    ∃ t, execTake h a b s = .next t ∧ t.rom = s.rom := ⟨_, rfl, by grind [State.rom_eq, State.issue_rom, vendored_rom, takeEff_rom]⟩

theorem execDecide_rom (h : Hd) (a : GReg) (b : GReg) (c : KReg) (s : State) :
    ∃ t, execDecide h a b c s = .next t ∧ t.rom = s.rom := ⟨_, rfl, by grind [State.rom_eq, State.issue_rom, vendored_rom, decideEff_rom]⟩

theorem execDone_rom (h : Hd) (a : KReg) (s : State) :
    ∃ t, execDone h a s = .next t ∧ t.rom = s.rom := ⟨_, rfl, by grind [State.rom_eq, State.issue_rom, vendored_rom, doneEff_rom]⟩

theorem State.longDone_rom (s : State) (n : Nat) (idx : Nat) :
    (State.longDone s n idx).rom = s.rom := by
  unfold State.longDone
  grind [State.rom_eq, State.finishHead_rom, State.enter_rom, State.runLong_rom, State.modCtx_rom]

theorem execLongOpComplete_rom (ctx : Nat) (idx : Nat) (s : State) :
    ∃ t, execLongOpComplete ctx idx s = .next t ∧ t.rom = s.rom := ⟨_, rfl, by simp only [ite_rom, ite_self, State.stopCores_rom, State.longDone_rom]⟩

theorem execMergeEntryIdle_rom (core : Nat) (idx : Nat) (s : State) :
    ∃ t, execMergeEntryIdle core idx s = .next t ∧ t.rom = s.rom := ⟨_, rfl, rfl⟩

theorem State.mergeDrain_rom (s : State) (k : Nat) (parityOk : Bool) :
    (State.mergeDrain s k parityOk).rom = s.rom := by
  unfold State.mergeDrain
  grind [State.rom_eq, State.stopCores_rom, State.drainSome_rom]

theorem execMergeEntryDrain_rom (core : Nat) (parityOk : Bool) (s : State) :
    ∃ t, execMergeEntryDrain core parityOk s = .next t ∧ t.rom = s.rom := ⟨_, rfl, by simp only [ite_rom, ite_self, State.mergeDrain_rom]⟩

theorem State.storeError_rom (s : State) (n : Nat) :
    (State.storeError s n).rom = s.rom := by
  unfold State.storeError
  grind [State.rom_eq, State.modCore_rom, State.record_rom, State.wedge_rom, State.modCtx_rom]

theorem execAsyncStoreError_rom (ctx : Nat) (s : State) :
    ∃ t, execAsyncStoreError ctx s = .next t ∧ t.rom = s.rom := ⟨_, rfl, by simp only [ite_rom, ite_self, State.storeError_rom]⟩

theorem State.alarmFires_rom (s : State) (n : Nat) :
    (State.alarmFires s n).rom = s.rom := by
  unfold State.alarmFires
  simp only [ite_rom, ite_self, State.modCtx_rom, State.cluWake_rom, State.alarmEnds_rom]

theorem execAlarmFire_rom (ctx : Nat) (s : State) :
    ∃ t, execAlarmFire ctx s = .next t ∧ t.rom = s.rom := ⟨_, rfl, by grind [State.rom_eq, State.alarmFires_rom]⟩

theorem execDeadlineDue_rom (ctx : Nat) (s : State) :
    ∃ t, execDeadlineDue ctx s = .next t ∧ t.rom = s.rom := ⟨_, rfl, by grind [State.rom_eq, State.modCtx_rom]⟩

theorem State.condLine_rom (s : State) (src : Nat) (b : Bool) :
    (State.condLine s src b).rom = s.rom := by
  unfold State.condLine
  simp only [ite_rom, ite_self, State.setLine_rom]

theorem State.sourceArrival_rom (s : State) (src : Nat) :
    (State.sourceArrival s src).rom = s.rom := by
  unfold State.sourceArrival
  simp only [ite_rom, ite_self, State.raise_rom, State.condLine_rom]

theorem execSourceArrival_rom (src : Nat) (s : State) :
    ∃ t, execSourceArrival src s = .next t ∧ t.rom = s.rom := ⟨_, rfl, by simp only [ite_rom, ite_self, State.sourceArrival_rom]⟩

theorem execLevelLineChange_rom (src : Nat) (asserted : Bool) (s : State) :
    ∃ t, execLevelLineChange src asserted s = .next t ∧ t.rom = s.rom := ⟨_, rfl, by simp only [ite_rom, ite_self, State.condLine_rom]⟩

theorem State.deliverNext_rom (s : State) :
    (State.deliverNext s).rom = s.rom := by
  unfold State.deliverNext
  grind [State.rom_eq, State.cluWake_rom, State.icuDeliver_rom]

theorem State.icuEntryError_rom (s : State) :
    (State.icuEntryError s).rom = s.rom := by
  unfold State.icuEntryError
  grind [State.rom_eq, State.record_rom, State.setSrc_rom, State.tblMet_rom]

theorem execInterruptDelivery_rom (s : State) :
    ∃ t, execInterruptDelivery s = .next t ∧ t.rom = s.rom := ⟨_, rfl, by simp only [ite_rom, ite_self, State.deliverNext_rom, State.icuEntryError_rom]⟩

theorem State.countAccept_rom (s : State) (n : Nat) (d : Delivery) :
    (State.countAccept s n d).rom = s.rom := by
  unfold State.countAccept
  simp only [ite_rom, ite_self, State.setSrc_rom, State.modCtx_rom]

theorem State.acceptWith_rom (s : State) (n : Nat) (d : Delivery) (e : Exc) :
    (State.acceptWith s n d e).rom = s.rom := by
  unfold State.acceptWith
  simp only [ite_rom, ite_self, State.enter_rom, State.countAccept_rom]

theorem State.acceptHere_rom (s : State) (n : Nat) (d : Delivery) :
    (State.acceptHere s n d).rom = s.rom := by
  unfold State.acceptHere
  grind [State.rom_eq, State.acceptWith_rom, State.retireTo_rom, State.modCtx_rom, State.leaveWaiting_rom]

theorem State.acceptBlk_rom (s : State) (n : Nat) (d : Delivery) (op : LongOp) (k : BlkKind) (o : BlkOp) (m : Nat) :
    (State.acceptBlk s n d op k o m).rom = s.rom := by
  unfold State.acceptBlk
  grind [State.rom_eq, State.settleAll_rom, State.enter_rom, State.acceptHere_rom, State.modCtx_rom, State.blkGo_rom, State.vendorMicro_rom, State.acceptWith_rom]

theorem State.acceptLong_rom (s : State) (n : Nat) (d : Delivery) (m : Nat) :
    (State.acceptLong s n d m).rom = s.rom := by
  unfold State.acceptLong
  grind [State.rom_eq, State.acceptHere_rom, State.acceptBlk_rom, State.settleAll_rom, State.enter_rom, State.finishHead_rom]

theorem State.accept_rom (s : State) (n : Nat) (m : Nat) :
    (State.accept s n m).rom = s.rom := by
  unfold State.accept
  grind [State.rom_eq, State.takeExc_rom, State.leaveWaiting_rom, State.returnHeld_rom, State.acceptLong_rom]

theorem execInterruptAccept_rom (ctx : Nat) (progress : Nat) (s : State) :
    ∃ t, execInterruptAccept ctx progress s = .next t ∧ t.rom = s.rom := ⟨_, rfl, by simp only [ite_rom, ite_self, State.stopCores_rom, State.accept_rom]⟩

theorem execIcuClockStop_rom (s : State) :
    ∃ t, execIcuClockStop s = .next t ∧ t.rom = s.rom := ⟨_, rfl, by simp only [ite_rom, ite_self, State.icuStop_rom]⟩

theorem execIcuClockRestart_rom (src : Nat) (s : State) :
    ∃ t, execIcuClockRestart src s = .next t ∧ t.rom = s.rom := ⟨_, rfl, by simp only [ite_rom, ite_self, State.sourceArrival_rom, State.icuRestart_rom]⟩

theorem execIcuLeaseExpiry_rom (s : State) :
    ∃ t, execIcuLeaseExpiry s = .next t ∧ t.rom = s.rom := ⟨_, rfl, by grind [State.rom_eq, State.icuBreak_rom]⟩

/-! ### Power -/

theorem State.emberCtx_rom (s : State) (n : Nat) :
    (State.emberCtx s n).rom = s.rom := by
  unfold State.emberCtx
  grind [State.rom_eq, State.leaveWaiting_rom, State.takeExc_rom, State.settleAll_rom, State.enter_rom]

theorem State.emberSteps_rom (s : State) (k : Nat) :
    (State.emberSteps s k).rom = s.rom := by
  unfold State.emberSteps
  grind [State.rom_eq, State.stopCores_rom, State.each_rom, State.emberCtx_rom, State.drainCore_rom]

theorem State.cluEmber_rom (s : State) (k : Nat) :
    (State.cluEmber s k).rom = s.rom := by
  unfold State.cluEmber
  simp only [ite_rom, ite_self, State.setClu_rom, State.emberSteps_rom]

theorem State.cluToOff_rom (s : State) (k : Nat) :
    (State.cluToOff s k).rom = s.rom := by
  unfold State.cluToOff
  grind [State.rom_eq, State.cluOff_rom, State.emberSteps_rom]

theorem State.cluUp_rom (s : State) (k : Nat) :
    (State.cluUp s k).rom = s.rom := by
  unfold State.cluUp
  grind [State.rom_eq, State.each_rom, State.loadCore_rom, State.setClu_rom, State.armCore_rom]

theorem State.lost_rom (s : State) (mem : Mem) (eau : Eau) (chans : Tbl Chan) :
    (State.lost s mem eau chans).rom = s.rom := rfl

theorem State.wake_rom (s : State) (w : WakeSrc) :
    (State.wake s w).rom = s.rom := by
  unfold State.wake
  grind [State.rom_eq, State.elapse_rom]

theorem State.pinTo_rom (s : State) (w : WakeSrc) :
    (State.pinTo s w).rom = s.rom := by
  unfold State.pinTo
  grind [State.rom_eq, State.setLine_rom, State.modPort_rom]

theorem State.wakeNow_rom (s : State) (w : WakeSrc) :
    (State.wakeNow s w).rom = s.rom := by
  unfold State.wakeNow
  grind [State.rom_eq, State.wake_rom]

theorem execWakeEvent_rom (src : WakeSrc) (s : State) :
    ∃ t, execWakeEvent src s = .next t ∧ t.rom = s.rom := ⟨_, rfl, by simp only [ite_rom, ite_self, State.wakeNow_rom, State.pinTo_rom]⟩

theorem execBrownOut_rom (s : State) :
    ∃ t, execBrownOut s = .next t ∧ t.rom = s.rom := ⟨_, rfl, by grind [State.rom_eq, State.wake_rom]⟩

theorem execHp0WakeNTimeout_rom (s : State) :
    ∃ t, execHp0WakeNTimeout s = .next t ∧ t.rom = s.rom := ⟨_, rfl, rfl⟩

theorem State.finishBank_rom (s : State) (b : Nat) :
    (State.finishBank s b).rom = s.rom := by
  unfold State.finishBank
  exact foldl_rom _ (fun s a => (State.bankServe_rom _ _ _ _ State.task_rom).trans (State.bankServe_rom _ _ _ _ (fun s c => State.cart_rom s b c))) _ _

theorem State.finishEau_rom (s : State) :
    (State.finishEau s).rom = s.rom := by
  unfold State.finishEau
  simp (disch := (intros; first | with_reducible rfl | grind [State.rom_eq, Eff.state, MicroOut.st, State.eauTake_rom, State.profileSet_rom, State.poolSet_rom, State.quotaSet_rom])) only [foldl_rom, ite_rom, ite_self, State.eauTake_rom, State.profileSet_rom, State.poolSet_rom, State.quotaSet_rom]

theorem State.breakAll_rom (s : State) :
    (State.breakAll s).rom = s.rom := by
  unfold State.breakAll
  grind [State.rom_eq, State.each_rom, State.icuBreak_rom, State.ringBreak_rom, State.profBreak_rom, State.poolBreak_rom]

theorem State.memDown_rom (s : State) (peat : Bool) :
    (State.memDown s peat).rom = s.rom := by
  unfold State.memDown
  grind [State.rom_eq, State.each_rom, State.onMem_rom]

theorem State.sleepEnd_rom (s : State) (peat : Bool) :
    (State.sleepEnd s peat).rom = s.rom := by
  unfold State.sleepEnd
  grind [State.rom_eq, State.elapse_rom, State.each_rom, State.chanRefresh_rom, State.lost_rom, State.wake_rom]

theorem State.sleepTry_rom (s : State) :
    (State.sleepTry s).rom = s.rom := by
  unfold State.sleepTry
  grind [State.rom_eq, State.sleepEnd_rom]

theorem State.sleepStart_rom (s : State) (j : PowerJob) :
    (State.sleepStart s j).rom = s.rom := by
  unfold State.sleepStart
  grind [State.rom_eq, State.finishEau_rom, State.each_rom, State.finishBank_rom, State.cluToOff_rom, State.eauSleep_rom, State.breakAll_rom, State.memDown_rom, State.complete_rom, State.sleepTry_rom]

theorem State.portSettled_rom (s : State) (p : Nat) :
    (State.portSettled s p).rom = s.rom := by
  unfold State.portSettled
  grind [State.rom_eq, State.sleepTry_rom]

theorem execPmeTurnOffHandshake_rom (port : Nat) (s : State) :
    ∃ t, execPmeTurnOffHandshake port s = .next t ∧ t.rom = s.rom := ⟨_, rfl, by grind [State.rom_eq, State.portSettled_rom, State.each_rom, State.modPort_rom]⟩

theorem execPmeTurnOffTimeout_rom (port : Nat) (s : State) :
    ∃ t, execPmeTurnOffTimeout port s = .next t ∧ t.rom = s.rom := ⟨_, rfl, by grind [State.rom_eq, State.portSettled_rom, State.linkGone_rom]⟩

theorem State.runOne_rom (s : State) (k : Nat) :
    (State.runOne s k).rom = s.rom := by
  unfold State.runOne
  grind [State.rom_eq, State.cluRun_rom, State.cluUp_rom]

theorem State.emberOne_rom (s : State) (k : Nat) :
    (State.emberOne s k).rom = s.rom := by
  unfold State.emberOne
  grind [State.rom_eq, State.cluToOff_rom, State.cluEmber_rom]

theorem State.powerStart_rom (s : State) (j : PowerJob) :
    (State.powerStart s j).rom = s.rom := by
  unfold State.powerStart
  grind [State.rom_eq, State.breakDue_rom, State.complete_rom, State.each_rom, State.runOne_rom, State.emberOne_rom, State.sleepStart_rom]

theorem State.powerCarriage_rom (s : State) (c : Carriage) :
    (State.powerCarriage s c).rom = s.rom := by
  unfold State.powerCarriage
  grind [State.rom_eq, State.complete_rom, State.powerStart_rom]

theorem execPower_rom (s : State) :
    ∃ t, execPower s = .next t ∧ t.rom = s.rom := ⟨_, rfl, by grind [State.rom_eq, State.svcRow_rom, State.powerCarriage_rom]⟩

theorem execPowerEntryStart_rom (s : State) :
    ∃ t, execPowerEntryStart s = .next t ∧ t.rom = s.rom := ⟨_, rfl, by grind [State.rom_eq, State.powerStart_rom]⟩

theorem execPowerQuietTimeout_rom (s : State) :
    ∃ t, execPowerQuietTimeout s = .next t ∧ t.rom = s.rom := ⟨_, rfl, by grind [State.rom_eq, State.breakDue_rom, State.complete_rom]⟩

theorem execThermalAlert_rom (tj : Nat) (s : State) :
    ∃ t, execThermalAlert tj s = .next t ∧ t.rom = s.rom := ⟨_, rfl, by grind [State.rom_eq, State.record_rom]⟩

theorem State.trip_rom (s : State) (tj : Nat) :
    (State.trip s tj).rom = s.rom := by
  unfold State.trip
  grind [State.rom_eq, State.each_rom, State.cluEmber_rom, State.record_rom]

theorem execThermalTrip_rom (tj : Nat) (s : State) :
    ∃ t, execThermalTrip tj s = .next t ∧ t.rom = s.rom := ⟨_, rfl, by simp only [ite_rom, ite_self, State.trip_rom]⟩

theorem State.holdEnd_rom (s : State) :
    (State.holdEnd s).rom = s.rom := by
  unfold State.holdEnd
  grind [State.rom_eq, State.each_rom, State.cluRun_rom]

theorem execThermalHoldEnd_rom (s : State) :
    ∃ t, execThermalHoldEnd s = .next t ∧ t.rom = s.rom := ⟨_, rfl, by simp only [ite_rom, ite_self, State.holdEnd_rom]⟩

theorem State.fabTimeout_rom (s : State) (g : Nat) :
    (State.fabTimeout s g).rom = s.rom := by
  unfold State.fabTimeout
  grind [State.rom_eq, State.record_rom]

theorem execFabricTimeout_rom (group : Nat) (s : State) :
    ∃ t, execFabricTimeout group s = .next t ∧ t.rom = s.rom := ⟨_, rfl, by simp only [ite_rom, ite_self, State.fabTimeout_rom]⟩

theorem execCrossingFlush_rom (group : Nat) (s : State) :
    ∃ t, execCrossingFlush group s = .next t ∧ t.rom = s.rom := ⟨_, rfl, by grind [State.rom_eq]⟩

theorem execScbankChangeDone_rom (bank : Nat) (s : State) :
    ∃ t, execScbankChangeDone bank s = .next t ∧ t.rom = s.rom := ⟨_, rfl, by simp only [ite_rom, ite_self, State.onMem_rom]⟩

end Sys2Proof.Machine
end

