-- ==== Sys2Proof/Laws/RomKindling.lean ====
section
/-!
SUPPORT. The sequences of kindling, reset and fatal errors: they keep the queue, the part and the fused keys, and only add revocations and versions.
-/

set_option Elab.async false

namespace Sys2Proof.Machine

open Sys2Proof

/-- From one state to the next: the queue, the part and the fused keys stay, revocations and the minimum version only grow. -/
def Keeps (s t : State) : Prop :=
  t.pending = s.pending ∧ t.hw = s.hw ∧ t.bsu.fuses.vendor = s.bsu.fuses.vendor ∧ t.bsu.fuses.owner = s.bsu.fuses.owner
    ∧ t.bsu.fuses.kek = s.bsu.fuses.kek ∧ (∀ i, s.bsu.fuses.revoked.testBit i = true → t.bsu.fuses.revoked.testBit i = true)
    ∧ s.bsu.flash.minver ≤ t.bsu.flash.minver

theorem Keeps.of_rom {s t : State} (h : t.rom = s.rom) : Keeps s t := by
  simp only [State.rom_eq, Prod.mk.injEq] at h
  obtain ⟨h1, h2, h3, h4⟩ := h
  exact ⟨h1, h2, by rw [h3], by rw [h3], by rw [h3], fun i hi => by rw [h3]; exact hi, Nat.le_of_eq h4.symm⟩

theorem Keeps.trans {s t u : State} (h : Keeps s t) (k : Keeps t u) : Keeps s u :=
  ⟨k.1.trans h.1, k.2.1.trans h.2.1, k.2.2.1.trans h.2.2.1, k.2.2.2.1.trans h.2.2.2.1, k.2.2.2.2.1.trans h.2.2.2.2.1,
    fun i hi => k.2.2.2.2.2.1 i (h.2.2.2.2.2.1 i hi), Nat.le_trans h.2.2.2.2.2.2 k.2.2.2.2.2.2⟩

theorem State.halt_rom (s : State) (code : Nat) : (s.halt code).rom = s.rom := rfl
theorem State.showFuses_rom (s : State) : s.showFuses.rom = s.rom := rfl
theorem Kin.check_rom (s : State) (ok : Bool) (code : Nat) : (Kin.check s ok code).state.rom = s.rom := by
  cases ok <;> rfl

theorem Kin.bind_rom (x : Kin) (f : State → Kin) (s : State) (hx : (Kin.state x).rom = s.rom)
    (hf : ∀ t, (Kin.state (f t)).rom = t.rom) : (Kin.state (x >>= f)).rom = s.rom := by
  cases x with
  | error t => exact hx
  | ok t => exact (hf t).trans hx

theorem State.romSteps_rom (s : State) (k : Kindle) : (Kin.state (s.romSteps k)).rom = s.rom := by
  unfold State.romSteps
  dsimp only
  split
  all_goals
    refine Kin.bind_rom _ _ _ (Kin.check_rom ..) (fun t => ?_)
    refine Kin.bind_rom _ _ _ (Kin.check_rom ..) (fun t => ?_)
    refine Kin.bind_rom _ _ _ (Kin.check_rom ..) (fun t => ?_)
    refine Kin.bind_rom _ _ _ (Kin.check_rom ..) (fun t => ?_)
    refine Kin.bind_rom _ _ _ (Kin.check_rom ..) (fun t => ?_)
    refine Kin.bind_rom _ _ _ (Kin.check_rom ..) (fun t => ?_)
    refine Kin.bind_rom _ _ _ (Kin.check_rom ..) (fun t => ?_)
    exact State.showFuses_rom t

/-- What steps 4 and 5 leave, whether they halt or not. -/
theorem State.bootSteps_rom (s : State) (k : Kindle) :
    (match s.bootSteps k with | .ok x => x.2 | .error t => t).rom = s.rom := by
  unfold State.bootSteps
  generalize k.bootFlash = f
  rcases f with _ | ⟨da, db⟩
  · rfl
  · dsimp only
    generalize chooseSlot (s.verdict da) (s.verdict db) = c
    rcases c with code | ⟨slot, x⟩ <;> rfl

theorem State.firstKey_rom (s : State) : s.firstKey.rom = s.rom := by
  unfold State.firstKey
  split
  · rfl
  · dsimp only
    split
    · rfl
    · split <;> rfl

theorem State.storeStep_keeps (s : State) (b : Boot) : Keeps s (s.storeStep b) := by
  unfold State.storeStep
  dsimp only
  refine Keeps.trans ?_ (Keeps.of_rom (State.firstKey_rom _))
  refine Keeps.trans ?_ (Keeps.of_rom (State.showFuses_rom _))
  refine ⟨rfl, rfl, rfl, rfl, rfl, ?_, Nat.le_max_left _ _⟩
  intro i h
  simp [h]

theorem State.cluStep_rom (s : State) (k : Nat) (ok : Bool) : (s.cluStep k ok).rom = s.rom := by
  have h (t : State) (g : Nat) (p : Pmu) : ({ t with glb := { t.glb with rClu := g }, pmu := p } : State).rom = t.rom := rfl
  unfold State.cluStep
  split
  · dsimp only
    rw [h, State.each_rom _ _ _ (fun s a => State.loadCore_rom s a)]
  · exact State.cluOffline_rom _ _

theorem State.clusStep_rom (s : State) (k : Kindle) : (s.clusStep k).rom = s.rom := by
  have h (p : Pmu) : ({ s with pmu := p } : State).rom = s.rom := rfl
  unfold State.clusStep
  dsimp only
  rw [State.each_rom _ _ _ (fun s a => State.cluStep_rom s a _), h]

theorem State.dramStep_rom (s : State) (k : Kindle) (zero : Bool) : (Kin.state (s.dramStep k zero)).rom = s.rom := by
  unfold State.dramStep
  apply Kin.bind_rom _ _ _ (Kin.check_rom ..)
  intro t
  apply Kin.bind_rom _ _ _ (Kin.check_rom ..)
  intro t
  apply Kin.bind_rom _ _ _ (Kin.check_rom ..)
  intro t
  exact State.each_rom _ _ _ (fun s a => State.modChan_rom ..)

theorem State.placeStep_rom (s : State) (b : Boot) : (Kin.state (s.placeStep b)).rom = s.rom := by
  unfold State.placeStep
  dsimp only
  split <;> rfl

theorem State.portsUp_rom (s : State) (l : List Nat) : (s.portsUp l).rom = s.rom := by
  unfold State.portsUp
  exact State.each_rom _ _ _ (fun s a => (State.setFn_rom ..).trans (State.modPort_rom ..))

theorem State.unitsUp_rom (s : State) : s.unitsUp.rom = s.rom := rfl

theorem State.unitStep_rom (s : State) (k : Kindle) : (Kin.state (s.unitStep k)).rom = s.rom := by
  unfold State.unitStep
  apply Kin.bind_rom _ _ _ (Kin.check_rom ..)
  intro t
  apply Kin.bind_rom _ _ _ (Kin.check_rom ..)
  intro t
  exact (State.portsUp_rom ..).trans (State.unitsUp_rom _)

theorem State.releaseStep_rom (s : State) : s.releaseStep.rom = s.rom := by
  unfold State.releaseStep
  split <;> rfl

theorem State.goStep_rom (s : State) : s.goStep.rom = s.rom := by
  unfold State.goStep
  exact State.each_rom _ _ _ (fun s a => State.armCore_rom s a)

theorem State.loadDevid_rom (s : State) : s.loadDevid.rom = s.rom := rfl

theorem State.recover_rom (s : State) (k : Kindle) : (s.recover k).rom = s.rom := by
  unfold State.recover
  dsimp only
  rw [State.setFn_rom, State.modPort_rom]
  exact State.loadDevid_rom s

/-- A part of the sequence after another, for what no command takes back. -/
theorem Kin.bind_keeps (x : Kin) (f : State → Kin) (s : State) (hx : (Kin.state x).rom = s.rom)
    (hf : ∀ t, Keeps t (Kin.state (f t))) : Keeps s (Kin.state (x >>= f)) := by
  cases x with
  | error t => exact .of_rom hx
  | ok t => exact Keeps.trans (.of_rom hx) (hf t)

theorem State.kindle4_keeps (s : State) (k : Kindle) (zero : Bool) : Keeps s (s.kindle4 k zero) := by
  unfold State.kindle4
  have hb := State.bootSteps_rom s k
  cases h : s.bootSteps k with
  | error t =>
    rw [h] at hb
    exact .of_rom hb
  | ok p =>
    rw [h] at hb
    refine Keeps.trans (.of_rom hb) (Keeps.trans (State.storeStep_keeps p.2 p.1) ?_)
    refine Keeps.trans (.of_rom (State.loadDevid_rom _)) ?_
    refine Kin.bind_keeps _ _ _ (Kin.check_rom ..) (fun t => ?_)
    refine Keeps.trans (.of_rom (State.clusStep_rom t k)) ?_
    refine Kin.bind_keeps _ _ _ (Kin.check_rom ..) (fun t => ?_)
    refine Kin.bind_keeps _ _ _ (State.dramStep_rom ..) (fun t => ?_)
    refine Kin.bind_keeps _ _ _ (State.placeStep_rom ..) (fun t => ?_)
    refine Kin.bind_keeps _ _ _ (State.unitStep_rom ..) (fun t => ?_)
    exact .of_rom ((State.goStep_rom _).trans (State.releaseStep_rom _))

theorem State.kindle1_keeps (s : State) (k : Kindle) : Keeps s (s.kindle1 k) := by
  unfold State.kindle1
  have hr := State.romSteps_rom s k
  split
  · exact .of_rom rfl
  · split
    · rename_i t h; rw [h] at hr; exact .of_rom hr
    · rename_i t h; rw [h] at hr
      refine Keeps.trans (.of_rom hr) ?_
      split
      · exact .of_rom (State.recover_rom ..)
      · exact State.kindle4_keeps ..

theorem State.chanWake_rom (s : State) (l : List Nat) (c : Nat) : (s.chanWake l c).rom = s.rom := by
  have hg : ∀ (t : State) (g : Glb), ({ t with glb := g } : State).rom = t.rom := fun _ _ => rfl
  unfold State.chanWake
  split
  · rfl
  · dsimp only
    split
    · rw [State.chanOffline_rom, State.pauseTaken_rom, hg, State.modChan_rom]
    · rw [State.pauseTaken_rom, hg, State.modChan_rom]

theorem State.banksLost_rom (s : State) : s.banksLost.rom = s.rom := rfl

theorem State.warmRun_rom (s : State) (k : Kindle) : (s.warmRun k).rom = s.rom := by
  have hb : ∀ t : State, ({ t with bsu := { t.bsu with warm := true } } : State).rom = t.rom := fun _ => rfl
  unfold State.warmRun
  dsimp only
  rw [State.eauCatchUp_rom, State.raise_rom, State.goStep_rom, hb, State.portsUp_rom, State.clusStep_rom, State.unitsUp_rom,
    State.eauWake_rom, State.each_rom _ _ _ (fun s a => State.chanWake_rom s _ a), State.loadDevid_rom, ite_rom, State.banksLost_rom, ite_self]

theorem State.warmStart_keeps (s : State) (k : Kindle) : Keeps s (s.warmStart k) := by
  unfold State.warmStart
  have hr := State.romSteps_rom s k
  have hm : ∀ (t : State) (d : Dmc) (e : Eau) (m : Mem), ({ t with dmc := d, eau := e, mem := m } : State).rom = t.rom := fun _ _ _ _ => rfl
  split
  · rename_i t h; rw [h] at hr; exact .of_rom hr
  · rename_i t h; rw [h] at hr
    refine Keeps.trans (.of_rom hr) ?_
    split
    · split
      · exact .of_rom rfl
      · exact .of_rom (State.warmRun_rom ..)
    · dsimp only
      refine Keeps.trans (Keeps.trans (.of_rom ?_) (State.kindle4_keeps _ k false)) (.of_rom (State.raise_rom _ 400))
      rw [hm, State.banksLost_rom]
      rfl

theorem State.sample_rom (s : State) (k : Kindle) : (s.sample k).rom = s.rom := rfl

theorem execPwrOkRise_keeps (k : Kindle) (s : State) : ∃ t, execPwrOkRise k s = .next t ∧ Keeps s t := by
  refine ⟨_, rfl, ?_⟩
  split
  · exact .of_rom rfl
  split
  · exact State.warmStart_keeps s k
  split
  · exact Keeps.trans (Keeps.trans (.of_rom (State.sample_rom s k)) (State.kindle1_keeps _ k)) (.of_rom (State.raise_rom ..))
  · exact Keeps.trans (.of_rom (State.sample_rom s k)) (State.kindle1_keeps _ k)

theorem State.powerReset_rom (s : State) : s.powerReset.rom = s.rom := rfl

theorem execPwrOkFall_rom (s : State) : ∃ t, execPwrOkFall s = .next t ∧ t.rom = s.rom := by
  refine ⟨_, rfl, ?_⟩
  split <;> rfl

theorem State.recoverLoad_rom (s : State) (image : ImageRead) (b : Bool) (c : Carriage) : (s.recoverLoad image b c).rom = s.rom := by
  have hr := State.readImage_rom s c image
  have hb : ∀ (t : State) (o : Option (List Octet × List Octet)) (n : Nat), ({ t with bsu := { t.bsu with bootSlots := o, bootCode := n } } : State).rom = t.rom :=
    fun _ _ _ => rfl
  unfold State.recoverLoad
  dsimp only
  split
  · rw [State.complete_rom]; exact hr
  · split
    · rw [State.complete_rom]; exact hr
    · split
      · split
        · rw [State.complete_rom]; exact hr
        · rw [State.complete_rom, hb]; exact hr
      · rw [State.complete_rom]; exact hr

theorem execRecoveryImageLoad_rom (image : ImageRead) (b : Bool) (s : State) :
    ∃ t, execRecoveryImageLoad image b s = .next t ∧ t.rom = s.rom := by
  refine ⟨_, rfl, ?_⟩
  split
  · rfl
  · split
    · rfl
    · exact State.recoverLoad_rom ..

theorem State.fatal_keeps (s : State) (reason : Nat) (k : Kindle) : Keeps s (s.fatal reason k) := by
  have hr : ∀ (t : State) (r : Ras), ({ t with ras := r } : State).rom = t.rom := fun _ _ => rfl
  unfold State.fatal
  dsimp only
  refine Keeps.trans (.of_rom ?_) (State.kindle1_keeps _ k)
  rw [State.lost_rom, State.elapse_rom, hr, State.record_rom]

theorem execDeviceFatalError_keeps (reason : Nat) (k : Kindle) (s : State) :
    ∃ t, execDeviceFatalError reason k s = .next t ∧ Keeps s t := by
  refine ⟨_, rfl, ?_⟩
  split
  · exact State.fatal_keeps ..
  · exact .of_rom rfl

theorem State.unload_rom (s : State) (patch : Bool) (k : Nat) (old : Half × Half) : (s.unload patch k old).rom = s.rom := by
  unfold State.unload
  dsimp only
  rw [ite_rom, State.each_rom _ _ _ (fun s i => State.modCtx_rom ..), State.setCore_rom, ite_self]

theorem State.jobLost_rom (s : State) : s.jobLost.rom = s.rom := by
  have hb : ∀ (t : State) (j : Option LoadJob), ({ t with bsu := { t.bsu with job := j } } : State).rom = t.rom := fun _ _ => rfl
  unfold State.jobLost
  have h1 : (match s.bsu.job with
    | some j =>
      let s2 := (j.before.filter (fun (e : Nat × Half × Half) => s.cluReady (e.1 / 8))).foldl (fun (s : State) (e : Nat × Half × Half) => s.unload j.patch e.1 e.2) s
      ({ s2 with bsu := { s2.bsu with job := none } }).complete j.c 10 []
    | none => s).rom = s.rom := by
    split
    · dsimp only
      rw [State.complete_rom, hb]
      exact foldl_rom _ (fun s e => State.unload_rom ..) _ _
    · rfl
  refine Eq.trans ?_ h1
  dsimp only
  split
  · split
    · rw [State.breakDue_rom, State.complete_rom]; rfl
    · rfl
  · exact State.breakDue_rom _

theorem execWatchdogExpiry_keeps (w : Bool) (k : Kindle) (s : State) :
    ∃ t, execWatchdogExpiry w k s = .next t ∧ Keeps s t := by
  refine ⟨_, rfl, ?_⟩
  split
  · unfold State.watchdog
    split
    · exact State.fatal_keeps ..
    · exact .of_rom ((State.record_rom ..).trans (State.jobLost_rom s))
  · exact .of_rom rfl

end Sys2Proof.Machine
end

