-- ==== Sys2Proof/Tests/Slice0.lean ====
section
/-!
SUPPORT. The tests: ill-formed commands that the checks refuse, instruction bytes written out from the spec's encodings, small steps
with results worked out from the spec, and for each statement with hypotheses the states and operands that meet them.
-/

namespace Sys2Proof.Tests

open Sys2Proof Sys2Proof.Machine Sys2Proof.Safety

/-! ### Small machines -/

/-- A cache set whose way 0 holds line `l`. -/
def way (l : Nat) (st : Mesi) : Tbl (Option Way) := [(0, some ⟨l, st, 0⟩)]

/-- A capability over lines 0 to 99 with all permissions but CROSS. -/
def lowCap : Cap := { tag := true, cursor := 5, base := 0, len := 4800, attr := word (0o3777 * 2 ^ 12) }

/-- Context 0: code at line 20, data at line 32, exception frames at lines 40 to 42. Block 0 maps lines 0 to 99 to themselves. -/
def demoCtx : Ctx :=
  { run := .run, pcc := rootCap 960, esc := rootCap 2064, evc := rootCap 960
    g := [(1, 1536), (2, 7), (3, 5)], k := [(0, rootCap 0), (1, rootCap 1536), (2, lowCap)]
    bd := [(0, { lines := 100, en := true })] }

/-- The device in RUN: cluster 0 and context 0 of core 0 run; code, data and frames lie in the caches of core 0. -/
def demo : State :=
  { State.reset with
    glb := { rClu := 1, rDdu := true, rIcu := true, rTbu := true, rEau := true, rHost := 15 }
    pmu := { dev := .run, clus := [(0, some .run)] }
    cores := [(0, { released := true })]
    ctxs := [(0, demoCtx)]
    lk := { dmc := [(0, { rhEn := false })] }
    mem := { pop := 100000, nchan := 16, l1i := [(20, way 20 .s)], l1d := [(32, way 32 .s), (40, way 40 .s), (41, way 41 .s), (42, way 42 .s)]
             l2 := [(20, way 20 .e), (32, way 32 .e), (40, way 40 .e), (41, way 41 .e), (42, way 42 .e)] } }

/-- `demo` with context 0 changed. -/
def demoWith (f : Ctx → Ctx) : State := { demo with ctxs := [(0, f demoCtx)] }

/-- An instruction of context 0 of four bytes that always executes. -/
def h0 : Hd := ⟨0, 0, 4, []⟩

/-- What a fetch leaves. -/
def fetched (s : State) : State := (s.fetch 0 4).2

/-- The state that a command leads to. -/
def next (r : Res) : State := match r with | .next s => s | _ => State.reset

/-- No hardware error waits in `s`. -/
def calm (s : State) : Bool :=
  s.mem.upsets.isEmpty && s.cores.all (fun e => e.2.stop.isEmpty && e.2.badMicro.isEmpty && e.2.merge.all (fun f => !f.bad))

theorem unharmed_of {s : State} (h : calm s = true) : Unharmed s := by
  simp only [calm, Bool.and_eq_true, List.isEmpty_iff, List.all_eq_true, Bool.not_eq_true'] at h
  exact ⟨h.1, fun e he => ⟨(h.2 e he).1.1, (h.2 e he).1.2, (h.2 e he).2⟩⟩

theorem noStop_of {s : State} (h : calm s = true) : NoStop s := fun e he => ((unharmed_of h).2 e he).1

theorem noReturn_of {s : State} {n : Nat} (h : (s.ctx n).pendRet = none) : NoReturn s n := by
  intro p hp; rw [h] at hp; cases hp

/-- A machine without errors, whose scratch banks and system cache keep no older home of a line. -/
theorem noErrors_of {s : State} (h : calm s = true) (h1 : s.mem.gone = []) (h2 : s.mem.notes = []) (h3 : s.mem.poison = [])
    (h4 : s.mem.stale = []) (h5 : s.mem.mid = []) : NoErrors s :=
  ⟨unharmed_of h, h1, h2, fun l => by simp [Mem.poisoned, h3, tget], fun l x hx => by simp [h4, tget] at hx, fun l x hx => by simp [h5, tget] at hx⟩

theorem fetched_of {h : Hd} {s : State} (hs : h.strikes = []) (h0 : calm s = true) (h1 : s.atBoundary h.ctx = true)
    (h2 : s.boundaryDue h.ctx = false) (h3 : (s.ctx h.ctx).longOps = []) (h4 : (s.ctx h.ctx).pendRet = none)
    (h5 : (s.fetch h.ctx h.len).1 = none) (h6 : calm (s.fetch h.ctx h.len).2 = true) : Fetched h s (s.fetch h.ctx h.len).2 :=
  ⟨hs, unharmed_of h0, h1, h2, h3, noReturn_of h4, Prod.ext h5 rfl, unharmed_of h6⟩

theorem demo_fetched : Fetched h0 demo (fetched demo) :=
  fetched_of rfl (by decide) (by decide) (by decide) (by decide) (by decide) (by decide) (by decide)

theorem executes (i : Instr) (hw : i.wf = true) : Executes i h0 demo (fetched demo) := ⟨hw, by decide, demo_fetched⟩

/-! ### Ill-formed commands -/

/-- Operands of an arithmetic instruction. -/
def alu (w : Width) (u : Bool) (a b c : GReg) : AluOp := ⟨w, u, a, b, .reg c⟩

/-- Each check of `Instr.wf` refuses a term that breaks it alone: the length, the context, U where it must be 0, odd registers at width 3,
width 3 where it is not allowed, fixed fields, a field descriptor, pairs, K registers, and a form with the wrong operand bytes. -/
theorem test_wf_instructions :
    (Instr.nop ⟨0, 0, 0, []⟩).wf = false ∧ (Instr.nop ⟨0, 0, 16, []⟩).wf = false ∧ (Instr.nop ⟨512, 0, 1, []⟩).wf = false ∧ (Instr.nop h0).wf = true ∧
    (Instr.add h0 (alu .word true 1 2 3)).wf = false ∧ (Instr.add h0 (alu .double false 1 2 4)).wf = false ∧
    (Instr.add h0 (alu .double false 2 4 6)).wf = true ∧ (Instr.shl h0 (alu .double false 2 4 6)).wf = false ∧
    (Instr.mul h0 (alu .word true 1 2 3)).wf = false ∧ (Instr.div h0 (alu .double false 2 4 6)).wf = false ∧
    (Instr.div h0 (alu .word true 1 2 3)).wf = true ∧ (Instr.fsqrt h0 ⟨.nearestEven, 1, 2, 3⟩).wf = false ∧ (Instr.fcmp h0 ⟨.nearestEven, 1, 2, 3⟩).wf = false ∧
    (Instr.mov h0 ⟨.double, 1, .reg 2⟩).wf = false ∧ (Instr.popc h0 ⟨.word, 1, .half 2⟩).wf = false ∧ (Instr.clz h0 ⟨.double, 2, .reg 4⟩).wf = false ∧
    (Instr.fext h0 ⟨1, 2, 0, 0⟩).wf = false ∧ (Instr.fins h0 ⟨1, 2, 30, 7⟩).wf = false ∧ (Instr.fins h0 ⟨1, 2, 30, 6⟩).wf = true ∧
    (Instr.ldd h0 ⟨1, 2, .disp 0, 0⟩).wf = false ∧ (Instr.ldc h0 ⟨16, 2, .disp 0, 0⟩).wf = false ∧
    (Instr.cas h0 ⟨true, 2, 3, 5, 0⟩).wf = false ∧ (Instr.cget h0 1 2 5).wf = false ∧ (Instr.cgets h0 1 3).wf = false ∧
    (Instr.csets h0 1 3).wf = false ∧ (Instr.customerInstruction h0 ⟨64, 0, [], none, none, none, none⟩).wf = false ∧
    (Instr.customerInstruction h0 ⟨0, 12, [], none, none, none, none⟩).wf = false ∧
    (Instr.customerInstruction h0 ⟨0, 3, [1, 2], none, none, none, none⟩).wf = false := by decide

/-- The operands of events keep to their ranges: contexts, cores, requesters, register addresses, frames, tenants, ports, banks. -/
theorem test_wf_events :
    (Instr.illegal 512 []).wf = false ∧ (Instr.illegal 0 (List.replicate 16 0)).wf = false ∧ (Instr.longOpComplete 0 2).wf = false ∧
    (Instr.mergeEntryIdle 128 0).wf = false ∧ (Instr.mergeEntryIdle 0 8).wf = false ∧ (Instr.predFlush (.context 512) 0).wf = false ∧
    (Instr.glbLockSet (.host 4)).wf = false ∧ (Instr.registerWrite .service (.bar0 (2 ^ 18)) .full 0).wf = false ∧
    (Instr.registerWrite .service (.page 4096 0) .full 0).wf = false ∧ (Instr.registerWrite .service (.page 0 512) .full 0).wf = false ∧
    (Instr.rcFieldRead .service (.msix 0 2048 0) .full).wf = false ∧ (Instr.rcFieldRead .service (.msix 0 0 4) .full).wf = false ∧
    (Instr.rcFieldRead .service (.config 0 1024) .full).wf = false ∧ (Instr.rcFieldRead .service (.pba 0 64) .full).wf = false ∧
    (Instr.rcFieldRead .service (.aperture 4096 0) .full).wf = false ∧
    (Instr.rcFieldRead (.host 0) (.mem (2 ^ 64)) .full).wf = false ∧ (Instr.rcFieldRead (.host 0) (.routing 2048 0) .full).wf = false ∧
    (Instr.pmuResLowRead .service 128 .full).wf = false ∧ (Instr.beatFrame 2 ⟨beatBlocks ⟨0, 0, 0, 0, 1, 0, 0⟩, ⟨0, 0⟩⟩).wf = false ∧
    (Instr.beatFrame 0 ⟨beatBlocks ⟨0, 1, 0, 0, 1, 0, 0⟩, ⟨0, 0⟩⟩).wf = false ∧ (Instr.beatFrame 0 ⟨beatBlocks ⟨0, 65535, 131, 15, 65536, 0, 0⟩, ⟨255, 9⟩⟩).wf = true ∧
    (Instr.commandFrame 0 idleBlocks).wf = false ∧ (Instr.idleFrame ⟨0, idleBlocks⟩).wf = true ∧ (Instr.discardedFrame 0 idleBlocks).wf = false ∧
    (Instr.discardedFrame 0 ⟨0, 0⟩).wf = true ∧ (Instr.sourceArrival 8192).wf = false ∧ (Instr.sqTailWrite 0 4 0).wf = false ∧
    (Instr.ringLeaseAcquire 0 8).wf = false ∧ (Instr.readCompletion 4 0 .ur).wf = false ∧ (Instr.readCompletion 0 1024 .ur).wf = false ∧
    (Instr.apertureTimeout 0 (2 ^ 24)).wf = false ∧ (Instr.fragment 16).wf = false ∧ (Instr.profileReleaseComplete 1024).wf = false ∧
    (Instr.poolDrainCommit 4096).wf = false ∧ (Instr.eventShed 64).wf = false ∧ (Instr.decisionRelease 4 0).wf = false ∧
    (Instr.decisionRelease 0 66).wf = false ∧ (Instr.msixPendingSend 0 2048).wf = false ∧ (Instr.perBankRefresh 0 32).wf = false ∧
    (Instr.mr4Read 16 1).wf = false ∧ (Instr.scbankChangeDone 32).wf = false ∧ (Instr.fabricTimeout 45).wf = false ∧
    (Instr.wakeEvent (.gpio 16 true)).wf = false := by decide +kernel

/-! ### Bytes of instructions (R116, R119 to R127)

The head byte is the class in bits 8 to 4 and the condition in bits 3 to 0; see each bit string. -/

/-- Words of classes 1 to 11, byte by byte: the head is 32 times the condition plus the class, then FN and A, FH and B, C or the immediate. -/
theorem test_decode_data :
    decodeInstr 0 [1, 0 * 32 + 1, 2, 3] = some (.add ⟨0, 0, 4, []⟩ ⟨.word, false, 1, 2, .reg 3⟩) ∧
    decodeInstr 0 [1 * 32 + 2, 1 * 32 + 1, 2, 511, 511] = some (.sub ⟨0, 1, 5, []⟩ ⟨.word, false, 1, 2, .half 0x3FFFF⟩) ∧
    decodeInstr 0 [1, 11 * 32 + 1, 1 * 32 + 2, 3] = some (.mulh ⟨0, 0, 4, []⟩ ⟨.word, true, 1, 2, .reg 3⟩) ∧
    decodeInstr 0 [3, 4 * 32 + 1, 2, 1, 2, 0, 0] = some (.xor ⟨0, 0, 7, []⟩ ⟨.word, false, 1, 2, .word 1025⟩) ∧
    decodeInstr 0 [28, 3, 1, 0 * 32 + 2, 4, 6] = some (.add ⟨0, 0, 6, []⟩ ⟨.double, false, 2, 4, .reg 6⟩) ∧
    decodeInstr 0 [4, 3 * 32 + 1, 2 * 32 + 2, 3] = some (.fdiv ⟨0, 0, 4, []⟩ ⟨.towardMinus, 1, 2, 3⟩) ∧
    decodeInstr 0 [15 * 32 + 5, 1 * 32 + 4, 5] = some (.cmp ⟨0, 15, 3, []⟩ ⟨.word, 4, .reg 5⟩) ∧
    decodeInstr 0 [8, 1, 2, 3] = some (.sel ⟨0, 0, 4, []⟩ 1 2 3) ∧
    decodeInstr 0 [9, 1 * 32 + 1, 2, 3 + 5 * 64, 0] = some (.fextS ⟨0, 0, 5, []⟩ ⟨1, 2, 3, 5⟩) ∧
    decodeInstr 0 [10, 2 * 32 + 1, 2, 4, 0] = some (.ldw ⟨0, 0, 5, []⟩ ⟨1, 2, .disp 4, 0⟩) ∧
    decodeInstr 0 [29, 3, 11, 12 * 32 + 3, 4, 5] = some (.stc ⟨0, 0, 6, []⟩ ⟨3, 4, .reg 5, 3⟩) ∧
    decodeInstr 0 [30, 7, 11, 3 * 32 + 2, 3, 4] = some (.cas ⟨0, 0, 6, []⟩ ⟨true, 2, 3, 4, 0⟩) := by decide

/-- Words of classes 12 to 23 and of the customer page; reserved classes, functions and prefixes are refused. -/
theorem test_decode_control :
    decodeInstr 0 [12, 508, 511] = some (.br ⟨0, 0, 3, []⟩ (.short 0x3FFFC)) ∧
    decodeInstr 0 [16, 1 * 32 + 7] = some (.callR ⟨0, 0, 2, []⟩ 7) ∧
    decodeInstr 0 [17, 1, 2, 3] = some (.cbound ⟨0, 0, 4, []⟩ 1 2 3) ∧
    decodeInstr 0 [18, 2 * 32 + 1, 2, 3] = some (.decide ⟨0, 0, 4, []⟩ 1 2 3) ∧
    decodeInstr 0 [19, 1 * 32 + 1, 64, 0] = some (.setsr ⟨0, 0, 4, []⟩ 1 64) ∧
    decodeInstr 0 [20, 2 * 32 + 1, 2, 3] = some (.matchWords ⟨0, 0, 4, []⟩ ⟨1, 2, 3, 0⟩) ∧
    decodeInstr 0 [21, 5 * 32 + 9] = some (.invblk ⟨0, 0, 2, []⟩ 9) ∧
    decodeInstr 0 [22, 7 * 32 + 31] = some (.trap ⟨0, 0, 2, []⟩ 31) ∧
    decodeInstr 0 [23] = some (.nop ⟨0, 0, 1, []⟩) ∧
    decodeInstr 0 [31, 7 * 64 + 5, 1, 511] = some (.customerInstruction ⟨0, 0, 4, []⟩ ⟨5, 1, [511], none, none, none, none⟩) ∧
    decodeInstr 0 [0] = none ∧ decodeInstr 0 [24] = none ∧ decodeInstr 0 [1, 14 * 32 + 1, 2, 3] = none ∧
    decodeInstr 0 [1, 1, 1 * 32 + 2, 3] = none ∧ decodeInstr 0 [31, 6 * 64, 1, 0] = none ∧ decodeInstr 0 [28, 0, 28, 0, 23] = none := by decide

/-! ### Small steps: results worked out from the spec -/

/-- Context 0 after the command. -/
def after (s : State) (i : Instr) : Ctx := (next (exec i s)).ctx 0

/-- `demo` with G2 and G3 as given. -/
def ops (x y : Nat) : State := demoWith fun c => { c with g := [(1, 1536), (2, word x), (3, word y)] }

/-- R150: 2^36 - 1 + 1 is 0, with a carry and no signed overflow; 2^35 - 1 + 1 overflows. -/
theorem test_add : let c := after (ops (2 ^ 36 - 1) 1) (.add h0 (alu .word false 4 2 3))
    let d := after (ops (2 ^ 35 - 1) 1) (.add h0 (alu .word false 4 2 3))
    (c.gget 4, c.n, c.z, c.c, c.v) = (0, false, true, true, false) ∧ (d.gget 4, d.n, d.z, d.c, d.v) = (word (2 ^ 35), true, false, false, true) ∧
    c.pcc.cursor = 964 ∧ c.retired = 1 := by decide

/-- R150: 5 - 7 is -2, with a borrow (C = 0); 7 - 7 is 0, with none (C = 1). -/
theorem test_sub : let c := after (ops 5 7) (.sub h0 (alu .word false 4 2 3))
    let d := after (ops 7 7) (.sub h0 (alu .word false 4 2 3))
    (c.gget 4, c.n, c.z, c.c, c.v) = (word (2 ^ 36 - 2), true, false, false, false) ∧ (d.z, d.c) = (true, true) := by decide

/-- R150: SAR by 63 gives all sign bits and the sign as carry; ROL by 1 brings bit 35 to bit 0 and to C. -/
theorem test_shift : let c := after (ops (2 ^ 35) 63) (.sar h0 (alu .word false 4 2 3))
    let d := after (ops (2 ^ 35) 1) (.rol h0 (alu .word false 4 2 3))
    (c.gget 4, c.c) = (word (2 ^ 36 - 1), true) ∧ (d.gget 4, d.c) = (1, true) := by decide

/-- R145, R150: -2^35 divided by -1 is -2^35 with V set, once the operation completes. -/
theorem test_div : let s := next (exec (.div h0 (alu .word false 4 2 3)) (ops (2 ^ 35) (2 ^ 36 - 1)))
    let c := after s (.longOpComplete 0 0)
    (s.ctx 0).longOps.length = 1 ∧ c.gget 4 = word (2 ^ 35) ∧ c.v = true ∧ c.longOps = [] := by decide

/-- R153: POPC of 7 is 3; CLZ of 0 is 36; FEXT.S of bit 2 of 7, one bit wide, is -1. -/
theorem test_counts : (after demo (.popc h0 ⟨.word, 4, .reg 2⟩)).gget 4 = 3 ∧ (after demo (.clz h0 ⟨.word, 4, .reg 9⟩)).gget 4 = 36 ∧
    (after demo (.fextS h0 ⟨4, 2, 2, 1⟩)).gget 4 = word (2 ^ 36 - 1) := by decide

/-- R157, R158: 1.0 + 1.0 is 2.0; 1.0 / 0.0 is +infinity with DZ. The exponent bias is 255 and the fraction has 26 bits. -/
theorem test_fp : let one := 255 * 2 ^ 26
    let c := after (next (exec (.fadd h0 ⟨.nearestEven, 4, 2, 3⟩) (ops one one))) (.longOpComplete 0 0)
    let d := after (next (exec (.fdiv h0 ⟨.nearestEven, 4, 2, 3⟩) (ops one 0))) (.longOpComplete 0 0)
    c.gget 4 = word (256 * 2 ^ 26) ∧ c.fpstat = 0 ∧ d.gget 4 = word (511 * 2 ^ 26) ∧ d.fpstat = 8 := by decide

/-- R50, R163: a store of a word, then a load of its second byte: bytes of nine bits, least significant first. -/
theorem test_store_load : let s := next (exec (.stw h0 ⟨2, 1, .disp 0, 1⟩) (ops (3 * 512 + 7) 0))
    (after s (.ldb h0 ⟨4, 1, .disp 1, 1⟩)).gget 4 = 3 ∧ (after s (.ldb h0 ⟨4, 1, .disp 0, 1⟩)).gget 4 = 7 := by decide

/-- R166: CAS stores when the old value (0) equals A, and says so in Z; A takes the old value. -/
theorem test_cas : let s := next (exec (.cas h0 ⟨false, 9, 1, 2, 1⟩) demo)
    (s.ctx 0).gget 9 = 0 ∧ (s.ctx 0).z = true ∧ (s.mem.word 384).data = 7 := by decide

/-- R171: CALL.R 7 jumps to G7 and leaves the return address in G31; the false condition Z does neither. -/
theorem test_call : (after demo (.callR h0 2)).pcc.cursor = 7 ∧ (after demo (.callR h0 2)).gget 31 = 964 ∧
    (after demo (.callR ⟨0, 1, 4, []⟩ 2)).pcc.cursor = 964 ∧ (after demo (.callR ⟨0, 1, 4, []⟩ 2)).gget 31 = 0 := by decide

/-- R168, R241: CBOUND gives the cursor as base; a byte load through an untagged capability is cause 3, which enters EVC + 16 * 3. -/
theorem test_cap : (after demo (.cbound h0 4 1 2)).kget 4 = { rootCap 1536 with base := 1536, len := 7 } ∧
    (after demo (.ldb h0 ⟨4, 1, .disp 0, 7⟩)).pcc.cursor = 48 := by decide

/-- R172, R268: TRAP is cause 21: control goes to EVC's base + 16 * 21, and ESC moves down by 144. -/
theorem test_trap : (after demo (.trap h0 5)).pcc.cursor = 336 ∧ (after demo (.trap h0 5)).esc.cursor = 1920 := by decide

/-- R191: system register 2 is the context number, register 3 counts retired instructions. -/
theorem test_getsr : (after (demoWith fun c => { c with retired := 9 }) (.getsr h0 4 3)).gget 4 = 9 ∧ (after demo (.getsr h0 4 2)).gget 4 = 0 := by
  decide

/-- R186: SGI of source 5120 counts an arrival; source 5119 is cause 4. -/
theorem test_sgi : ((next (exec (.sgi h0 2) (ops 5120 0))).src 5120).count = 1 ∧ (after (ops 5119 0) (.sgi h0 2)).pcc.cursor = 64 := by decide

/-- R21, R45: after GLB_LOCK an LK field keeps its value; before it takes the written one. -/
theorem test_lock : let w := fun s => next (exec (.registerWrite .service (.bar0 0x2006) .full 55) s)
    (w demo).lk.delay = 55 ∧ (w (next (exec (.glbLockSet .service) demo))).lk.delay = 0 := by decide

/-- R297, R299: fifteen arrivals are counted, the next is lost. -/
theorem test_arrivals : let s := { demo with icu := { demo.icu with srcs := [(5120, { count := 15 })] } }
    let e := (next (exec (.sourceArrival 5120) s)).src 5120
    (e.count, e.ovf) = (15, true) := by decide

/-- R430: with a ring of 16 slots, SQ_TAIL = 17 is refused and counted, and 16 is taken. -/
theorem test_sq_tail : let s := { demo with fns := [(0, { memEn := true })], ports := [(0, { enabled := true, linkUp := true })] }
    let t := fun v => next (exec (.sqTailWrite 0 0 v) s)
    s.pageOpen 0 = true ∧ (t 17).rng.badidx = 1 ∧ tget 0 ((t 16).rings 0).tail 0 = 16 ∧ (t 16).rng.badidx = 0 := by decide

/-- R93: a beat edge after the last beat of a turn begins the next turn. -/
theorem test_beat : let s := { demo with tbu := { demo.tbu with mode := .locked, period := 1, bptM1 := 9, turn := 4, beat := 9 } }
    let t := (next (exec .beatEdge s)).tbu
    (t.turn, t.beat, t.edges) = (5, 0, 1) := by decide

/-! ### Witnesses: states and operands that meet the hypotheses of the statements

Each theorem is named after its statement; `meets` lists hypotheses that hold together. -/

/-- Commands that have a next state; a state with an empty queue and no write that waits (`CommandsLeaveTheQueue`,
`EveryCommandHasANextState`). -/
theorem witness_next : (∃ u, exec .quietStart demo = .next u) ∧ demo.pending = [] ∧ ∀ c, (demo.chan c).st = .running → (demo.chan c).wq = [] :=
  ⟨⟨_, rfl⟩, rfl, fun _ h => by cases h⟩

/-- An instruction of an odd register at width 3. -/
def odd : AluOp := alu .double false 1 2 4

/-- A customer instruction of entry 5, form 1, with one operand byte. -/
def cust5 : CustOp := ⟨5, 1, [0], none, none, none, none⟩

/-- `demo` with a decode word for entry 5, which admits form 1 and starts a routine of one microword (WAITC with END). -/
def customer : State :=
  { demo with cores := [(0, { released := true, h0 := { st := .active, words := [4 * 2 ^ 115 + 2 ^ 87], table := [0, 0, 0, 0, 0, 2 ^ 35 + 2 ^ 31 + 2 ^ 9 + 4] } })] }

/-- An instruction of context 0 of four bytes whose condition, Z, is false. -/
def h1 : Hd := ⟨0, 1, 4, []⟩

/-- `FalseConditionsAndIllegalEncodings`: a false condition and an ill-formed instruction; a customer instruction that its decode word
admits, and one that none admits. -/
theorem witness_FalseConditionsAndIllegalEncodings :
    (headOf (.nop h1) = some h1 ∧ (Instr.nop h1).wf = true ∧ Fetched h1 demo (fetched demo) ∧ condHolds h1.cond (demo.ctx 0) = false) ∧
    (headOf (.add h0 odd) = some h0 ∧ (Instr.add h0 odd).wf = false ∧ Fetched h0 demo (fetched demo)) ∧
    ((h1.wf && cust5.wf) = true ∧ (demo.ctx 0).routine = none ∧ custOk demo cust5 0 = false) ∧
    Fetched h1 customer (fetched customer) ∧ condHolds h1.cond (customer.ctx 0) = false ∧
      custOk customer cust5 ((customer.core 0).h0.table.getD 5 0) = true := by
  refine ⟨⟨by decide, by decide, ?_, by decide⟩, ⟨by decide, by decide, demo_fetched⟩, by decide, ?_, by decide, by decide⟩
  all_goals exact fetched_of rfl (by decide) (by decide) (by decide) (by decide) (by decide) (by decide) (by decide)

/-- Well-formed instructions, each of which executes in `demo`: those of the statements whose only hypothesis is that. -/
def plainInstrs : List Instr :=
  [.add h0 (alu .word false 4 2 3), .sub h0 (alu .byte false 4 2 3), .and h0 (alu .half false 4 2 3), .or h0 (alu .double false 4 2 6),
   .xor h0 (alu .word false 4 2 3), .shl h0 (alu .word false 4 2 3), .shr h0 (alu .byte false 4 2 3), .sar h0 (alu .half false 4 2 3),
   .rol h0 (alu .word false 4 2 3), .ror h0 (alu .word false 4 2 3), .mul h0 (alu .word false 4 2 3), .mulh h0 (alu .word true 4 2 3),
   .fcmp h0 ⟨.nearestEven, 0, 2, 3⟩, .mov h0 ⟨.word, 4, .reg 2⟩, .cmp h0 ⟨.word, 4, .half 2⟩, .tst h0 ⟨.word, 4, .word 2⟩,
   .popc h0 ⟨.word, 4, .reg 2⟩, .clz h0 ⟨.byte, 4, .reg 2⟩, .fext h0 ⟨4, 2, 0, 36⟩, .fextS h0 ⟨4, 2, 35, 1⟩, .fins h0 ⟨4, 2, 30, 6⟩,
   .csetc h0 4 5 2, .cmove h0 4 1, .cget h0 4 1 0, .cget h0 4 1 4, .cgets h0 4 0, .cgets h0 4 2, .csets h0 1 0, .csets h0 1 1, .csets h0 1 2,
   .getsr h0 4 0, .getsr h0 4 127, .getsr h0 4 9, .getsr h0 4 128, .setsr h0 4 0, .setsr h0 4 63, .setsr h0 4 15,
   .nop h0, .fenceL h0, .fenceM h0, .fenceI h0, .fenceT h0, .invwalk h0, .invblk h0 15, .invpg h0 1, .cleanS h0 2, .trap h0 31,
   .blkmove h0 ⟨1, 2, 3, 0⟩, .blkfill h0 ⟨1, 2, 3, 0⟩, .matchWords h0 ⟨1, 2, 3, 0⟩, .wait h0, .alarm h0 2, .eoi h0 2, .sgi h0 2,
   .take h0 4 1, .decide h0 1 2 1, .done h0 1, .cjump h0 1 1 2]

/-- `IntegerResults`, `FloatingPointResults`, `MoveCountAndFieldResults`, `SystemRegisters`, `TranslationAndBarriers`, `LineMaintenance`,
`TrapsAndExceptionEntry`, `AlarmsAndWaits`, `TakeBlocksAndReceives`, `DecisionsAndCoachSlots` and the like: these instructions execute. -/
theorem witness_Executes : ∀ i ∈ plainInstrs, Executes i h0 demo (fetched demo) := by
  have h : plainInstrs.all Instr.wf = true := by decide +kernel
  exact fun i hi => executes i (List.all_eq_true.1 h i hi)

/-- `IntegerResults`: a divisor that is not 0; `FloatingPointResults`: operands that are not invalid, and for FCMP a NaN. -/
theorem witness_results :
    (demo.ctx 0).srcVal .word false (.reg 3) ≠ 0 ∧ h0.wf = true ∧ (demo.ctx 0).gget 2 = word 7 ∧ (demo.ctx 0).gget 3 = word 5 ∧
    (∀ k ∈ [FpKind.fadd, .fsub, .fmul, .fdiv, .fsqrt], ¬ FpInvalid k (word 7) (word 5)) ∧
    fpUnpack (word 0o377600000000) = .nan ∧ fpUnpack 0 = .fin false 0 (-280) := by
  refine ⟨by decide, by decide, by decide, by decide, fun k hk => ?_, by decide, by decide⟩
  have h2 : fpUnpack (word 7) = .fin false 7 (-280) := by decide
  have h3 : fpUnpack (word 5) = .fin false 5 (-280) := by decide
  simp only [List.mem_cons, List.not_mem_nil, or_false] at hk
  rcases hk with rfl | rfl | rfl | rfl | rfl <;> simp [FpInvalid, h2, h3]

/-- FP36 words: infinity, the smallest number and 1, and the sign. -/
def inf36 : Nat := 511 * 2 ^ 26
def one36 : Nat := 255 * 2 ^ 26
def minus : Nat := 2 ^ 35

/-- `FloatingPointValuesAreRoundedOnce`: finite operands, the zero sum and the zero difference, the divisor 0, infinities and NaN. -/
theorem witness_FloatingPointValues :
    let v := fun x => fpUnpack (word x)
    v one36 = .fin false (2 ^ 26) (-26) ∧ v 1 = .fin false 1 (-280) ∧ v (minus + one36) = .fin true (2 ^ 26) (-26) ∧ v 0 = .fin false 0 (-280) ∧
    fpScaled (v one36) + fpScaled (v 1) ≠ 0 ∧ fpScaled (v one36) - fpScaled (v 1) ≠ 0 ∧ 0 ≤ fpScaled (v 1) ∧
    fpScaled (v one36) + fpScaled (v (minus + one36)) = 0 ∧ fpScaled (v one36) - fpScaled (v one36) = 0 ∧
    v inf36 = .inf false ∧ v (minus + inf36) = .inf true ∧ v 0o377600000000 = .nan ∧ FpInvalid .fadd (word inf36) (word (minus + inf36)) ∧
    FpRounds .nearestEven false (cmpRatio 1 1) (word 1) 0 := by
  have h1 : fpUnpack (word inf36) = .inf false := by decide
  have h2 : fpUnpack (word (minus + inf36)) = .inf true := by decide
  refine ⟨by decide, by decide, by decide, by decide, by decide +kernel, by decide +kernel, by decide, by decide +kernel, by decide +kernel, h1, h2, by decide, ?_, ?_⟩
  · simp [FpInvalid, h1, h2]
  · exact ⟨1, by decide, by decide, 1, by decide, by decide, by decide, by decide⟩

/-- `ArithmeticExceptions`: a division by zero in flight, and the operands of each invalid operation. -/
theorem witness_ArithmeticExceptions :
    let s := fun (k : LongKind) (x y : Nat) => demoWith fun c => { c with longOps := [⟨960, k, false⟩], g := [(2, word x), (3, word y)] }
    let o : FpOp := ⟨.nearestEven, 4, 2, 3⟩
    (∀ k ∈ [LongKind.div (alu .word false 4 2 3), .rem (alu .word false 4 2 3)], let t := s k 7 0
      t.mayIssue 0 = true ∧ (t.ctx 0).longOps = [⟨960, k, false⟩] ∧ (t.ctx 0).srcVal .word false (.reg 3) = 0) ∧
    (∀ k ∈ [FpKind.fadd, .fsub, .fmul, .fdiv, .fsqrt], let t := s (.fp k o) inf36 (minus + inf36)
      k ≠ .fcmp ∧ t.mayIssue 0 = true ∧ (t.ctx 0).longOps = [⟨960, .fp k o, false⟩] ∧ (t.ctx 0).gget o.b = word inf36 ∧ (t.ctx 0).gget o.c = word (minus + inf36)) ∧
    FpInvalid .fadd (word inf36) (word (minus + inf36)) ∧ FpInvalid .fsub (word inf36) (word inf36) ∧ FpInvalid .fmul (word 0) (word inf36) ∧
    FpInvalid .fdiv (word inf36) (word (minus + inf36)) ∧ FpInvalid .fdiv (word 0) (word 0) ∧ FpInvalid .fsqrt (word (minus + inf36)) (word 0) ∧
    FpInvalid .fsqrt (word (minus + 1)) (word 0) := by
  have h1 : fpUnpack (word inf36) = .inf false := by decide
  have h2 : fpUnpack (word (minus + inf36)) = .inf true := by decide
  have h3 : fpUnpack (word 0) = .fin false 0 (-280) := by decide
  have h4 : fpUnpack (word (minus + 1)) = .fin true 1 (-280) := by decide
  refine ⟨by decide, by decide, ?_⟩
  simp [FpInvalid, h1, h2, h3, h4]

/-- An operand of a load or store of A at G1, authorised by K1. -/
def memOp (a : GReg) : MemOp := ⟨a, 1, .disp 0, 1⟩

/-- `LoadsAndStores`: accesses of every size at line 32 that succeed, and through the untagged K7 fail. -/
theorem witness_LoadsAndStores :
    let t := fetched demo
    let c := demo.ctx 0
    let fails := fun {α : Type} (x : Except Flt α × State) => x.1.isOk = false ∧ x.2.ctx 0 = c ∧ calm x.2 = true
    (∀ p ∈ [(1, 1, false), (2, 1, false), (4, 1, true), (8, 1, false), (16, 16, false)],
      let u := t.load 0 (c.kget 1) [permLoad] (c.ea 1 (.disp 0)) p.1 p.2.1 p.2.2
      u.1.isOk = true ∧ u.2.ctx 0 = c ∧ calm u.2 = true ∧ fails (t.load 0 (c.kget 7) [permLoad] (c.ea 1 (.disp 0)) p.1 p.2.1 p.2.2)) ∧
    (∀ p ∈ [(1, 1, false), (2, 1, false), (4, 1, true), (8, 1, false), (16, 16, false)],
      let u := t.store 0 (c.kget 1) [permStore] (c.ea 1 (.disp 0)) p.2.1 (List.replicate p.1 0) false p.2.2
      u.1.isOk = true ∧ (u.2.ctx 0).pendRet = none ∧ calm u.2 = true ∧
      fails (t.store 0 (c.kget 7) [permStore] (c.ea 1 (.disp 0)) p.2.1 (List.replicate p.1 0) false p.2.2)) ∧
    ∀ i ∈ [Instr.ldb h0 (memOp 4), .ldh h0 (memOp 4), .ldw h0 (memOp 4), .ldd h0 (memOp 4), .ldc h0 (memOp 4), .stb h0 (memOp 4),
      .sth h0 (memOp 4), .stw h0 (memOp 4), .std h0 (memOp 4), .stc h0 (memOp 1)], i.wf = true := by decide

/-- `LoadsAndStores`, the order of the checks: a capability for each clause, at the bounds of its range. -/
theorem witness_CapabilityChecks :
    let k := lowCap
    let dead := { demo with bsu := { demo.bsu with dead := [(0, true)] } }
    ({ k with tag := false } : Cap).tag = false ∧ k.tag = true ∧ (k.withOtype 1).otype ≠ 0 ∧ k.otype = 0 ∧ dead.dead k.tenant = true ∧
    demo.dead k.tenant = false ∧ (∃ p ∈ [permCross], k.perm p = false) ∧ (∀ p ∈ [permLoad, permStore], k.perm p = true) ∧
    (4800 - 4 < 0 ∨ min (k.base.toNat + k.len.toNat) (2 ^ 36) < 4797 + 4) ∧ 4796 + 4 ≤ min (k.base.toNat + k.len.toNat) (2 ^ 36) ∧
    4790 % 16 ≠ 0 ∧ 4796 % 4 = 0 ∧ (demo.ctx 1).findBlock (4796 / 48) = none := by decide

/-- `DirectLoadsDeliverWhatTheContextSees`, `DirectStoresWriteTheirBytesAlone`, `LineMaintenance`: an access at the end of line 32. -/
theorem witness_Direct :
    (∀ p ∈ [(1, 1, 1583), (2, 1, 1582), (4, 1, 1580), (8, 1, 1576), (16, 16, 1568)],
      Direct (fetched demo) 0 (rootCap 0) [permLoad] p.2.2 p.1 p.2.1 p.2.2 ∧ Direct (fetched demo) 0 (rootCap 0) [permStore] p.2.2 p.1 p.2.1 p.2.2 ∧
      p.2.2 % p.2.1 = 0) ∧ Sound (fetched demo) 32 := by
  have h : ∀ p ∈ ([(1, 1, 1583), (2, 1, 1582), (4, 1, 1580), (8, 1, 1576), (16, 16, 1568)] : List (Nat × Nat × Nat)), ∀ q ∈ [permLoad, permStore],
      (fetched demo).capSteps (rootCap 0) [q] p.2.2 p.1 p.2.1 = none ∧ p.2.2 % 48 + p.1 ≤ 48 ∧ inErrorRing (fetched demo) p.2.2 = false ∧
      (fetched demo).paKind p.2.2 = .dram ∧ ((fetched demo).ctx 0).findBlock (p.2.2 / 48) = some (0, { lines := 100, en := true }) ∧
      p.2.2 = ({ lines := 100, en := true } : Block).physBase + (p.2.2 - 0) ∧ p.2.2 % p.2.1 = 0 := by decide
  refine ⟨fun p hp => ?_, by decide, by decide, by decide⟩
  have h1 := h p hp permLoad (by decide)
  have h2 := h p hp permStore (by decide)
  exact ⟨⟨h1.1, h1.2.1, h1.2.1, h1.2.2.1, h1.2.2.2.1, 0, _, h1.2.2.2.2.1, by decide, rfl, Or.inl (by decide), h1.2.2.2.2.2.1⟩,
    ⟨h2.1, h2.2.1, h2.2.1, h2.2.2.1, h2.2.2.2.1, 0, _, h2.2.2.2.2.1, by decide, rfl, Or.inl (by decide), h2.2.2.2.2.2.1⟩, h1.2.2.2.2.2.2⟩

/-- `DirectAtomicResults`: word and double atomic accesses at line 32. -/
theorem witness_Atomic :
    (∀ size ∈ [4, 8], (fetched demo).capSteps (rootCap 0) [permLoad, permStore] 1536 size size = none ∧ 1536 % size = 0) ∧
    (fetched demo).mem.gone = [] ∧ (fetched demo).mem.poisoned 32 = false ∧ ((fetched demo).mem.home 32).bad = false ∧ inErrorRing (fetched demo) 1536 = false ∧
    ∀ i ∈ [Instr.atomicSwap h0 ⟨false, 4, 1, 2, 1⟩, .atomicAdd h0 ⟨true, 4, 1, 2, 1⟩, .atomicAnd h0 ⟨false, 4, 1, 2, 1⟩,
      .atomicOr h0 ⟨true, 4, 1, 2, 1⟩, .atomicXor h0 ⟨false, 4, 1, 2, 1⟩, .atomicSmin h0 ⟨false, 4, 1, 2, 1⟩,
      .atomicSmax h0 ⟨true, 4, 1, 2, 1⟩, .cas h0 ⟨true, 4, 1, 2, 1⟩], i.wf = true := by decide

/-- `BlockInstructions`: a BLKFILL in flight over line 32 that completes, one with a count that is no multiple of 4, and one through
an untagged capability that fails at its first access. -/
theorem witness_BlockInstructions :
    let s := fun (n : Nat) (k : KReg) => demoWith fun c => { c with longOps := [⟨960, .blk .fill ⟨1, 2, 3, k⟩, false⟩], g := [(1, 1536), (2, 7), (3, word n)] }
    let s0 := fun n k => (s n k).setCtx 0 { (s n k).ctx 0 with longOps := [] }
    (s 8 1).mayIssue 0 = true ∧ ((s 8 1).ctx 0).longOps = [⟨960, .blk .fill ⟨1, 2, 3, 1⟩, false⟩] ∧
    ((s0 8 1).blkGo 0 960 .fill ⟨1, 2, 3, 1⟩ (2 ^ 36)).1 = none ∧ calm ((s0 8 1).blkGo 0 960 .fill ⟨1, 2, 3, 1⟩ (2 ^ 36)).2 = true ∧
    (((s 5 1).ctx 0).gget 3).toNat % 4 ≠ 0 ∧ ((s0 8 7).blkRun 0 (((s 8 7).ctx 0).kget 7) .fill 2 ⟨1536, 7, 8, false⟩).2.1.isSome = true ∧
    ((1 : GReg) ≠ 3 ∧ (2 : GReg) ≠ 1 ∧ (2 : GReg) ≠ 3) := by decide

/-- `BranchesAndGates`: a taken and an untaken branch; a gate (K4 and K5 sealed with object type 7), and each cause that comes before it. -/
theorem witness_BranchesAndGates :
    (∀ i ∈ [Instr.br h0 (.short 4), .call h0 (.long 8), .brR h0 2, .callR h0 2, .ret h0], i.wf = true) ∧
    condHolds 0 demoCtx = true ∧ condHolds 1 demoCtx = false ∧
    let k := (rootCap 0).withOtype 7
    let bad := fun (x y : Cap) => (x.tag = false ∨ y.tag = false, x.otype = 0 ∨ y.otype = 0 ∨ x.otype ≠ y.otype, x.perm 2 = false ∨ x.tenant ≠ y.tenant)
    let dead := { demo with bsu := { demo.bsu with dead := [(0, true)] } }
    ¬ (bad k k).1 ∧ ¬ (bad k k).2.1 ∧ ¬ (bad k k).2.2 ∧ demo.dead k.tenant = false ∧ dead.dead k.tenant = true ∧
    (bad { k with tag := false } k).1 ∧ (bad k (k.withOtype 8)).2.1 ∧ (bad k { k with attr := word (k.attr.toNat + 2 ^ 24) }).2.2 := by decide

/-- `CapabilityInstructions`: the instructions execute with these capabilities in K4, K5 and K6: each requirement met, and each cause. -/
theorem witness_CapabilityInstructions :
    let x := lowCap
    let y := { rootCap 7 with len := 4096 }
    let s := fun (x y : Cap) (g : Nat) => demoWith fun c => { c with k := [(0, rootCap 0), (4, x), (5, y)], g := [(1, word g)] }
    let ins : List Instr := [.cbound h0 9 4 1, .crestrict h0 9 4 1, .cseal h0 9 4 5, .cunseal h0 9 4 5, .csetc h0 9 4 1, .cmove h0 9 4]
    let z := { x with attr := word (x.attr.toNat + 2 ^ 24) }
    let dead := fun (s : State) => { s with bsu := { s.bsu with dead := [(1, true)] } }
    (∀ i ∈ ins, i.wf = true) ∧
    (∀ t ∈ [s x y 4795, s (x.withOtype 7) y 0, s x { y with tag := false } 4796, dead (s z y 0)], t.atBoundary 0 = true ∧ t.boundaryDue 0 = false ∧
      (t.ctx 0).longOps = [] ∧ (t.ctx 0).pendRet = none ∧ (t.fetch 0 4).1.isNone = true ∧ (t.ctx 0).kget 4 ≠ {}) ∧
    x.tag = true ∧ x.otype = 0 ∧ demo.dead x.tenant = false ∧ (dead demo).dead z.tenant = true ∧ z.tag = true ∧ z.otype = 0 ∧ x.cursor.toNat + 4795 ≤ 4800 ∧ 4800 < x.cursor.toNat + 4796 ∧
    y.tag = true ∧ y.otype = 0 ∧ y.perm 5 = true ∧ y.perm 6 = true ∧ y.tenant = x.tenant ∧ y.base.toNat ≤ y.cursor.toNat ∧
    y.cursor.toNat < min (y.base.toNat + y.len.toNat) (2 ^ 36) ∧ 1 ≤ y.cursor.toNat ∧ y.cursor.toNat ≤ 4095 ∧
    (x.withOtype 7).otype = y.cursor.toNat ∧ (x.withOtype 7).otype ≠ 0 ∧ (rootCap 0).cursor.toNat = 0 ∧ (x.withOtype 8).otype ≠ y.cursor.toNat ∧
    ({ y with attr := 0 } : Cap).perm 5 = false ∧ ({ y with attr := 0 } : Cap).perm 6 = false ∧
    demoCtx.pcc.perm 10 = true ∧ ({ demoCtx.pcc with attr := 0 } : Cap).perm 10 = false := by decide

/-- `SystemRegisters`, `TranslationAndBarriers`, `LineMaintenance`: the permissions of PCC, and a context that lacks them; a block setting that
R330 rejects and one that it takes; lines 32 of demo are direct. -/
theorem witness_SystemRegisters :
    (∀ p ∈ [8, 9], demoCtx.pcc.perm p = true ∧ ({ demoCtx.pcc with attr := 0 } : Cap).perm p = false) ∧
    (∀ i ∈ [Instr.setsr h0 2 64, .setsr h0 2 127, .getsr h0 2 16, .getsr h0 2 63, .invpg h0 1, .cleanA h0 1 1, .invA h0 1 1, .cleanS h0 1], i.wf = true) ∧
    (let b := (demoCtx.block 0).writeWord 3 (word (3 * 2 ^ 10)); b.typ = 3) ∧
    (let b := (demoCtx.block 0).writeWord 3 (word (2 ^ 12)); b.typ = 0 ∧ b.paged = false ∧ (b.phi * 2 ^ 36 + b.target.toNat) % 48 = 0 ∧
      b.owner < Config.tenants demo.hw.variant) := by decide

/-- `demo` with line 32 written in the L2. -/
def dirtied : State := { demo with mem := { demo.mem with l2 := [(20, way 20 .e), (32, way 32 .m), (40, way 40 .e), (41, way 41 .e), (42, way 42 .e)] } }

/-- `LineMaintenance`: CLEAN.A and INV.A of line 32, and CLEAN.S of set 32, way 0, with the line clean and with it modified in the L2. -/
theorem witness_LineMaintenance :
    Direct (fetched demo) 0 (demoCtx.kget 1) [permLoad] (demoCtx.gget 1).toNat 1 1 1536 ∧
    Direct (fetched demo) 0 (demoCtx.kget 1) [permStore] (demoCtx.gget 1).toNat 1 1 1536 ∧ Sound (fetched demo) 32 ∧
    (∀ x, tget none (((fetched demo).drainCtx 0).mem.settle ((fetched demo).asker 0) 32).stale 32 = some x → x.words.length = 12) ∧
    ((fetched demo).mem.sysDirty 32 = none ∧ (fetched demo).mem.home 32 = (fetched demo).mem.now 32) ∧
    tget none (tget [] (fetched dirtied).mem.l2 32) 0 = some ⟨32, .m, 0⟩ ∧ (fetched dirtied).mem.l2State 0 32 = some .m ∧
    (fetched dirtied).mem.poisoned 32 = false ∧ inErrorRing (fetched dirtied) (48 * 32) = false ∧ (fetched dirtied).mem.gone = [] := by
  refine ⟨⟨by decide, by decide, by decide, by decide, by decide, 0, { lines := 100, en := true }, by decide, by decide, rfl, Or.inl (by decide), by decide⟩,
    ⟨by decide, by decide, by decide, by decide, by decide, 0, { lines := 100, en := true }, by decide, by decide, rfl, Or.inl (by decide), by decide⟩,
    ⟨by decide, by decide, by decide⟩, ?_, by decide, by decide, by decide, by decide, by decide, by decide⟩
  have h : tget none (((fetched demo).drainCtx 0).mem.settle ((fetched demo).asker 0) 32).stale 32 = none := by decide
  intro ws hw
  rw [h] at hw
  cases hw

/-- A precise exception of cause 21 of context 0. -/
def trap21 : Exc := { cause := 21, fault := 960, resume := 964 }

/-- The lines of the frame that an exception of context 0 pushes. -/
def frameLines (s : State) : List (Nat × Bool) := match (pushAt s 0 trap21).1 with | .ok l => l | _ => []

/-- `TrapsAndExceptionEntry`, `FramesAreWrittenAndRead`, `EretUndoesTheEntry`: a frame at lines 40 to 42, for an exception and for ERET; illegal bytes. -/
theorem witness_frames :
    demo.stopping 0 = false ∧ calm demo = true ∧ (pushAt demo 0 trap21).1.isOk = true ∧ demo.dead demoCtx.evc.tenant = false ∧
    (frameLines demo).map Prod.fst = [40, 41, 42] ∧ [40, 41, 42].Nodup ∧ (demo.ctx 0).esc.cursor.toNat - 144 = 1920 ∧
    (∀ i, i < 3 → demoCtx.findBlock ((1920 + 48 * i) / 48) = some (0, { lines := 100, en := true })) ∧
    (∀ p ∈ frameLines demo, demo.mem.gone = [] ∧ demo.mem.poisoned p.1 = false ∧ (demo.mem.home p.1).bad = false ∧ inErrorRing demo (48 * p.1) = false) ∧
    (∀ b ∈ [0, 24], lengthDecode [b, 0, 0, 0] = .illegal 1) ∧ (Instr.eret h0).wf = true ∧
    ((fetched (demoWith fun c => { c with esc := rootCap 1920 })).frameAt 0 false 1920).1.isOk = true ∧ (21 < 64 ∧ 0 < 64 ∧ 31 < 32) := by decide

/-- `WedgeAndRestart`: a frame below address 0, a dead EVC, an ERET through an untagged ESC; a context that is wedged and one that is not. -/
theorem witness_WedgeAndRestart :
    let low := demoWith fun c => { c with esc := rootCap 0 }
    let dead := { demo with bsu := { demo.bsu with dead := [(5, true)] } }
    low.stopping 0 = false ∧ (pushAt low 0 trap21).1.isOk = false ∧ trap21.intr = none ∧ dead.dead 5 = true ∧ (pushAt dead 0 trap21).1.isOk = true ∧
    ((fetched (demoWith fun c => { c with esc := {} })).frameAt 0 false 0).1.isOk = false ∧
    RegOpen demo .service (0x20000 + 0x2000 * (0 / 32) + 128 + 2 * (0 % 32)) ∧ 0 < 32 * Config.clusters demo.hw.variant ∧
    (demo.ctx 0).run ≠ .wedged ∧ ((demoWith fun c => { c with run := .wedged }).ctx 0).run = .wedged ∧ tget false demo.ras.coreOff 0 = false ∧
    (demoWith fun c => { c with run := .wedged }).cluReady 0 = true ∧ tget none demo.pmu.hold 0 = none ∧ demo.cluPower 0 = some .run := by
  refine ⟨by decide, by decide, by decide, by decide, by decide, by decide, ⟨by decide, by decide, by decide, by decide⟩, ?_⟩
  decide

/-- `AlarmsAndWaits`: a locked time base at beat 3 of turn 2, with an alarm or a deadline that is due. -/
theorem witness_AlarmsAndWaits :
    let at_ := fun (f : Ctx → Ctx) => { demoWith f with tbu := { demo.tbu with mode := .locked, turn := 2, beat := 3, edges := 9, bptM1 := 9, period := 1 } }
    let d : Due := ⟨⟨2, 3⟩, 8⟩
    let s := at_ fun c => { c with alarm := some d, deadline := some d }
    let w := at_ fun c => { c with alarm := some d, run := .wait 2 }
    s.isDue d = true ∧ s.wedgedFor 0 = false ∧ s.cluPower (cluOf 0) = some .run ∧ (s.ctx 0).alarm = some d ∧ (s.ctx 0).deadline = some d ∧ (s.ctx 0).run = .run ∧
    (w.ctx 0).run = .wait 2 ∧ w.boundaryDue 0 = false ∧ (w.ctx 0).pendRet = none ∧
    (∀ p ∈ [(2, 3, true), (2, 4, false), (2, 2, true)], s.stampOk (word (p.1 * 65536 + p.2.1)) = true ∧
      Stamp.le (s.resolve (word (p.1 * 65536 + p.2.1))) s.now = p.2.2) ∧ s.stampOk (word 10) = false := by decide

/-- `InterruptServiceBeginsAndEnds`: the stack of EOI, the sources of SGI, deliveries above and at the running priority. -/
theorem witness_InterruptService :
    let s := fun (p : Nat) => demoWith fun c => { c with held := some ⟨5120, p, 640⟩, stack := [(416, 5)] }
    demoCtx.pcc.perm 9 = true ∧ demo.glb.rIcu = true ∧ demo.icu.gated = false ∧ (demo.src 5120).count < 15 ∧ demo.srcExists 5120 = true ∧
    (∀ p ∈ [5, 6], (s p).mayIssue 0 = true ∧ ((s p).ctx 0).run = .run ∧ ((s p).ctx 0).routine = none ∧ ((s p).ctx 0).pendRet = none ∧
      ((s p).ctx 0).longOps = [] ∧ (s p).boundaryDue 0 = false ∧ ((s p).ctx 0).held = some ⟨5120, p, 640⟩ ∧
      calm (s p) = true ∧
      (pushAt (s p) 0 ⟨0, 960, 960, 0, false, false, false, false, false, 0, 0, [], {}, 0, some ⟨5120, p, 640⟩⟩).1.isOk = true) ∧ 5 ≤ ((s 5).ctx 0).runPri ∧ ((s 6).ctx 0).runPri < 6 ∧ (s 6).dead ((s 6).ctx 0).evc.tenant = false := by decide

/-- A capability that serves the events of class `c` (R494). -/
def classCap (c : Nat) : Cap := { (rootCap 0) with attr := word ((rootCap 0).attr.toNat + 4032 + c) }

/-- An event of class 3 and its coach in pool 0. -/
def event0 : Event := ⟨1, 0, 0, 3, 0, 0, ⟨0, 0⟩, ⟨1, 0⟩, 1, 1, 1, none⟩

/-- `TakeBlocksAndReceives`, `EventsAreDispatched`: a blocked TAKE of class 3 and an event for it; sealed and unsealed capabilities. -/
theorem witness_Take :
    let s := { demoWith (fun c => { c with run := .take 4 1 4, k := [(0, rootCap 0), (1, classCap 3)] }) with
      ddu := { descs := [⟨event0, 0⟩], waiting := [0] } }
    s.waitingTake 0 = some (4, classCap 3, 4) ∧ (s.select (classCap 3)).isSome = true ∧ (s.ctx 0).pendRet = none ∧ s.ddu.waiting = [0] ∧
    (classCap 0).otype = 4032 ∧ (classCap 63).otype = 4095 ∧ (classCap 3).tag = true ∧ (rootCap 0).otype < 4032 ∧ (rootCap 0).tag = true ∧ demoCtx.alarmPending = false := by
  decide

/-- `DecisionsAndCoachSlots`: K1 names the coach of context 0 in `s`, K2 names none; G4 is its stamp and G5 another. -/
theorem witness_Decisions :
    let c := { demoCtx with
      k := [(0, rootCap 0), (1, { rootCap 1536 with base := 1536, len := 48 }), (2, rootCap 0)]
      coaches := [⟨{ event0 with lane := some 2 }, 1536, 48, false⟩]
      g := [(5, 1)] }
    let s := { demo with
      ctxs := [(0, c)]
      tbu := { demo.tbu with mode := .locked, bptM1 := 9, period := 1 }
      dol := { recs := [⟨2, ⟨0, 0⟩, ⟨⟨1, 0⟩, 0⟩, 1, 0, 0, 0, 0, none⟩] } }
    let find := fun (k : KReg) => (s.ctx 0).coaches.find? (fun y => decide (y.base = ((s.ctx 0).kget k).base.toNat) && decide (y.len = ((s.ctx 0).kget k).len.toNat))
    (find 1).isSome = true ∧ find 2 = none ∧ s.stampOk ((s.ctx 0).gget 4) = true ∧ (s.ctx 0).gget 4 = event0.stamp.short ∧ (s.ctx 0).gget 5 ≠ event0.stamp.short ∧
    (s.dol.recs.find? (fun r => decide (r.lane = 2) && decide (r.stamp = ⟨0, 0⟩))).isSome = true ∧
    Stamp.le (Stamp.add s.bpt ⟨1, 0⟩ (-1)) s.now = false ∧ Stamp.le (Stamp.add s.bpt ⟨0, 0⟩ (-1)) s.now = true := by decide

/-- `CustomerInstructionsRunTheirRoutine`: entry 5 is empty in `demo`, so that it is not admitted; in `customer` its routine ends; a routine at
its limit. -/
theorem witness_Customer :
    let w := 2 ^ 35 + 2 ^ 31 + 2 ^ 9 + 4
    let l := demoWith fun c => { c with routine := some ⟨cust5, 4, 0, 0, 0, List.replicate 8 0, none, 4096, true⟩ }
    (custOk (fetched demo) cust5 0 = false ∧ (Instr.customerInstruction h0 cust5).wf = true) ∧
    (customer.atBoundary 0 = true ∧ (customer.fetch 0 4).1.isNone = true ∧ custOk (fetched customer) cust5 w = true ∧
      (match (fetched customer).microRun 0 4096 ⟨cust5, 4, 0, w, 0, List.replicate 8 0, none, 0, false⟩ with
       | .fin u => (u.ctx 0).pendRet.isNone && calm u | _ => false) = true) ∧
    l.mayIssue 0 = true ∧ (l.ctx 0).longOps = [] ∧ ((l.ctx 0).routine.map Routine.limit) = some true := by decide

/-- A merging-buffer entry of context 0 for line 32, of a store or of a frame; `demo` with it behind one that is not eligible. -/
def stored (f : Option (Nat × Word)) : MEntry := ⟨32, 0, [(0, some 7)], [], 1536, false, true, false, f⟩
def early : MEntry := ⟨33, 0, [(0, some 7)], [], 1584, false, false, false, none⟩
def merging (f : Option (Nat × Word)) : State := { demo with cores := [(0, { released := true, merge := [early, stored f] })] }

/-- `CoreEvents`: two long operations in flight, the later of which completes; an eligible entry of the merging buffer, of a store and of a
frame; PRED_FLUSH. -/
theorem witness_CoreEvents :
    let q : LongOp := ⟨964, .div (alu .word false 4 2 3), false⟩
    let s := demoWith fun c => { c with longOps := [⟨960, .mulh (alu .word false 5 2 3), false⟩, q] }
    (s.mayIssue 0 = true ∧ (s.ctx 0).longOps.length = 2 ∧ (s.runLong 0 q).1.isNone = true ∧ calm (s.runLong 0 q).2 = true) ∧
    (∀ f ∈ [none, some (21, 960)], ((merging f).core 0).merge = [early] ++ stored f :: [] ∧ calm (merging f) = true ∧ (merging f).mem.gone = [] ∧
      ((merging f).ctx 0).run ≠ .wedged ∧ inErrorRing (merging f) (48 * 32) = false ∧ (stored f).ctx = 0 ∧ (stored f).elig = true ∧
      twf none (stored f).bytes = true ∧ ∀ b ∈ (stored f).bytes, b.1 < 48) ∧
    early.elig = false ∧ 0 < 8 * Config.clusters demo.hw.variant ∧ RegOpen demo .service (0x20000 + 32) := by
  refine ⟨by decide, by decide, by decide, by decide, ⟨by decide, by decide, by decide, by decide⟩⟩

/-! ### Witnesses: registers, time, interrupts -/

/-- The words of the register statements are open to the service core and to context 0, whose block registers map none of them as a DEVICE
block: it reaches them through its own loads and stores alone. -/
theorem witness_registers :
    (∀ n ∈ [5, 9, 63, 109, 0x2002, 0x2003, 0x2006, 0x2009, 0x200A, 0x200C, 0x4000, 0x4004, 0x4005, 0x401B, 0x600A,
        0xA000, 0xA002, 0xE001, 0xE002, 0xE005, 0xE006, 0x10008, 0x12000, 0x12002, 0x12003, 0x12006, 0x12010, 0x12020, 0x14028, 0x16001, 0x16003,
        0x18000, 0x1FFFF, 0x20020],
      (demo.heard .service).canAccess .service n .full permLoad = true ∧ (demo.heard .service).canAccess .service n .full permStore = true ∧
      (demo.heard .service).canAccess .service n .high permLoad = true ∧ (demo.heard .service).canAccess .service n .high permStore = true ∧
      (demo.heard .service).regDenied n = false) ∧
    (demo.heard (.context 0)).canAccess (.context 0) 0x2006 .full permStore = false ∧ demo.glb.locked = false ∧ demo.glb.rTbu = true ∧
    demo.isRes 16 = true ∧ demo.isRes 20 = true ∧ demo.isRes 32 = true ∧ ({ demo.glb with locked := true } : Glb).locked = true ∧
    tget none ({ demo.tbu with latch := [(reqCode .service, some 5)] } : Tbu).latch 516 = some 5 := by decide +kernel

/-- `demo` with a locked time base of ten beats a turn, at beat 3 of turn 2, which hears both links. -/
def timed : State := { demo with
  tbu := { demo.tbu with
    mode := .locked, turn := 2, beat := 3, edges := 9, bptM1 := 9, period := 256, link0 := { lock := true, good := true, heard := true, lastEdge := 1, m := 1 }
    link1 := { lock := true, good := true } } }

/-- A BEAT frame of ten beats per turn, and one at the ends of its ranges. -/
def frame3 : BeatFrame := ⟨2, 3, 0, 3, 10, 0, 4096⟩
def frameTop : BeatFrame := ⟨2 ^ 48 - 1, 65535, 131, 15, 65536, 255, 4096⟩

/-- `FramesOfTheTimeLinks`: a first frame; the second and the third of an acquisition; one that agrees with the locked time; blocks with one and
two bad sync headers, and with a CRC that is wrong. -/
theorem witness_Frames :
    let idle := { timed with tbu := { timed.tbu with mode := .none }, glb := { timed.glb with rTbu := false } }
    let acq := fun (k : Nat) => { timed with tbu := { timed.tbu with mode := .acquiring, acqStep := k, hist := [(1, 0)], acqRun := 2 } }
    let b := beatBlocks frame3
    (∀ f ∈ [frame3, frameTop], rxBlocks (beatBlocks f) ⟨BitVec.ofNat 8 f.phase, f.refTime⟩ = .beat f) ∧
    idle.receives 0 = true ∧ idle.receives 1 = true ∧ idle.tbu.mode = .none ∧ idle.glb.rTbu = false ∧
    (∀ k ∈ [1, 2], (acq k).receives 0 = true ∧ (acq k).tbu.mode = .acquiring ∧ (acq k).tbu.acqStep = k ∧ (acq k).tbu.active = 0) ∧
    (acq 1).tbu.hist = [(1, 0)] ∧ frame3.bpt = (acq 1).bpt ∧ 1 < frame3.refTime ∧ 0 < ((acq 1).linkTime frame3).beats frame3.bpt ∧
    frame3.refTime - 1 < (2 ^ 31 - 1) * (((acq 1).linkTime frame3).beats frame3.bpt - 0).toNat ∧
    (acq 2).consistent frame3 = true ∧ (acq 2).tbu.acqRun = 2 ∧
    timed.receives 0 = true ∧ timed.tbu.mode = .locked ∧ timed.tbu.active = 0 ∧ timed.consistent frame3 = true ∧
    rxBlocks ⟨0, b.second⟩ ⟨0, 0⟩ = .bad 1 ∧ rxBlocks ⟨0, 3⟩ ⟨0, 0⟩ = .bad 2 ∧ rxBlocks ⟨b.first ^^^ 4, b.second⟩ ⟨0, 0⟩ = .crc ∧
    rxBlocks idleBlocks ⟨0, 0⟩ = .idle ∧ (timed.tbu.link 0).crcRun < 7 ∧
    (({ timed.tbu with link0 := { timed.tbu.link0 with crcRun := 7 } } : Tbu).link 0).crcRun = 7 := by decide +kernel

/-- `LinksFailAndBeatsPass`: with the other link good, and without; the end of the wait of an acquiring TBU. -/
theorem witness_Links :
    let alone := { timed with tbu := { timed.tbu with link1 := {} } }
    let acq := { timed with tbu := { timed.tbu with mode := .acquiring, acqStep := 1 } }
    (∀ s ∈ [timed, alone], s.tbu.active = 0 ∧ s.tbu.mode = .locked ∧ (s.tbu.link 0).lock = true ∧ s.linkEn 0 = true ∧ (s.tbu.link 0).heard = true ∧
      4 * 2 ^ (s.tbu.link 0).m ≤ s.tbu.edges - (s.tbu.link 0).lastEdge) ∧ (timed.tbu.link 1).good = true ∧ timed.linkEn 1 = true ∧ (alone.tbu.link 1).good = false ∧
    acq.tbu.active = 0 ∧ acq.tbu.mode = .acquiring ∧ acq.tbu.acqStep = 1 ∧
    timed.glb.rTbu = true ∧ 0 < timed.tbu.period ∧ timed.tbu.held = false ∧ timed.tbu.beat < timed.bpt := by decide

/-- `TimedCommands`: frames of a new and of an old sequence number, one with a stamp to come and one that is late, with room among the waiting
commands and without; one waiting command of each code that is due, with argument 0 and 5; a window that ends; an item that is due. -/
theorem witness_TimedCommands :
    let s := fun (code arg : Nat) => { timed with tbu := { timed.tbu with cmds := [⟨code, arg, ⟨⟨2, 3⟩, 8⟩⟩], seqs := [7] } }
    let full := { s 1 0 with tbu := { (s 1 0).tbu with cmds := List.replicate 16 ⟨1, 0, ⟨⟨9, 3⟩, 8⟩⟩ } }
    let f := fun (b c q : Nat) => (⟨2, b, c, 0, q⟩ : CmdFrame)
    let quiet := { timed with tbu := { timed.tbu with quiet := some ⟨some ⟨⟨2, 3⟩, 8⟩⟩ } }
    let open_ := { s 2 0 with tbu := { (s 2 0).tbu with quiet := some ⟨none⟩ } }
    let alarm := { timed with ctxs := [(0, { demoCtx with alarm := some ⟨⟨2, 3⟩, 8⟩ })] }
    (∀ x ∈ [f 4 1 7, f 4 1 8, f 3 3 8], rxBlocks (commandBlocks x) ⟨0, 0⟩ = .command x ∧ x.beat < (s 1 0).bpt) ∧ (s 1 0).receives 0 = true ∧
    (s 1 0).glb.rTbu = true ∧ Stamp.le ⟨2, 4⟩ (s 1 0).now = false ∧ Stamp.le ⟨2, 3⟩ (s 1 0).now = true ∧
    7 ∈ (s 1 0).tbu.seqs ∧ 8 ∉ (s 1 0).tbu.seqs ∧ (s 1 0).tbu.cmds.length < 16 ∧ 16 ≤ full.tbu.cmds.length ∧
    (∀ c ∈ [1, 2, 3, 4, 5, 6, 7], ∀ a ∈ [0, 5], (s c a).isDue ⟨⟨2, 3⟩, 8⟩ = true ∧ (s c a).tbu.cmds = [⟨c, a, ⟨⟨2, 3⟩, 8⟩⟩]) ∧
    (open_.tbu.quiet.isSome = true ∧ open_.tbu.cmds = [⟨2, 0, ⟨⟨2, 3⟩, 8⟩⟩] ∧ open_.isDue ⟨⟨2, 3⟩, 8⟩ = true) ∧ (quiet.tbu.quiet = some ⟨some ⟨⟨2, 3⟩, 8⟩⟩ ∧ quiet.isDue ⟨⟨2, 3⟩, 8⟩ = true) ∧
    timed.lk.acceptReset = true ∧ twf {} timed.ctxs = true ∧ (s 5 0).itemsDue = false ∧ alarm.itemsDue = true := by decide +kernel

/-- `InterruptsArriveAndAreRouted`: an edge source below and at 15 arrivals, GPIO sources of edge and of level, a source that no chapter assigns; a
pending source that context 0 may take; a machine whose clusters are all in EMBER, with the interrupt clock stopped. -/
theorem witness_Interrupts :
    let s := { demo with icu := { demo.icu with tset := [(0, 1)], srcs := [(416, { level := true }), (5120, { count := 15, pri := 3, tset := 0 }), (5121, { count := 14 })] } }
    let q := { demo with pmu := { demo.pmu with clus := [(0, some .ember)] } }
    let g := { q with icu := { q.icu with gated := true } }
    (∀ n ∈ [416, 431, 5120, 5121], s.srcExists n = true ∧ assigned n = true) ∧ s.glb.rIcu = true ∧ s.icu.gated = false ∧ (s.src 416).level = true ∧
    ((s.src 431).level = false ∧ (s.src 431).line = false ∧ (s.src 431).count < 15) ∧ edgeAlways 5120 = true ∧ assigned 33 = false ∧
    twf ({} : Src_) s.icu.srcs = true ∧ (s.src 5120).pending = true ∧ (∃ e ∈ s.icu.srcs, e.1 = 5120) ∧
    (0 ∈ s.contexts ∧ s.eligible (s.src 5120) 0 = true ∧ (s.ctx 0).restartPend = false) ∧
    q.lk.gateEn = true ∧ q.glb.rIcu = true ∧ (∀ k, k < Config.clusters q.hw.variant → q.cluPresent k = true → q.cluPower k ≠ some .run) ∧
    (∀ e ∈ q.icu.srcs, e.2.pending = false) ∧ (∀ e ∈ q.ctxs, e.2.held = none) ∧ (g.icu.gated = true ∧ g.glb.rIcu = true ∧ g.srcExists 5120 = true ∧
      (g.src 5120).count < 15 ∧ twf ({} : Src_) g.icu.srcs = true) := by decide +kernel

/-- `InterruptEntryEditing`: a lease of the service core on source 5120, level and edge, that has run out. -/
theorem witness_IcuLease :
    let l := fun (lv : Bool) => (⟨516, 5120, { pri := 3, level := lv }, true, false, false, .refCycles 1⟩ : IcuLease)
    let s := fun lv => { demo with icu := { demo.icu with lease := some (l lv) } }
    RegOpen (s true) .service 0xE002 ∧ RegOpen (s true) .service 0x14028 ∧ demo.icu.lease = none ∧ 8191 < 8192 ∧ (l true).owner = reqCode .service ∧
    (l false).owner ≠ reqCode (.context 0) ∧ (s true).srcExists 5120 = true ∧ (s true).leaseOver (l true).until_ = true ∧ BreakFree (s true) :=
  ⟨⟨by decide, by decide, by decide, by decide⟩, ⟨by decide, by decide, by decide, by decide⟩, by decide, by decide, by decide, by decide, by decide, by decide, ⟨rfl, rfl, rfl⟩⟩

/-! ### Witnesses: rings and carriages -/

/-- Lines from 16 on without poison are plain, where the error ring has its reset place. -/
theorem plain (s : State) (lo hi : Nat) (h1 : hi ≤ s.popLines) (h2 : s.mem.upsets = [] ∧ s.mem.gone = [] ∧ s.mem.poison = [] ∧ s.mem.stale = [])
    (h3 : s.lk.rasLine + 2 ^ s.lk.rasSize ≤ lo) : PlainLines s lo hi := by
  refine ⟨h2.1, h2.2.1, h1, fun l h _ => ⟨by simp [Mem.poisoned, h2.2.2.1, tget], ?_, ?_⟩⟩
  · simp [Mem.home, Mem.now, h2.2.2.1, h2.2.2.2, tget]
  · have e : 48 * l / 48 = l := by omega
    simp only [inErrorRing, e, Bool.and_eq_false_iff, decide_eq_false_iff_not]
    omega

/-- A carriage header: OPCODE, FLAGS, LENGTH, SEQ and the body. -/
def hdr (op flags len seq : Nat) (body : List Octet) : List Octet :=
  octetsLe 1 op ++ octetsLe 1 flags ++ octetsLe 2 ((len + 63) / 64) ++ octetsLe 2 len ++ octetsLe 2 0 ++ octetsLe 8 seq ++ (body ++ List.replicate 48 0).take 48

/-- A carriage of tenant 0 from ring 0. -/
def car (op flags : Nat) (body data : List Octet) : Carriage :=
  ⟨1, 0, .ring 0, some 0, hdr op flags data.length 3 body, data ++ List.replicate (64 * ((data.length + 63) / 64) - data.length) 0⟩

/-- The rings of a function: submission ring 0 with one slot filled, completion ring 0. -/
def rings0 : Rings := { sq := [(0, { weight := 1, en := true })], cqc := [(0, { en := true })], tail := [(0, 1)], elig := 1 }

/-- `timed` with the link of port 0 up and function 0 enabled. -/
def hosted : State := { timed with
  fns := [(0, { memEn := true, bme := true, msixEn := true })]
  ports := [(0, { enabled := true, phyOk := true, linkUp := true, perst := false })]
  rng := { intake := true, fns := [(0, rings0)] } }

/-- `RingIndices`, `RingLeases`: function 0 is open; a lease on a submission ring and on a completion ring, taken and refused. -/
theorem witness_RingLeases :
    let s := fun (k : Nat) (c : RingCfg) => { hosted with rng := { hosted.rng with fns := [(0, { rings0 with lease := some ⟨k, c, .refCycles 1⟩ })] } }
    let refused := fun (k : Nat) (c : RingCfg) => c.size < 4 ∨ 16 < c.size ∨ c.lo % 4096 ≠ 0 ∨ (k < 4 ∧ c.weight = 0) ∨ (4 ≤ k ∧ 2048 ≤ c.vector)
    hosted.pageOpen 0 = true ∧ (hosted.rings 0).lease = none ∧ (hosted.port (portOf 0)).frozen = false ∧
    (∀ k ∈ [0, 3, 4, 7], ((s k {}).rings 0).lease = some ⟨k, {}, .refCycles 1⟩ ∧ (s k {}).pageOpen 0 = true ∧ (s k {}).leaseOver (.refCycles 1) = true) ∧
    refused 0 { weight := 0 } ∧ refused 0 { size := 3, weight := 1 } ∧ refused 0 { size := 17, weight := 1 } ∧ refused 4 { vector := 2048 } ∧
    ¬ refused 0 { size := 16, weight := 1, en := true } ∧ ¬ refused 7 { vector := 2047 } := by decide

/-- `CarriagesAreFetched`: a ring that can be read; an outstanding read, live and not, of a header, of a payload slot, and of neither. -/
theorem witness_CarriagesAreFetched :
    let r := fun (l : Bool) => (⟨0, 0, 0, l, !l⟩ : HostRead)
    let s := fun (l : Bool) (f : Fetching) => { hosted with
      ports := [(0, { enabled := true, phyOk := true, linkUp := true, perst := false, reads := [r l] })]
      rng := { hosted.rng with fns := [(0, { rings0 with fetch := [(0, some f)] })] } }
    let f : Fetching := ⟨1, 0, none, []⟩
    let h := hdr 0x01 0 64 3 []
    hosted.portPresent 0 = true ∧ hosted.ringFns 0 = [0] ∧ tget 0 hosted.rng.round 0 = 0 ∧ hosted.freeTag 0 = some 0 ∧ (hosted.rings 0).awaitsHeader = false ∧
    (∀ m ∈ hosted.eligRings 0, (hosted.rings 0).elig.testBit m = true) ∧ hosted.startRings 0 = [0] ∧
    (∀ l ∈ [true, false], (s l f).findRead 0 0 = some (0, r l) ∧ (s l f).findRead 0 1 = none ∧ tget none ((s l f).rings 0).fetch 0 = some f) ∧
    h.length = 64 ∧ hSlots h = 1 ∧ hSlots (hdr 0x01 0 4032 3 []) = 63 ∧ hSlots (hdr 0x01 0 4033 3 []) = 64 ∧
    tget none ((s true { f with header := some h }).rings 0).fetch 0 = some { f with header := some h } ∧ ([] : List Octet).length + 64 = 64 * hSlots h := by
  decide +kernel

/-- `RegisterWrites`, the windows of a host port: BAR0 at address 0 is open, and no window reaches 2^40. Of a merged pair, 1,025 is the routing
ID of the first VF of its higher port (R526). -/
theorem witness_Windows :
    (hosted.port 0).merged = false ∧ hosted.pageOpen 0 = true ∧ tget 0 (hosted.fn 0).bars 0 % 2 ^ 22 = 0 ∧ 8 * 5 < 2 ^ 22 ∧
    hosted.windowOf 0 (2 ^ 40) = none ∧ 1023 < 1024 ∧
    (let m := { hosted with ports := [(0, { merged := true }), (1, { merged := true })] }
     m.routed 0 1025 = 1025 ∧ m.routed 1 1024 = 1023 ∧ m.routingOffset 1025 = 1025 ∧ m.routed 0 1 = 1024) := by decide

/-- `CarriagesAreChecked`, the aperture: a page that is open, with no carriage, with its header, and with all its slots but one. -/
theorem witness_Aperture :
    let s := fun (q : Option Push) => { hosted with rng := { hosted.rng with pushes := [(1, q)] } }
    let q1 : Push := ⟨hdr 0x02 0 128 3 [], [], false⟩
    let q2 : Push := ⟨hdr 0x02 0 64 3 [], [], false⟩
    hosted.portPresent 0 = true ∧ hosted.pageOpen 0 = true ∧ 4096 + 64 ≤ hosted.apertureSize 0 ∧ 4096 * 1 < hosted.apertureSize 0 ∧ (hosted.port 0).frozen = false ∧ hosted.rng.intake = true ∧
    hosted.bsu.recovery = false ∧ hosted.dead 0 = false ∧ hosted.staged 0 + 1 + 63 ≤ 4096 ∧ hosted.openPushes 0 < 256 ∧ hosted.readyQ 0 = [] ∧
    tget none (s (some q1)).rng.pushes 1 = some q1 ∧ q1.payload.length + 64 < 64 * hSlots q1.header ∧ q2.payload.length + 64 = 64 * hSlots q2.header ∧
    hosted.check ⟨0, 0, .queue 1, none, q2.header, List.replicate 64 0⟩ = none := by decide +kernel

/-- `CarriagesAreChecked`, the carriages of the ring engine: each of them at the head of the ready queue; mailboxes are off in `hosted`. -/
theorem witness_ReadyCarriages :
    let s := fun (c : Carriage) => { hosted with rng := { hosted.rng with ready := [(0, [c])] } }
    let nop := car 0x3F 0 [] []
    let bad := car 0x3F 0 [1] []
    let none_ := car 0x7F 0 [] []
    let empty := car 0x02 0 [] []
    let mail := car 0x02 0 [] [1]
    (∀ c ∈ [nop, bad, none_, empty, mail], ((s c).readyQ 0).head? = some c ∧ hSlots c.header ≤ 63 ∧ ((s c).port (portOf c.tenant)).frozen = false) ∧
    nop.op = 0x3F ∧ (s nop).check nop = none ∧ (s bad).check bad = some 2 ∧ bodyFields none_.op = none ∧
    (s empty).check empty = none ∧ hLength empty.header = 0 ∧ (s mail).check mail = none ∧ hLength mail.header ≠ 0 ∧ hosted.lk.mbEn = false := by decide +kernel

/-- `CarriagesAreChecked`, the key engine: with no key the MAC is wrong; with a key it is right, and SEQ is above the last accepted or not. The
QUOTA_SET of tenant 0 is in range, that of tenant 4,096 is not; POWER goes to the service core. -/
theorem witness_KeyEngine :
    let key := List.replicate 16 (7 : Octet)
    let sign := fun (c : Carriage) => { c with header := c.header.take 48 ++ aesCmac key (c.header.take 48 ++ c.data) }
    let s := fun (k : KeyRec) (c : Carriage) => { hosted with rng := { hosted.rng with critQ := [(0, [⟨0, c⟩])] }, bsu := { hosted.bsu with keys := [(0, k)] } }
    let q := fun (t : Nat) => sign (car 0x11 1 (octetsLe 2 t) [])
    let p := sign (car 0x20 1 [] [])
    (∀ c ∈ [q 0, q 4096, p], (s {} c).nextCrit = some (0, ⟨0, c⟩) ∧ (s {} c).macOk c = false ∧ (s { key := some key } c).macOk c = true ∧ hSeq c.header = 3) ∧
    hosted.rangeOk (q 0) = true ∧ hosted.rangeOk (q 4096) = false ∧ hosted.rangeOk p = true ∧ (q 0).op ≤ 0x12 ∧ 0x12 < p.op := by decide +kernel

/-- Memory words of a mailbox entry at line 50: base line 60, two slots, PROD and CONS. -/
def mailed (cons : Nat) (c : Carriage) : State := { hosted with
  lk := { hosted.lk with mbEn := true, mbLine := 50 }
  mem := { hosted.mem with mem := [(600, ⟨60, false⟩), (601, ⟨1, false⟩), (602, ⟨2, false⟩), (603, ⟨word cons, false⟩)] }
  rng := { hosted.rng with ready := [(0, [c])] } }

/-- `MailboxDelivery`: one of the two slots is free, and none is. -/
theorem witness_Mailbox :
    let c := car 0x02 0 [] [1]
    (∀ p ∈ [(1, true), (0, false)], let s := mailed p.1 c
      (s.readyQ 0).head? = some c ∧ s.check c = none ∧ s.lk.mbEn = true ∧ s.mem.gone = [] ∧ (s.mem.word 600).data = 60 ∧ (s.mem.word 601).data = 1 ∧
      60 + 85 * 2 ^ 1 ≤ s.popLines ∧ (50 < 60 ∨ 60 + 85 * 2 ^ 1 ≤ 50) ∧
      decide (((s.mem.word 602).data.toNat + 2 ^ 36 - (s.mem.word 603).data.toNat) % 2 ^ 36 < 2 ^ 1) = p.2) ∧
    hLength c.header ≠ 0 ∧ PlainLines (mailed 1 c) 50 51 ∧ PlainLines (mailed 1 c) 60 (60 + 85) :=
  ⟨by decide +kernel, by decide, plain _ _ _ (by decide) ⟨rfl, rfl, rfl, rfl⟩ (by decide), plain _ _ _ (by decide) ⟨rfl, rfl, rfl, rfl⟩ (by decide)⟩

/-- A number as 48 octets, most significant first. -/
def be48 (x : Nat) : List Octet := (octetsLe 48 x).reverse

/-- `n` zero octets. -/
def zeros (n : Nat) : List Octet := List.replicate n 0

/-- A boot image of version 2 with a firmware section of one octet. Its key was chosen so that both factors of its signature are 1. -/
def goodImage : List Octet :=
  octetsLe 4 0x31444E4B ++ octetsLe 2 1 ++ [0, 255] ++ octetsLe 4 2 ++ octetsLe 4 609 ++ zeros 32 ++
  be48 0xe509dafc5ba59108138b051e829130b0b83ca063b30d204de6fbaac3850638f0ed8ebc7deb13f4b4022adfcb3affc524 ++
  [1, 0, 0, 0] ++ octetsLe 4 224 ++ octetsLe 4 1 ++ zeros 116 ++ [0x77] ++
  be48 0x8134af5e4ab7bbe78cb5d2479ecb02487ab68ff65ffe66a37d2315de27b5bab6e23196734bea9c00bac7f13af3784181 ++
  be48 0x2f04464ae995fcaf935006089defca57dee6cbf0f264763cf490b8f27f660f1fe06f1f62e0b3ff7386e65126b406f516 ++
  be48 0x160cff571f6f511639cd2bc74dd5023af75b29989e64cce005fd79aaf528a8ee20f5c94c6a6a23baf9edfc2bad4f7e71 ++
  be48 0x160cff571f6f511639cd2bc74dd5023af75b29989e64cce005fd79aaf528a8ee20f5c94c6a6a23baf9edfc2bad4f7e71 ++ zeros 192

/-- Power-on reset of a part whose first vendor key is programmed. -/
def fused : State := { State.reset with bsu := { State.reset.bsu with fuses := { vendor :=
  [some (be48 0x4294d155737c8f4c0572ec828225b25d39d4f4487f3be927aab72cc46fb4522cde10d68a93651a2ce70d61f62baeca8e), none, none, none] } } }

/-! ### Witnesses: events, the service core, power, ports, DRAM, errors, start-up -/

/-- Pool 0 of tenant 0 at line 100, two slots of four lines; profile 0 of one source and one expected position, or of two. -/
def evented (n : Nat) : State := { hosted with
  eau := {
    pools := [(0, { owned := true, rec_ := ⟨true, 100, 4, 2, 0⟩ })]
    profs := [(0, { owned := true, rec_ := { en := true, nsrc := n, asmdl := 5, dispdl := 9, mask := [2 ^ n - 1] } })] } }

/-- `evented` with a carriage at the head of bank 0 of port 0. -/
def staged (s : State) (c : Carriage) : State := { s with rng := { s.rng with staging := [(0, [c])] } }

/-- Bank 0 takes it. -/
theorem takes (c : Carriage) : BankTakes (staged (evented 2) c) 0 c c.op := ⟨rfl, 0, rfl, rfl, rfl⟩

/-- A cart of source `src` for profile `p` and the current stamp, with one octet of data. -/
def cart (src p : Nat) : Carriage := car 0x01 0 (octetsLe 2 src ++ octetsLe 2 p ++ [0, 0, 0, 0] ++ octetsLe 8 (2 * 65536 + 3)) [1]

/-- An entry for the event of `cart 0 0` that has position 1 and waits for position 0. -/
def entry0 (adl : Nat) : Entry := {
  st := .assembling, profile := 0, key := word (2 * 65536 + 3), id := 1, owner := 0, cls := 0, pool := 0, slot := 0, h4 := false
  stamp := ⟨2, 3⟩, adl := ⟨⟨2, adl⟩, 0⟩, ddl := ⟨3, 2⟩, expected := 2, arrived := 1, bitmap := 2, used := 3, oversize := false, first := 0
  lane := none, ended := none }

/-- The table key of that event's set in bank 0. -/
def key0 : Nat := wayKey 0 (eauSet 0 (word (2 * 65536 + 3))) 0

/-- `CartsThatChangeNoEntry`: a cart that is taken, and each reason why one is refused. -/
theorem witness_Carts :
    let t := staged (evented 2)
    let gone := { evented 2 with eau := { (evented 2).eau with pools := [] } }
    let late := { evented 2 with tbu := { timed.tbu with turn := 3 } }
    let x := (evented 2).prof 0
    (cart 2 0).op = 0x01 ∧ (cart 2 0).body 16 2 = 2 ∧ (cart 0 1).body 18 2 = 1 ∧ ((t (cart 0 1)).prof 1).owned = false ∧ x.owned = true ∧ (evented 2).dead x.owner = false ∧
    x.susp = false ∧ x.owner = 0 ∧ x.rec_.expects 0 = true ∧ x.rec_.expects 1 = true ∧ x.rec_.expects 2 = false ∧
    (evented 2).findEntry 0 0 (word (2 * 65536 + 3)) = none ∧ (evented 2).victimsOf 0 = [] ∧
    Stamp.le (Stamp.add (evented 2).bpt ((evented 2).resolve (word (2 * 65536 + 3))) 5) (evented 2).now = false ∧
    Stamp.le (Stamp.add (evented 2).bpt ((evented 2).resolve (word (2 * 65536 + 3))) 5) late.now = true ∧
    x.release = none ∧ (gone.pool 0).owned = false ∧ ({ x with susp := true } : Profile).susp = true := by decide +kernel

/-- `CartsThatChangeNoEntry`, `CartsMakeEvents`: an entry that has, and has not, the position of the cart, and one whose deadline has passed. -/
theorem witness_Entries :
    let s := fun (adl bm : Nat) => staged { evented 2 with eau := { (evented 2).eau with table := [(key0, some { entry0 adl with bitmap := bm })] } } (cart 0 0)
    (∀ p ∈ [(4, 1), (4, 2), (3, 2)], (s p.1 p.2).feedCheck (cart 0 0) ((s p.1 p.2).prof 0) = none ∧
      (s p.1 p.2).findEntry 0 0 (word (2 * 65536 + 3)) = some (key0, { entry0 p.1 with bitmap := p.2 })) ∧
    (let e := { entry0 4 with h4 := true }
     let m := State.bitmapPlace (staged { evented 2 with eau := { (evented 2).eau with table := [(key0, some e)] } } (cart 0 0)) 0 ⟨1, [some 1, some 0, some 0]⟩
     m.findEntry 0 0 (word (2 * 65536 + 3)) = some (key0, e) ∧ m.feedCheck (cart 0 0) (m.prof 0) = none ∧ (m.bitmapFind 0 1).map (fun x => x.lines.getD 0 none) = some (some 1)) ∧
    Stamp.le (entry0 4).adl.at_ (s 4 1).now = false ∧ Stamp.le (entry0 3).adl.at_ (s 3 2).now = true ∧ (1).testBit 0 = true ∧ (2).testBit 0 = false ∧
    (entry0 4).used + 3 ≤ (4 - 1) * 12 ∧ (s 4 2).closeRoom = true ∧ (s 4 2).mem.gone = [] ∧ (cart 0 0).words.length = 1 ∧ PlainLines (s 4 2) 100 104 :=
  ⟨by decide +kernel, by decide +kernel, by decide, by decide, by decide, by decide, by decide, by decide, by decide, by decide, plain _ _ _ (by decide) ⟨rfl, rfl, rfl, rfl⟩ (by decide)⟩

/-- `CartsMakeEvents`: a cart for a new event; a TASK; a full close queue. -/
theorem witness_NewEvents :
    let s := staged (evented 2) (cart 0 0)
    let t := car 0x03 0 ([0, 0, 0, 0, 0, 0, 0, 0] ++ octetsLe 8 (2 * 65536 + 3)) [1]
    s.feedCheck (cart 0 0) (s.prof 0) = none ∧ s.roomCheck (s.prof 0) true = none ∧ s.chooseEntry 0 (eauSet 0 (word (2 * 65536 + 3))) 0 = some (key0, none) ∧
    ((s.pool 0).takeSlot.map Prod.fst) = some 0 ∧ (s.prof 0).rec_.h4 = false ∧ (s.prof 0).rec_.expected = 2 ∧ t.op = 0x03 ∧ t.body 18 2 = 0 ∧
    s.roomCheck (s.prof 0) false = none ∧ s.closeRoom = true := by decide +kernel

/-- A full close queue. -/
theorem witness_full : ({ timed with eau := { closeQ := List.replicate 4096 event0 } } : State).closeRoom = false :=
  decide_eq_false (by rw [List.length_replicate]; exact Nat.lt_irrefl _)

/-- `ProfilesPoolsAndQuotas`: records of profile 0, pool 0 and tenant 1: refused, in range, and with EN = 0. -/
theorem witness_Records :
    let ws := fun (l : List Nat) => l.flatMap (octetsLe 4)
    let prof := fun (en nsrc : Nat) => car 0x10 1 [] (ws ([en, nsrc * 65536, 5, 9, 0, 0, 0, 0, 1] ++ List.replicate 31 0))
    let pool := fun (en lines : Nat) => car 0x12 1 [] (ws [en, 200, lines, 2, 0, 0, 0, 0])
    let quota := fun (g : Nat) => car 0x11 1 [1, 0] (ws [1, 2, 3 + 4 * 4096, 0, g, 0, 0, 0])
    let s := evented 1
    let r := fun (c : Carriage) => (parseProf c.words).getD {}
    let q := fun (c : Carriage) => (parsePool c.words).getD {}
    (∀ c ∈ [prof 1 1, prof 0 1, pool 1 4, quota 100], ({ s with rng := { s.rng with eauQ := [c] } } : State).rng.eauQ.head? = some c) ∧
    (prof 1 1).op = 0x10 ∧ (pool 1 4).op = 0x12 ∧ (quota 1).op = 0x11 ∧
    parseProf (prof (2 ^ 21) 1).words = none ∧ (parseProf (prof 1 1).words).isSome = true ∧ s.profOk 0 (r (prof 1 1)) = true ∧ s.profOk 0 (r (prof 1 0)) = false ∧
    (r (prof 0 1)).en = false ∧ s.profsOf 0 < (s.quota 0).maxProf ∧ (s.quota 1).maxProf ≤ s.profsOf 1 ∧ (s.prof 0).owned = true ∧ (s.prof 1).owned = false ∧
    parsePool (pool 2 4).words = none ∧ s.poolOk 0 0 (q (pool 1 4)) = true ∧ s.poolOk 0 0 (q (pool 1 0)) = false ∧ (q (pool 0 4)).en = false ∧
    s.poolsOf 0 < (s.quota 0).maxPool ∧ s.slotsBut 1 + 2 ≤ 1048576 ∧ (s.pool 0).drain = none ∧ (s.pool 1).owned = false ∧
    0 + 100 ≤ s.popLines ∧ ¬ (0 + 2 ^ 31 ≤ s.popLines) ∧ (quota 100).body 16 2 = 1 := by decide +kernel

/-- `LeasesEnd`: a release and a drain whose leases have run out, with and without open events and used slots; the other leases. -/
theorem witness_LeasesEnd :
    let c := car 0x10 1 [] []
    let s := { evented 2 with
      eau := {
        profs := [(0, { owned := true, release := some (c, .refCycles 1) })]
        pools := [(0, { owned := true, drain := some (c, {}, .refCycles 1) }), (1, { owned := true, used := 1, drain := some (c, { en := true }, .refCycles 1) })] }
      dmc := { lease := some ⟨516, [], 0, false, .refCycles 1, false⟩ }
      rng := { hosted.rng with fns := [(0, { rings0 with lease := some ⟨0, {}, .refCycles 1⟩ })] }
      ports := [(0, { frozen := true, frzLease := some (.refCycles 1) })] }
    let busy := { s with eau := { s.eau with table := [(key0, some (entry0 4))] } }
    let open_ := fun (s : State) => s.eau.table.any (fun e => match e.2 with | some e => decide (e.profile = 0) && decide (e.st ≠ AsmState.spent) | none => false)
    (s.prof 0).release = some (c, .refCycles 1) ∧ open_ s = false ∧ open_ busy = true ∧ (s.pool 0).used = 0 ∧ (s.pool 1).used ≠ 0 ∧
    (s.pool 0).drain.isSome = true ∧ (s.pool 1).drain.isSome = true ∧ s.leaseOver (.refCycles 1) = true ∧ RegOpen s .service 0x14028 ∧
    (s.dmc.lease.map MaintLease.committed) = some false ∧ (s.port 0).frzLease = some (.refCycles 1) ∧ (s.rings 0).lease.isSome = true ∧
    BreakFree s ∧ ({ s with pmu := { s.pmu with job := some ⟨c, 2, 0, true, []⟩ } } : State).pmu.job ≠ none :=
  ⟨rfl, by decide, by decide, by decide, by decide, by decide, by decide, by decide, ⟨by decide, by decide⟩, by decide, by decide, by decide,
    ⟨rfl, rfl, rfl⟩, by decide⟩

/-- `EventsEnd`: an entry whose deadline is due, ended or spent; an evicted event alone; a victim key whose deadline is due. -/
theorem witness_EventsEnd :
    let s := fun (e : Entry) => { evented 2 with eau := { (evented 2).eau with table := [(key0, some e)] } }
    let r : EndRec := ⟨.complete, 0, 5⟩
    let ended := s { entry0 3 with st := .closing, ended := some r }
    let v : Victim := ⟨0, 5, true, ⟨⟨2, 3⟩, 0⟩⟩
    let e := { evented 2 with eau := { (evented 2).eau with evict := [(0, some (event0, 5))], victims := [(0, [v])] } }
    (s (entry0 3)).glb.rEau = true ∧
    (s (entry0 3)).bankEntries 0 = [(key0, entry0 3)] ∧ (entry0 3).st = .assembling ∧ (entry0 3).ended = none ∧ (s (entry0 3)).isDue (entry0 3).adl = true ∧
    (ended.endedOf 0).map Prod.fst = [5] ∧ ended.closeRoom = true ∧ e.endedOf 0 = [(5, none)] ∧ tget none e.eau.evict 0 = some (event0, 5) ∧
    (((s { entry0 3 with st := .spent }).bankEntries 0).find? (fun x => decide (x.2.st = .spent) && (s (entry0 3)).isDue x.2.adl)).isSome = true ∧
    (e.victimsOf 0).find? (fun v => e.isDue v.adl) = some v := by decide +kernel

/-- `EventsAreDispatched`: a close queue with an event, a DDU that is ready, one that is not; an event that is shed; a decision record that is due. -/
theorem witness_Dispatch :
    let s := { timed with
      lk := { timed.lk with ddu := [(3, { grace := 0 })] }
      eau := { closeQ := [event0] }
      ddu := { descs := [⟨event0, 0⟩] }
      dol := { recs := [⟨1, ⟨0, 0⟩, ⟨⟨2, 3⟩, 0⟩, 1, 1, 1, 5, 0, none⟩] } }
    s.eau.closeQ = [event0] ∧ s.glb.rDdu = true ∧ ({ s.glb with rDdu := false } : Glb).rDdu = false ∧ s.ddu.descs.length < 65536 ∧
    s.shedNext 3 = some ⟨event0, 0⟩ ∧
    (s.dolNext 1).isSome = true ∧ s.glb.rLanes.testBit 1 = false ∧ ({ s.glb with rLanes := 2 } : Glb).rLanes.testBit 1 = true ∧ 65 < 66 ∧
    (s.select (classCap 3)).isSome = true ∧ tget 0 s.ddu.credit 3 + min (s.dduCtl 3).share 256 < 256 ∧ (16383 < 2 ^ 14 ∧ 63 < 64 ∧ 127 < 128) := by decide +kernel

/-- `timed` with a carriage at the head of the service core's queue. -/
def served (c : Carriage) : State := { timed with rng := { timed.rng with svcQ := [c] } }

/-- The service core takes it. -/
theorem serves (c : Carriage) : Serves (served c) c c.op := ⟨rfl, rfl, rfl, rfl⟩

/-- `ServiceCarriages`: the service core takes each of these; a tenant with no key unwraps nothing; cores that wait ON_HOST, with and without a
stamp that is due; tenants dead and alive, of which none has an edit lease. -/
theorem witness_Service :
    let roll := car 0x23 1 [0, 0, 1] (zeros 40)
    let rel := fun (b : Octet) => car 0x25 1 (List.replicate 15 0 ++ [b]) []
    let kill := fun (r : Octet) => car 0x24 1 [1, 0, r] []
    let s := { timed with cores := [(0, {})] }
    let armed := { timed with cores := [(0, { relArmed := true, relDue := some ⟨⟨2, 3⟩, 8⟩ })] }
    let named := { timed with cores := [(0, { relArmed := true })], lk := { timed.lk with release := [(0, { cond := 2, arg := word 4 })] } }
    [(car 0x13 1 [5, 0] []).op, roll.op, (rel 1).op, (kill 0).op] = [0x13, 0x23, 0x25, 0x24] ∧
    ((timed.keyRec 0).key.bind (fun x => kwUnwrap x roll.data)) = none ∧
    (roll.body 18 1 = 1 ∧ roll.body 16 2 = 0) ∧ (kill 0).body 18 1 = 0 ∧ (kill 1).body 18 1 = 1 ∧ (kill 0).body 16 2 ≠ (kill 0).tenant ∧ calm timed = true ∧
    (timed.eau.profs = [] ∧ timed.eau.pools = []) ∧
    s.canRelease 0 = true ∧ s.condOf 0 = 3 ∧ s.cluPresent 0 = true ∧ s.cluReady 0 = true ∧ tget false s.ras.coreOff 0 = false ∧ (s.core 0).released = false ∧
    ((armed.core 0).relArmed = true ∧ armed.isDue ⟨⟨2, 3⟩, 8⟩ = true) ∧
    ((named.core 0).relDue = none ∧ named.condOf 0 = 2 ∧ named.namedReady (tget ({} : Release) named.lk.release 0).arg.toNat = true) ∧
    (rel 255).body 16 16 < 2 ^ (8 * Config.clusters s.hw.variant) ∧ s.dead 1 = false ∧
    ({ s with bsu := { s.bsu with dead := [(1, true)] } } : State).dead 1 = true := by decide +kernel

/-- A customer image of one microword (WAITC with END) and no valid decode word. -/
def custImage : List Octet :=
  let body := zeros 512 ++ octetsLe 16 (4 * 2 ^ 115 + 2 ^ 87)
  octetsLe 4 0x31585258 ++ [1, 0, 2, 0, 1, 0, 1, 0, 64, 0, 0, 0] ++ octetsLe 4 624 ++ zeros 28 ++ sha384 body ++ body

/-- A patch image of version 1 and one microword. Its key was chosen so that both factors of its signature are 1. -/
def patchImage : List Octet :=
  let body := octetsLe 16 (4 * 2 ^ 115 + 2 ^ 87)
  octetsLe 4 0x31585258 ++ [1, 0, 1, 0, 1, 0, 1, 0, 0, 0, 0, 0] ++ octetsLe 4 496 ++ zeros 28 ++ sha384 body ++ body ++
  be48 0x6f62e817677c5d94e45667ab0ec9038da77530f4676a213c499a14a4e5affe06837684c33fd9fb20c1651622a994eb46 ++
  be48 0x309b72118856ba6ca2b944cef7184f3cb719b8a0ff7541e396fe85e807b7d4513cbdfbf43123d2db5c60589b3a3b44b6 ++
  be48 0xccbe8547d9d4ec4ba89344fe7fe9225871435090d618bb94501746b5581475f57c1551e6571232d2890a05839b3c752 ++
  be48 0xccbe8547d9d4ec4ba89344fe7fe9225871435090d618bb94501746b5581475f57c1551e6571232d2890a05839b3c752 ++ zeros 192

/-- `timed` with the key of `patchImage` in its fuses. -/
def keyed : State := { timed with bsu := { timed.bsu with fuses := { vendor :=
  [some (be48 0x25d50e12f072c8e696358e86c8af611d5f4436a4f469de13672e0995c2d7b83b13c0846c1c988938ab99cd2ebbe47710), none, none, none] } } }

/-- `MicrocodeLoads`: images that pass, and octets of the same length that do not; the flip of a core whose half is idle, and busy. -/
theorem witness_Microcode :
    let c := car 0x22 1 (zeros 16 ++ octetsLe 4 624) (custImage.take 96)
    let e := car 0x21 1 (zeros 16 ++ octetsLe 4 496) (patchImage.take 96)
    let d := custImage.take 623 ++ [1]
    let f := patchImage.take 495 ++ [1]
    let j : LoadJob := ⟨c, false, 1, [], [], [0, 1], []⟩
    let s := { timed with bsu := { timed.bsu with job := some j } }
    let b := { s with ctxs := [(0, { demoCtx with routine := some ⟨cust5, 4, 1, 0, 0, [], none, 0, false⟩ })] }
    let dark := { keyed with glb := { keyed.glb with rClu := 0 } }
    c.op = 0x22 ∧ custImage.length = c.body 32 4 ∧ custImage.take 96 = c.data ∧ timed.loadCores ≠ [] ∧
    (match timed.checkImage false custImage with | .ok _ => true | _ => false) = true ∧
    d.length = c.body 32 4 ∧ d.take 96 = c.data ∧ (match timed.checkImage false d with | .error st => st == 2 | _ => false) = true ∧
    e.op = 0x21 ∧ patchImage.length = e.body 32 4 ∧ patchImage.take 96 = e.data ∧ keyed.loadCores ≠ [] ∧ dark.loadCores = [] ∧
    (match keyed.checkImage true patchImage with | .ok _ => true | _ => false) = true ∧
    (match dark.checkImage true patchImage with | .ok _ => true | _ => false) = true ∧
    f.length = e.body 32 4 ∧ f.take 96 = e.data ∧ (match timed.checkImage true f with | .error st => st == 3 | _ => false) = true ∧
    (∀ i, i ∈ j.left ↔ i = 0 ∨ i = 1) ∧ s.halfBusy 0 false = false ∧ b.halfBusy 0 false = true := by
  refine ⟨by decide +kernel, by decide +kernel, by decide +kernel, by decide +kernel, by decide +kernel, by decide +kernel, by decide +kernel, by decide +kernel,
    by decide +kernel, by decide +kernel, by decide +kernel, by decide +kernel, by decide +kernel, by decide +kernel, by decide +kernel, by decide +kernel,
    by decide +kernel, by decide +kernel, fun i => by simp, by decide +kernel, by decide +kernel⟩

/-- A POWER carriage: STATE, QUIET and the mask of clusters. -/
def power (st q m : Nat) : Carriage := car 0x20 1 ([BitVec.ofNat 8 st, BitVec.ofNat 8 q] ++ octetsLe 2 m) []

/-- `PowerCarriages`, `PeatAndAsh`: clusters in RUN, EMBER and OFF; an open quiet window and none; too many banks to keep; a wake that is enabled. -/
theorem witness_Power :
    let s := fun (p : Option CluPower) => { timed with pmu := { timed.pmu with clus := [(0, p)] } }
    let quiet := { timed with tbu := { timed.tbu with quiet := some ⟨none⟩ } }
    let full := { timed with pmu := { timed.pmu with retainA := 2 ^ 16 - 1, retainS := 31 } }
    let held := { timed with pmu := { timed.pmu with hold := [(0, some .run)] } }
    let job := fun (c : Carriage) => (⟨c, c.body 16 1, c.body 18 2, true, []⟩ : PowerJob)
    (power 0 0 1).op = 0x20 ∧ timed.bsu.job = none ∧ 0 < Config.clusters timed.hw.variant ∧ (1).testBit 0 = true ∧ (power 0 0 1).body 18 2 = 1 ∧
    (s (some .ember)).cluPower 0 = some .ember ∧ (s (some .off)).cluPower 0 = some .off ∧ (s (some .run)).cluPower 0 = some .run ∧
    timed.mayStart (job (power 1 0 1)) = true ∧ timed.mayStart (job (power 1 1 1)) = false ∧ quiet.mayStart (job (power 2 1 0)) = true ∧
    timed.runBarred 1 = false ∧ held.runBarred 1 = true ∧ timed.retained ≤ 20 ∧ 20 < full.retained ∧ (power 0 1 1).body 17 1 = 1 ∧
    (power 2 0 0).body 16 1 = 2 ∧ (power 3 0 0).body 16 1 = 3 ∧ timed.upPorts = [] ∧ hosted.upPorts = [0] ∧ timed.pmu.wakeHeld = none ∧ timed.pmu.wakeLevel = 0 ∧
    (hosted.port 0).merged = false ∧ timed.wakes .perst = true ∧ timed.wakes .stamp = false ∧ timed.svcIdle = true ∧ calm (s (some .run)) = true := by decide +kernel

/-- `PowerCarriages`, `PeatAndAsh`: jobs that wait for their window, or for the link of port 0; the device asleep. -/
theorem witness_Asleep :
    let job := fun (c : Carriage) => (⟨c, c.body 16 1, c.body 18 2, true, []⟩ : PowerJob)
    let s := fun (j : PowerJob) => { hosted with pmu := { hosted.pmu with job := some j } }
    let off := fun (d : DevPower) => { timed with pmu := { timed.pmu with dev := d } }
    let w := job (power 1 1 1)
    let go := fun (st : Nat) => { job (power st 0 0) with waiting := false, l2 := [0] }
    (∀ st ∈ [0, 1], (power st 0 1).body 16 1 = st ∧ (power st 0 1).body 18 2 = 1 ∧ (s (job (power st 0 1))).mayStart (job (power st 0 1)) = true) ∧
    (s (job (power 0 0 1))).runBarred 1 = false ∧ calm (s (job (power 1 0 1))) = true ∧ timed.bsu.job = none ∧
    (∀ st ∈ [2, 3], (power st 0 0).body 16 1 = st ∧ (s (job (power st 0 0))).mayStart (job (power st 0 0)) = true ∧ (s (go st)).pmu.job = some (go st)) ∧
    (w.waiting = true ∧ w.c.body 17 1 = 1) ∧ (hosted.port 0).linkUp = true ∧ hosted.pmu.job = none ∧ hosted.pmu.wakeHeld = none ∧
    ((off .peat).wakes .perst = true ∧ (off .ash).wakes .perst = true) ∧ ((s (job (power 2 0 0))).pmu.dev = .run ∧ 2 ≤ (job (power 2 0 0)).state) := by
  decide +kernel

/-- `LinksAndFunctionReset`: a port that can train, alone and merged; a link that is up, in L0 and in L2; functions of two ports. -/
theorem witness_LinkUp :
    let s := fun (p : Port) => { hosted with ports := [(0, p)] }
    let up : Port := { enabled := true, phyOk := true, linkUp := true, perst := false }
    let two : Port := { up with linkUp := false, merged := true }
    let v := { hosted with fns := [(0, { memEn := true, vfEn := true, numVfs := 1 })] }
    (s { up with linkUp := false }).canTrain 0 = true ∧ (s up).linkPorts 0 = [0] ∧
    (({ hosted with ports := [(0, two), (1, two)] } : State).canTrain 0 = true ∧ two.merged = true) ∧
    (s up).portPresent 0 = true ∧ ((s up).port 0).lpower ≠ .l2 ∧ ((s { up with lpower := .l2 }).port 0).lpower = .l2 ∧
    ((s { up with linkUp := false }).port 0).linkUp = false ∧ v.fnExists 0 = true ∧ v.fnExists 1 = true ∧ 1 % 1024 ≠ 0 := by decide +kernel

/-- `PortsStopAndResume`: a function whose message is pending; one whose ring holds a record, without Bus Master Enable and in D3hot; a port
that is frozen, idle, in L1; PTM enabled, disabled and under way. -/
theorem witness_Ports :
    let s := fun (p : Port) => { hosted with ports := [(0, p)] }
    let up : Port := { enabled := true, phyOk := true, linkUp := true, perst := false }
    let f : Fn := { memEn := true, bme := true, msixEn := true, aspm := true, ptmEn := true, msix := [(3, { mask := false, pend := true })] }
    let w := fun (f : Fn) => { hosted with fns := [(0, f)], rng := { hosted.rng with fns := [(0, { rings0 with order := [(0, [⟨1, 0, some (some (zeros 16, false))⟩])] })] } }
    let v := { s up with fns := [(0, f)], rng := { intake := true } }
    let q := { s { up with reads := [⟨3, 0, 0, true, false⟩, ⟨4, 0, 0, false, false⟩], quar := [4] } with fns := [(0, f)] }
    let ptm := fun (a b : Bool) => { v with ports := [(0, { up with ptmPeriod := 5, ptmValid := a, ptmBusy := b })] }
    let ice := s { up with frozen := true, hold := [(0, 0, zeros 16, false)], frzLease := some (.refCycles 1) }
    ((w { bme := false }).fnExists 0 = true ∧ ((w { bme := false }).fn 0).d3 = false ∧ ((w { d3 := true, bme := true }).fn 0).bme = true ∧
      ((w {}).rings 0).slots 0 = [⟨1, 0, some (some (zeros 16, false))⟩] ∧ (zeros 16).length = 16 ∧ ((w {}).port 0).frozen = false) ∧
    (v.fnExists 0 = true ∧ ((v.fn 0).vec 3).pend = true ∧ (v.fn 0).msixEn = true ∧ (v.fn 0).fmask = false ∧ ((v.fn 0).vec 3).mask = false ∧ (v.fn 0).bme = true ∧
      (v.fn 0).d3 = false) ∧
    (q.portPresent 0 = true ∧ q.pmu.dev = .run ∧ (q.port 0).merged = false ∧ (q.port 0).frozen = false ∧ (q.port 0).quar = [4] ∧ 6 ≤ 6) ∧
    ((ice.port 0).frozen = true ∧ (ice.port 0).linkUp = true ∧ (ice.port 0).hold = [(0, 0, zeros 16, false)] ∧ ice.fnSends 0 = true ∧ ice.linkPorts 0 = [0] ∧
      (ice.port 0).frzLease = some (.refCycles 1) ∧ ice.leaseOver (.refCycles 1) = true) ∧
    ((v.port 0).linkUp = true ∧ (v.port 0).lpower = .l0 ∧ (v.fn (v.linkFn0 0)).aspm = true ∧ v.portIdle 0 = true) ∧ ((s { up with lpower := .l1 }).port 0).lpower = .l1 ∧
    (((ptm true false).port 0).ptmPeriod ≠ 0 ∧ ((ptm true false).port 0).ptmValid = true ∧ ((ptm false true).port 0).ptmBusy = true ∧
      ((ptm false false).port 0).ptmValid = false ∧ ((ptm false false).port 0).ptmBusy = false ∧ ((ptm false false).fn ((ptm false false).linkFn0 0)).ptmEn = true ∧
      (hosted.fn (hosted.linkFn0 0)).ptmEn = false) := by decide +kernel

/-- Channel 0 alone, and a machine that has it. -/
def chan0 : Chan := { active := true, nch := 1, ranks := 1, st := .running, rate := 1 }
def dramOf (x : Chan) : State := { timed with dmc := { chans := [(0, x)] } }

/-- `DramCommands`: channel 0 runs, with writes for bank 3 and without, with neighbours, with a pause that is due; lines beneath a scratch bank,
poisoned at home, and neither. -/
theorem witness_Dram :
    let s := dramOf
    let x := chan0
    let q := s { x with wq := [384], postponed := [(3, 8)] }
    let f := fun (m : Mem) => { s x with mem := m }
    let bank := f { timed.mem with scBank := [(0, { en := true, live := true, range := 0 })] }
    let bad := f (timed.mem.poisonLine 3)
    (s x).chanRuns 0 = true ∧ ((s x).chan 0).wq = [] ∧ (q.chan 0).wq.any (fun l => decide ((q.place l).bank = 3)) = true ∧ 8 ≤ tget 0 (q.chan 0).postponed 3 ∧
    tget [] ((s { x with neigh := [(0, [5])] }).chan 0).neigh 0 = [5] ∧ tget [] ((s x).chan 0).neigh 0 = [] ∧ ((s x).dmcLk 0).rhEn = false ∧
    (q.chanRuns 0 = true ∧ q.pending = [] ∧ ((s { x with wq := [384], aged := true }).chan 0).aged = true) ∧
    ((s { x with pauseDue := true }).chan 0).pauseDue = true ∧ (s x).dmc.busy = false ∧ (({ s x with lk := { timed.lk with dmc := [(0, { quiet := false })] } } : State).dmcLk 0).quiet = false ∧ ((s x).dmcLk 0).scrubEn = true ∧
    (bank.mem.inScratch 0 = true ∧ (s x).mem.inScratch 0 = false ∧ (s x).mem.dramUp 0 = none ∧ ((s x).mem.home 0).bad = false) ∧
    (((s { x with scrubPos := 3 }).chan 0).scrubPos = 3 ∧ bad.mem.inScratch 3 = false ∧ bad.mem.dramUp 3 = none ∧ (bad.mem.home 3).bad = true) ∧
    (((s { x with wback := [3] }).chan 0).wback = [3] ∧ (s x).chanOf 3 = 0 ∧ (s x).mem.notes = []) ∧ (List.replicate 12 (⟨1, true⟩ : MWord)).length = 12 := by
  decide +kernel

/-- `FrequencyChangeAndItsLease`: a lease of the service core, before and after COMMIT, that has run out; one channel that runs at each timing set. -/
theorem witness_Frequency :
    let l : MaintLease := ⟨516, [(0, [], [])], 0, false, .refCycles 1, false⟩
    let o : MaintLease := { l with owner := 4 }
    let m := fun (l : MaintLease) => { dramOf chan0 with dmc := { chans := [(0, chan0)], lease := some l, busy := l.committed } }
    let x := dramOf chan0
    RegOpen (m l) .service 0x10008 ∧ x.dmc.lease = none ∧ (l.owner = reqCode .service ∧ o.owner ≠ reqCode .service ∧ l.committed = false ∧ l.saved = [(0, [], [])]) ∧
    (m l).leaseOver l.until_ = true ∧ ((m { l with committed := true }).dmc.busy = true ∧ (m l).dmc.quiet = false) ∧
    (0 ∈ x.activeChans ∧ (x.chan 0).st = .running) ∧ x.dmc.target ≤ 4 :=
  ⟨⟨by decide +kernel, by decide +kernel, by decide +kernel, by decide⟩, by decide, by decide, by decide, by decide, ⟨by decide +kernel, by decide⟩, by decide⟩

/-- `ThermalCrossingsAndScratchBanks`: below, at and above the alert and the trip; a held cluster; a bank that is busy, enabling and disabling. -/
theorem witness_Thermal :
    let b := fun (k : ScBank) => ({ timed with mem := { timed.mem with scBank := [(3, k)] } } : State)
    let held := { timed with pmu := { timed.pmu with hold := [(0, some .run)], tripHold := true } }
    timed.pmu.dev = .run ∧ timed.pmu.alert = false ∧ timed.pmu.tripHold = false ∧ timed.lk.talert = 100 ∧ timed.cluPower 0 = some .run ∧ 44 < 45 ∧
    (0, some CluPower.run) ∈ held.pmu.hold ∧ held.pmu.tripHold = true ∧ calm timed = true ∧
    (tget {} timed.mem.scBank 3).busy = false ∧ (tget {} (b { busy := true, en := true, base := 1 }).mem.scBank 3).busy = true ∧
    NoErrors (b { busy := true, en := true, base := 1 }) ∧ NoErrors (b { busy := true, live := true, range := 1 }) :=
  ⟨by decide, by decide, by decide, by decide, by decide, by decide, by decide, by decide, by decide +kernel, by decide, by decide,
    noErrors_of (by decide +kernel) rfl rfl rfl rfl rfl, noErrors_of (by decide +kernel) rfl rfl rfl rfl rfl⟩

/-- `ErrorRecords`: the error ring with room, full, disabled, and beyond DRAM; a record of class 10 that waits. -/
theorem witness_ErrorRing :
    let s := fun (r : Ras) => { timed with ras := r }
    let full := s { en := true, prod := 16, cons := 0 }
    let far := { s { en := true } with lk := { timed.lk with rasLine := 2 ^ 36 - 1 } }
    let w := next (exec .thermalHoldEnd (next (exec (.thermalAlert 104) (s { en := true }))))
    tget none (s { en := true }).ras.wait 10 = none ∧ (15 + 2 ^ 36 - 0) % 2 ^ 36 < 2 ^ timed.lk.rasSize ∧ timed.lk.rasLine + 15 % 2 ^ timed.lk.rasSize < timed.popLines ∧
    NoErrors (s { en := true, prod := 15, cons := 0 }) ∧ (s {}).ras.en = false ∧
    (far.popLines ≤ far.lk.rasLine + far.ras.prod % 2 ^ far.lk.rasSize ∧ (far.ras.prod + 2 ^ 36 - far.ras.cons) % 2 ^ 36 < 2 ^ far.lk.rasSize) ∧
    ¬ (full.ras.prod + 2 ^ 36 - full.ras.cons) % 2 ^ 36 < 2 ^ full.lk.rasSize ∧ (full.ras.lostRec = false ∧ ({ full.ras with lostRec := true } : Ras).lostRec = true) ∧
    (w.pmu.alert = false ∧ w.pmu.dev = .run ∧
      (match tget none w.ras.wait 10 with
        | some r => decide (r.cls = 10 ∧ r.sev = 0 ∧ r.unit = 42 ∧ r.addr = none) && w.rasWaits r
        | none => false) = true) :=
  ⟨by decide, by decide, by decide, noErrors_of (by decide +kernel) rfl rfl rfl rfl rfl, by decide, by decide +kernel, by decide, by decide, by decide +kernel⟩

/-- `ErrorRecords`: a descriptor, a decision record, an interrupt entry, and the entry, profile and pool of a cart that is refused. -/
theorem witness_TableErrors :
    let d := { evented 1 with eau := { (evented 1).eau with closeQ := [event0] } }
    let l := { timed with dol := { recs := [⟨1, ⟨0, 0⟩, ⟨⟨2, 3⟩, 0⟩, 1, 1, 1, 5, 0, none⟩] } }
    let i := { timed with icu := { timed.icu with tset := [(0, 1)], srcs := [(5120, { count := 15, pri := 3 })] } }
    let e := evented 2
    let s := staged { e with eau := { e.eau with profs := [(0, { e.prof 0 with susp := true })], table := [(key0, some (entry0 4))] } } (cart 0 0)
    d.eau.closeQ = [event0] ∧ d.glb.rDdu = true ∧ d.ddu.descs.length < 65536 ∧ (l.dolNext 1).isSome = true ∧
    (i.icu.gated = false ∧ i.glb.rIcu = true ∧ i.icuChoose = some 5120 ∧ i.srcExists 5120 = true) ∧
    (s.ras.tbl = [] ∧ s.stagedPort 0 = some 0 ∧ (s.stagingQ 0 0).head? = some (cart 0 0) ∧ s.feedCheck (cart 0 0) (s.prof 0) = some 3 ∧ (s.prof 0).owned = true ∧
      (s.pool (s.prof 0).rec_.pool).owned = true ∧ s.findEntry 0 0 (word ((cart 0 0).body 24 8)) = some (key0, entry0 4) ∧ (entry0 4).st ≠ .spent) ∧
    ({} : Ras).wait = [] := by decide +kernel

/-- What a kindling meets that finds nothing wrong, one channel of one rank, and the given boot flash. -/
def kindle (f : Option (List Octet × List Octet)) : Kindle := {
  bootMode := 0, recovery := false, selfTest := .pass, fusesOk := true, flashOk := true, badAreas := [], bootFlash := f
  channelBad := [1, 2, 3, 4, 5, 6, 7, 8, 9, 10, 11, 12, 13, 14, 15], clusterBad := [], phyBad := [], ranks := 1, density := 0
  avsAck := true, seed := 1 }

/-- `ResetAndKindling`: the device in reset, running, in PEAT; a vendor key that is programmed and one that is not; ranks of empty slots; a carriage for the
recovery; a load in progress. -/
theorem witness_Kindling :
    let r := { timed with bsu := { timed.bsu with recovery := true, bootSlots := some ([], []) }, rng := { timed.rng with svcQ := [car 0x21 0 [] []] } }
    fused.pmu.dev = .reset ∧ fused.pmu.causeFrom < 2 ∧ (kindle none).bootMode % 4 ≠ 3 ∧ 3 % 4 = 3 ∧
    (∃ i ∈ [0, 1, 2, 3], (fused.bsu.fuses.vendor.getD i none).isSome = true ∧ fused.bsu.fuses.revoked.testBit i = false) ∧
    (∀ i ∈ [0, 1, 2, 3], (State.reset.bsu.fuses.vendor.getD i none).isSome = false) ∧ (fused.verdict []).1 = 1 ∧
    r.bsu.recovery = true ∧ r.pmu.dev = .run ∧ (r.rng.svcQ.head?.map Carriage.op) = some 0x21 ∧ (r.verdict []).1 ≤ 2 ∧
    timed.pmu.dev = .run ∧ timed.bsu.bootMode ≠ 3 ∧ timed.bsu.recovery = false ∧ timed.pmu.job = none ∧ twf {} timed.ports = true ∧
    (fused.verdict []).1 < 7 ∧ (kindle none).selfTest = .pass ∧ (kindle none).fusesOk = true ∧ (kindle none).flashOk = true ∧ (kindle none).badAreas = [] := by
  decide +kernel

/-- `ResetAndKindling`: recovery images with verdicts 7, 6, 3 and 1, each with the octets that its carriage names; a load that the watchdog
ends. -/
theorem witness_Recovery :
    let c := fun (d : List Octet) => car 0x21 1 (zeros 16 ++ octetsLe 4 d.length) (d.take 96)
    let r := { timed with bsu := { fused.bsu with recovery := true, bootSlots := some ([], []) } }
    let old := { r with bsu := { r.bsu with flash := { r.bsu.flash with minver := 1000 } } }
    let wrong := goodImage.set 230 0x55
    let j : LoadJob := ⟨c patchImage, true, 1, [], [], [0], [(0, ({}, {}))]⟩
    (∀ d ∈ [goodImage, wrong, zeros 200], d.length = (c d).body 32 4 ∧ d.length ≤ 1048576 ∧ d.take 96 = (c d).data) ∧
    (r.verdict goodImage).1 = 7 ∧ (r.verdict goodImage).2.isSome = true ∧ (old.verdict goodImage).1 = 6 ∧ (r.verdict wrong).1 = 3 ∧ (r.verdict (zeros 200)).1 = 1 ∧
    (zeros 200).length ≠ (c goodImage).body 32 4 ∧
    (({ timed with bsu := { timed.bsu with job := some j } } : State).bsu.job = some j ∧ j.before = [(0, ({}, {}))] ∧ timed.cluReady 0 = true) := by
  refine ⟨by decide +kernel, by decide +kernel, by decide +kernel, by decide +kernel, by decide +kernel, by decide +kernel, by decide +kernel, rfl, rfl, by decide +kernel⟩

/-- `KindlingReachesRun`: the image of `goodImage` in slot A alone. -/
theorem witness_KindlingReachesRun :
    (∃ b, fused.verdict goodImage = (7, some b) ∧ b.section_ 3 = none ∧ ∀ x ∈ b.secs, x.kind ≠ 2) ∧ (fused.verdict []).1 ≠ 7 ∧
    fused.bsu.flash.owner = none ∧ fused.cluPresent 0 = true ∧ (0 < Config.channels fused.hw.variant ∧ 0 ∉ (kindle none).channelBad) ∧ 1 ≤ (kindle none).ranks ∧
    ((kindle none).avsAck = true ∧ 0 ∉ (kindle none).clusterBad ∧ 0 ∉ (kindle none).phyBad) := by
  refine ⟨?_, by decide +kernel⟩
  have h : (fused.verdict goodImage).1 = 7 ∧ (match (fused.verdict goodImage).2 with
      | some b => (b.section_ 3).isNone && b.secs.all (fun x => decide (x.kind ≠ 2)) | none => false) = true := by decide +kernel
  obtain ⟨h1, h2⟩ := h
  generalize fused.verdict goodImage = v at h1 h2 ⊢
  obtain ⟨r, b⟩ := v
  cases b with
  | none => cases h2
  | some b =>
    simp only [Bool.and_eq_true, Option.isNone_iff_eq_none, List.all_eq_true, decide_eq_true_eq] at h1 h2
    exact ⟨b, by rw [h1], h2⟩

/-- `StepsKeepTheFusesSealed`: power-on reset is sealed, and steps. -/
theorem witness_Sealed : Sealed {} {} 0 State.reset ∧ step State.reset = .next State.reset :=
  ⟨⟨rfl, rfl, rfl, rfl, Nat.le_refl _, fun _ h => h⟩, rfl⟩

end Sys2Proof.Tests
end

section
/-!
PROOFS. What every command and every step keeps: the laws of the single commands put together over the opcode table.
-/

namespace Sys2Proof.Machine

open Sys2Proof Sys2Proof.Safety

/-! ### Every command -/

/-- The outcome is a next state that keeps what no command undoes. -/
def KeepsNext (s : State) (o : Res) : Prop := ∃ t, o = .next t ∧ Keeps s t

theorem KeepsNext.of_rom {s : State} {o : Res} (h : ∃ t, o = .next t ∧ t.rom = s.rom) : KeepsNext s o := by
  obtain ⟨t, e, hr⟩ := h
  exact ⟨t, e, Keeps.of_rom hr⟩

/-- Kindling alone (`pwrOkRise`, `deviceFatalError`, `watchdogExpiry`) writes fuses or the minimum version; every other command leaves
them as they are. -/
theorem exec_keepsNext (i : Instr) (s : State) : KeepsNext s (exec i s) :=
  match i with
  | .add h o => .of_rom (execAdd_rom h o s)
  | .sub h o => .of_rom (execSub_rom h o s)
  | .and h o => .of_rom (execAnd_rom h o s)
  | .or h o => .of_rom (execOr_rom h o s)
  | .xor h o => .of_rom (execXor_rom h o s)
  | .shl h o => .of_rom (execShl_rom h o s)
  | .shr h o => .of_rom (execShr_rom h o s)
  | .sar h o => .of_rom (execSar_rom h o s)
  | .rol h o => .of_rom (execRol_rom h o s)
  | .ror h o => .of_rom (execRor_rom h o s)
  | .mul h o => .of_rom (execMul_rom h o s)
  | .mulh h o => .of_rom (execMulh_rom h o s)
  | .div h o => .of_rom (execDiv_rom h o s)
  | .rem h o => .of_rom (execRem_rom h o s)
  | .fadd h o => .of_rom (execFadd_rom h o s)
  | .fsub h o => .of_rom (execFsub_rom h o s)
  | .fmul h o => .of_rom (execFmul_rom h o s)
  | .fdiv h o => .of_rom (execFdiv_rom h o s)
  | .fsqrt h o => .of_rom (execFsqrt_rom h o s)
  | .fcmp h o => .of_rom (execFcmp_rom h o s)
  | .mov h o => .of_rom (execMov_rom h o s)
  | .cmp h o => .of_rom (execCmp_rom h o s)
  | .tst h o => .of_rom (execTst_rom h o s)
  | .popc h o => .of_rom (execPopc_rom h o s)
  | .clz h o => .of_rom (execClz_rom h o s)
  | .sel h a b c => .of_rom (execSel_rom h a b c s)
  | .fext h o => .of_rom (execFext_rom h o s)
  | .fextS h o => .of_rom (execFextS_rom h o s)
  | .fins h o => .of_rom (execFins_rom h o s)
  | .ldb h o => .of_rom (execLdb_rom h o s)
  | .ldh h o => .of_rom (execLdh_rom h o s)
  | .ldw h o => .of_rom (execLdw_rom h o s)
  | .ldd h o => .of_rom (execLdd_rom h o s)
  | .ldc h o => .of_rom (execLdc_rom h o s)
  | .stb h o => .of_rom (execStb_rom h o s)
  | .sth h o => .of_rom (execSth_rom h o s)
  | .stw h o => .of_rom (execStw_rom h o s)
  | .std h o => .of_rom (execStd_rom h o s)
  | .stc h o => .of_rom (execStc_rom h o s)
  | .atomicSwap h o => .of_rom (execAtomicSwap_rom h o s)
  | .atomicAdd h o => .of_rom (execAtomicAdd_rom h o s)
  | .atomicAnd h o => .of_rom (execAtomicAnd_rom h o s)
  | .atomicOr h o => .of_rom (execAtomicOr_rom h o s)
  | .atomicXor h o => .of_rom (execAtomicXor_rom h o s)
  | .atomicSmin h o => .of_rom (execAtomicSmin_rom h o s)
  | .atomicSmax h o => .of_rom (execAtomicSmax_rom h o s)
  | .cas h o => .of_rom (execCas_rom h o s)
  | .br h d => .of_rom (execBr_rom h d s)
  | .call h d => .of_rom (execCall_rom h d s)
  | .brR h a => .of_rom (execBrR_rom h a s)
  | .callR h a => .of_rom (execCallR_rom h a s)
  | .ret h => .of_rom (execRet_rom h s)
  | .cbound h a b c => .of_rom (execCbound_rom h a b c s)
  | .crestrict h a b c => .of_rom (execCrestrict_rom h a b c s)
  | .cseal h a b c => .of_rom (execCseal_rom h a b c s)
  | .cunseal h a b c => .of_rom (execCunseal_rom h a b c s)
  | .cget h a b selr => .of_rom (execCget_rom h a b selr s)
  | .csetc h a b c => .of_rom (execCsetc_rom h a b c s)
  | .cmove h a b => .of_rom (execCmove_rom h a b s)
  | .cgets h a selr => .of_rom (execCgets_rom h a selr s)
  | .csets h b selr => .of_rom (execCsets_rom h b selr s)
  | .cjump h a b c => .of_rom (execCjump_rom h a b c s)
  | .getsr h a n => .of_rom (execGetsr_rom h a n s)
  | .setsr h a n => .of_rom (execSetsr_rom h a n s)
  | .blkmove h o => .of_rom (execBlkmove_rom h o s)
  | .blkfill h o => .of_rom (execBlkfill_rom h o s)
  | .matchWords h o => .of_rom (execMatchWords_rom h o s)
  | .cleanA h a auth => .of_rom (execCleanA_rom h a auth s)
  | .invA h a auth => .of_rom (execInvA_rom h a auth s)
  | .cleanS h a => .of_rom (execCleanS_rom h a s)
  | .invpg h a => .of_rom (execInvpg_rom h a s)
  | .invwalk h => .of_rom (execInvwalk_rom h s)
  | .invblk h n => .of_rom (execInvblk_rom h n s)
  | .fenceM h => .of_rom (execFenceM_rom h s)
  | .fenceL h => .of_rom (execFenceL_rom h s)
  | .fenceI h => .of_rom (execFenceI_rom h s)
  | .fenceT h => .of_rom (execFenceT_rom h s)
  | .eret h => .of_rom (execEret_rom h s)
  | .wait h => .of_rom (execWait_rom h s)
  | .trap h n => .of_rom (execTrap_rom h n s)
  | .eoi h a => .of_rom (execEoi_rom h a s)
  | .sgi h a => .of_rom (execSgi_rom h a s)
  | .alarm h a => .of_rom (execAlarm_rom h a s)
  | .take h a b => .of_rom (execTake_rom h a b s)
  | .decide h a b c => .of_rom (execDecide_rom h a b c s)
  | .done h a => .of_rom (execDone_rom h a s)
  | .nop h => .of_rom (execNop_rom h s)
  | .customerInstruction h o => .of_rom (execCustomerInstruction_rom h o s)
  | .illegal ctx bytes => .of_rom (execIllegal_rom ctx bytes s)
  | .longOpComplete ctx idx => .of_rom (execLongOpComplete_rom ctx idx s)
  | .customerRoutineLimit ctx => .of_rom (execCustomerRoutineLimit_rom ctx s)
  | .mergeEntryIdle core idx => .of_rom (execMergeEntryIdle_rom core idx s)
  | .mergeEntryDrain core parityOk => .of_rom (execMergeEntryDrain_rom core parityOk s)
  | .asyncStoreError ctx => .of_rom (execAsyncStoreError_rom ctx s)
  | .predFlush r core => .of_rom (execPredFlush_rom r core s)
  | .predFlushDone core => .of_rom (execPredFlushDone_rom core s)
  | .restart r ctx => .of_rom (execRestart_rom r ctx s)
  | .glbLockSet r => .of_rom (execGlbLockSet_rom r s)
  | .registerWrite r a part v => .of_rom (execRegisterWrite_rom r a part v s)
  | .rcFieldRead r a part => .of_rom (execRcFieldRead_rom r a part s)
  | .tbuNowLoRead r part => .of_rom (execTbuNowLoRead_rom r part s)
  | .pmuResLowRead r n part => .of_rom (execPmuResLowRead_rom r n part s)
  | .beatFrame link f => .of_rom (execBeatFrame_rom link f s)
  | .commandFrame link b => .of_rom (execCommandFrame_rom link b s)
  | .idleFrame f => .of_rom (execIdleFrame_rom f s)
  | .blockLockLoss link => .of_rom (execBlockLockLoss_rom link s)
  | .linkFail link => .of_rom (execLinkFail_rom link s)
  | .acquireTimeout link => .of_rom (execAcquireTimeout_rom link s)
  | .quietStart => .of_rom (execQuietStart_rom s)
  | .quietEnd => .of_rom (execQuietEnd_rom s)
  | .quietWindowExpiry => .of_rom (execQuietWindowExpiry_rom s)
  | .throttleOn => .of_rom (execThrottleOn_rom s)
  | .throttleOff => .of_rom (execThrottleOff_rom s)
  | .turnReset => .of_rom (execTurnReset_rom s)
  | .resync => .of_rom (execResync_rom s)
  | .cal => .of_rom (execCal_rom s)
  | .alarmFire ctx => .of_rom (execAlarmFire_rom ctx s)
  | .deadlineDue ctx => .of_rom (execDeadlineDue_rom ctx s)
  | .sourceArrival src => .of_rom (execSourceArrival_rom src s)
  | .levelLineChange src asserted => .of_rom (execLevelLineChange_rom src asserted s)
  | .interruptDelivery => .of_rom (execInterruptDelivery_rom s)
  | .interruptAccept ctx progress => .of_rom (execInterruptAccept_rom ctx progress s)
  | .icuClockStop => .of_rom (execIcuClockStop_rom s)
  | .icuClockRestart src => .of_rom (execIcuClockRestart_rom src s)
  | .icuEditAcquire r src => .of_rom (execIcuEditAcquire_rom r src s)
  | .icuEditCommit r => .of_rom (execIcuEditCommit_rom r s)
  | .icuEditAbort r => .of_rom (execIcuEditAbort_rom r s)
  | .icuLeaseExpiry => .of_rom (execIcuLeaseExpiry_rom s)
  | .sqTailWrite tenant ring v => .of_rom (execSqTailWrite_rom tenant ring v s)
  | .cqHeadWrite tenant ring v => .of_rom (execCqHeadWrite_rom tenant ring v s)
  | .ringLeaseAcquire tenant ring => .of_rom (execRingLeaseAcquire_rom tenant ring s)
  | .ringLeaseCommit tenant => .of_rom (execRingLeaseCommit_rom tenant s)
  | .ringLeaseAbort tenant => .of_rom (execRingLeaseAbort_rom tenant s)
  | .ringLeaseExpiry tenant => .of_rom (execRingLeaseExpiry_rom tenant s)
  | .carriageFetch port => .of_rom (execCarriageFetch_rom port s)
  | .readCompletion port tag c => .of_rom (execReadCompletion_rom port tag c s)
  | .completionTimeout port tag => .of_rom (execCompletionTimeout_rom port tag s)
  | .apertureWrite tenant offset octets => .of_rom (execApertureWrite_rom tenant offset octets s)
  | .apertureTimeout tenant queue => .of_rom (execApertureTimeout_rom tenant queue s)
  | .keyEngineCheck => .of_rom (execKeyEngineCheck_rom s)
  | .unknownOpcode port => .of_rom (execUnknownOpcode_rom port s)
  | .fragment bank => .of_rom (execFragment_rom bank s)
  | .mailbox port => .of_rom (execMailbox_rom port s)
  | .task bank => .of_rom (execTask_rom bank s)
  | .profileSet => .of_rom (execProfileSet_rom s)
  | .poolSet => .of_rom (execPoolSet_rom s)
  | .quotaSet => .of_rom (execQuotaSet_rom s)
  | .profileReleaseComplete profile => .of_rom (execProfileReleaseComplete_rom profile s)
  | .poolDrainCommit pool => .of_rom (execPoolDrainCommit_rom pool s)
  | .profileLeaseExpiry profile => .of_rom (execProfileLeaseExpiry_rom profile s)
  | .poolLeaseExpiry pool => .of_rom (execPoolLeaseExpiry_rom pool s)
  | .assemblyDeadline bank => .of_rom (execAssemblyDeadline_rom bank s)
  | .spentEntryExpiry bank => .of_rom (execSpentEntryExpiry_rom bank s)
  | .victimKeyExpiry bank => .of_rom (execVictimKeyExpiry_rom bank s)
  | .closeQueueEntry bank => .of_rom (execCloseQueueEntry_rom bank s)
  | .dduAccept => .of_rom (execDduAccept_rom s)
  | .takeGrant => .of_rom (execTakeGrant_rom s)
  | .eventShed cls => .of_rom (execEventShed_rom cls s)
  | .decisionRelease lane phase => .of_rom (execDecisionRelease_rom lane phase s)
  | .fragmentCarriageNop port => .of_rom (execFragmentCarriageNop_rom port s)
  | .devidSet => .of_rom (execDevidSet_rom s)
  | .power => .of_rom (execPower_rom s)
  | .powerQuietTimeout => .of_rom (execPowerQuietTimeout_rom s)
  | .powerEntryStart => .of_rom (execPowerEntryStart_rom s)
  | .patchLoad image => .of_rom (execPatchLoad_rom image s)
  | .decodeLoad image => .of_rom (execDecodeLoad_rom image s)
  | .microcodeFlip core => .of_rom (execMicrocodeFlip_rom core s)
  | .keyRoll => .of_rom (execKeyRoll_rom s)
  | .tenantKill => .of_rom (execTenantKill_rom s)
  | .tenantRevive => .of_rom (execTenantRevive_rom s)
  | .releaseCore => .of_rom (execReleaseCore_rom s)
  | .coreRelease core => .of_rom (execCoreRelease_rom core s)
  | .msixPendingSend tenant vector => .of_rom (execMsixPendingSend_rom tenant vector s)
  | .linkUp port speed width => .of_rom (execLinkUp_rom port speed width s)
  | .linkDown port => .of_rom (execLinkDown_rom port s)
  | .hotReset port => .of_rom (execHotReset_rom port s)
  | .freeze port cause => .of_rom (execFreeze_rom port cause s)
  | .poisonedWrite tenant queue => .of_rom (execPoisonedWrite_rom tenant queue s)
  | .functionLevelReset tenant => .of_rom (execFunctionLevelReset_rom tenant s)
  | .vfEnableClear port => .of_rom (execVfEnableClear_rom port s)
  | .busMasterEnableClear tenant => .of_rom (execBusMasterEnableClear_rom tenant s)
  | .busMasterEnableSet tenant => .of_rom (execBusMasterEnableSet_rom tenant s)
  | .d3hotEntry tenant => .of_rom (execD3hotEntry_rom tenant s)
  | .d0Return tenant => .of_rom (execD0Return_rom tenant s)
  | .aspmL1Entry port => .of_rom (execAspmL1Entry_rom port s)
  | .quarantineEnd port => .of_rom (execQuarantineEnd_rom port s)
  | .freezeLeaseExpiry port => .of_rom (execFreezeLeaseExpiry_rom port s)
  | .hpcUnfreezeGo port => .of_rom (execHpcUnfreezeGo_rom port s)
  | .hpcUnfreezeDrop port => .of_rom (execHpcUnfreezeDrop_rom port s)
  | .ptmDialog port => .of_rom (execPtmDialog_rom port s)
  | .ptmPeriod port => .of_rom (execPtmPeriod_rom port s)
  | .ptmResponse port masterTime phase => .of_rom (execPtmResponse_rom port masterTime phase s)
  | .ptmTimeout port => .of_rom (execPtmTimeout_rom port s)
  | .perBankRefresh channel bank => .of_rom (execPerBankRefresh_rom channel bank s)
  | .mr4Read channel mult => .of_rom (execMr4Read_rom channel mult s)
  | .neighbourRefresh channel bank => .of_rom (execNeighbourRefresh_rom channel bank s)
  | .writeAgeExpiry channel => .of_rom (execWriteAgeExpiry_rom channel s)
  | .retrainingPauseDue channel => .of_rom (execRetrainingPauseDue_rom channel s)
  | .retrainingPause channel first second => .of_rom (execRetrainingPause_rom channel first second s)
  | .scrubRead channel found => .of_rom (execScrubRead_rom channel found s)
  | .eccWriteback channel => .of_rom (execEccWriteback_rom channel s)
  | .dmcMaintAcquire r => .of_rom (execDmcMaintAcquire_rom r s)
  | .dmcMaintCommit r => .of_rom (execDmcMaintCommit_rom r s)
  | .dmcMaintAbort r => .of_rom (execDmcMaintAbort_rom r s)
  | .dmcLeaseExpiry => .of_rom (execDmcLeaseExpiry_rom s)
  | .frequencyChange failNew failOld => .of_rom (execFrequencyChange_rom failNew failOld s)
  | .scbankChangeDone bank => .of_rom (execScbankChangeDone_rom bank s)
  | .leaseBreakIcu r => .of_rom (execLeaseBreakIcu_rom r s)
  | .leaseBreakRing r tenant => .of_rom (execLeaseBreakRing_rom r tenant s)
  | .leaseBreakProfile r profile => .of_rom (execLeaseBreakProfile_rom r profile s)
  | .leaseBreakPool r pool => .of_rom (execLeaseBreakPool_rom r pool s)
  | .leaseBreakDram r => .of_rom (execLeaseBreakDram_rom r s)
  | .leaseBreakFreeze r port => .of_rom (execLeaseBreakFreeze_rom r port s)
  | .bsuWdogWrite => .of_rom (execBsuWdogWrite_rom s)
  | .watchdogExpiry withinSecond k => execWatchdogExpiry_keeps withinSecond k s
  | .fabricTimeout group => .of_rom (execFabricTimeout_rom group s)
  | .crossingFlush group => .of_rom (execCrossingFlush_rom group s)
  | .thermalAlert tj => .of_rom (execThermalAlert_rom tj s)
  | .thermalTrip tj => .of_rom (execThermalTrip_rom tj s)
  | .thermalHoldEnd => .of_rom (execThermalHoldEnd_rom s)
  | .deviceFatalError reason k => execDeviceFatalError_keeps reason k s
  | .pwrOkRise k => execPwrOkRise_keeps k s
  | .pwrOkFall => .of_rom (execPwrOkFall_rom s)
  | .recoveryImageLoad image readBackOk => .of_rom (execRecoveryImageLoad_rom image readBackOk s)
  | .wakeEvent src => .of_rom (execWakeEvent_rom src s)
  | .brownOut => .of_rom (execBrownOut_rom s)
  | .beatEdge => .of_rom (execBeatEdge_rom s)
  | .discardedFrame link b => .of_rom (execDiscardedFrame_rom link b s)
  | .blockLockAcquired link => .of_rom (execBlockLockAcquired_rom link s)
  | .pmeTurnOffHandshake port => .of_rom (execPmeTurnOffHandshake_rom port s)
  | .pmeTurnOffTimeout port => .of_rom (execPmeTurnOffTimeout_rom port s)
  | .hp0WakeNTimeout => .of_rom (execHp0WakeNTimeout_rom s)
  | .hostPortPerstN port asserted => .of_rom (execHostPortPerstN_rom port asserted s)
  | .icuStatusRead r part => .of_rom (execIcuStatusRead_rom r part s)

theorem exec_next (i : Instr) (s : State) : ∃ t, exec i s = .next t := by
  obtain ⟨t, e, -⟩ := exec_keepsNext i s
  exact ⟨t, e⟩

theorem exec_keeps {i : Instr} {s t : State} (h : exec i s = .next t) : Keeps s t := by
  obtain ⟨u, e, k⟩ := exec_keepsNext i s
  rw [h] at e
  cases e
  exact k

/-! ### Every step -/

/-- A step keeps what no command undoes, but for the command it takes from the queue. -/
theorem step_keeps {s t : State} (h : step s = .next t) : ∃ rest, Keeps { s with pending := rest } t := by
  unfold step at h
  split at h
  · cases h
    exact ⟨s.pending, .of_rom (State.dramTick_rom s)⟩
  · next rest _ => exact ⟨rest, exec_keeps h⟩

/-- What a command keeps includes the seal. -/
theorem Keeps.sealed {hw : Hw} {f : Fuses} {v : Nat} {s t : State} (k : Keeps s t) (h : Sealed hw f v s) : Sealed hw f v t := by
  obtain ⟨hhw, hvendor, howner, hkek, hminver, hrevoked⟩ := h
  obtain ⟨-, khw, kvendor, kowner, kkek, krevoked, kminver⟩ := k
  exact ⟨khw.trans hhw, kvendor.trans hvendor, kowner.trans howner, kkek.trans hkek, Nat.le_trans hminver kminver,
    fun i hi => krevoked i (hrevoked i hi)⟩

/-! ### The idle step -/

/-- Operations that each leave the state as it is leave it so together. -/
theorem State.each_fixed {s : State} {l : List Nat} {f : State → Nat → State} (h : ∀ a ∈ l, f s a = s) : s.each l f = s := by
  unfold State.each
  induction l with
  | nil => rfl
  | cons a l ih =>
    rw [List.foldl_cons, h a (.head _)]
    exact ih fun b hb => h b (.tail _ hb)

/-- A channel with no write in its queue has none to serve (R555). -/
theorem State.chanServe_empty {s : State} {c : Nat} (h : (s.chan c).wq = []) : s.chanServe c = s := by
  have hn : s.nextWrite c = none := by
    unfold State.nextWrite State.eligibleWrites
    simp [h]
  unfold State.chanServe
  rw [hn]

theorem State.dramTick_idle {s : State} (h : ∀ c, (s.chan c).st = .running → (s.chan c).wq = []) : s.dramTick = s :=
  State.each_fixed fun c hc => State.chanServe_empty (h c (by simpa using (List.mem_filter.1 hc).2))

theorem step_idle {s : State} (hp : s.pending = []) (h : ∀ c, (s.chan c).st = .running → (s.chan c).wq = []) : step s = .next s := by
  unfold step
  rw [hp]
  exact congrArg _ (State.dramTick_idle h)

/-! ### Obligations -/

/-- Settles O59: a step runs one command, and each keeps the fused keys and only adds revocations and versions. -/
theorem stepsKeepTheFusesSealed : Obligations.StepsKeepTheFusesSealed := by
  intro hw f v s t hs ht
  obtain ⟨rest, hk⟩ := step_keeps ht
  exact hk.sealed hs

/-- Settles O3. -/
theorem everyCommandHasANextState : Obligations.EveryCommandHasANextState :=
  ⟨exec_next, fun _ => step_idle⟩

end Sys2Proof.Machine
end

section
/-!
PROOFS. Register reads: what the arrival of a request, a read and a latch leave as they were, and the answers of the words that a read
changes (R25, R30, R35, R73, R110, R315, R619).
-/

namespace Sys2Proof.Machine

open Sys2Proof Sys2Proof.Safety

/-! ### The arrival of a request (R524): only the state of the link moves -/

theorem State.each_ports {f : State → Nat → State} (hf : ∀ s a, f s a = { s with ports := (f s a).ports }) (l : List Nat) (s : State) :
    s.each l f = { s with ports := (s.each l f).ports } := by
  induction l generalizing s with
  | nil => rfl
  | cons a l ih =>
    have hs (p : Tbl Port) : ({ f s a with ports := p } : State) = { s with ports := p } := by rw [hf s a]
    exact (ih (f s a)).trans (hs _)

theorem State.linkTlp_ports (s : State) (p : Nat) : s.linkTlp p = { s with ports := (s.linkTlp p).ports } :=
  State.each_ports (fun s q => by split <;> rfl) _ s

theorem State.heard_ports (s : State) (r : Requester) : s.heard r = { s with ports := (s.heard r).ports } := by
  cases r with
  | host p => exact s.linkTlp_ports p
  | context n => rfl
  | service => rfl

@[simp] theorem State.heard_hw (s : State) (r : Requester) : (s.heard r).hw = s.hw := by rw [s.heard_ports r]
@[simp] theorem State.heard_glb (s : State) (r : Requester) : (s.heard r).glb = s.glb := by rw [s.heard_ports r]
@[simp] theorem State.heard_tbu (s : State) (r : Requester) : (s.heard r).tbu = s.tbu := by rw [s.heard_ports r]
@[simp] theorem State.heard_icu (s : State) (r : Requester) : (s.heard r).icu = s.icu := by rw [s.heard_ports r]
@[simp] theorem State.heard_rng (s : State) (r : Requester) : (s.heard r).rng = s.rng := by rw [s.heard_ports r]
@[simp] theorem State.heard_outbox (s : State) (r : Requester) : (s.heard r).outbox = s.outbox := by rw [s.heard_ports r]
@[simp] theorem State.heard_ticking (s : State) (r : Requester) : (s.heard r).ticking = s.ticking := by rw [s.heard_ports r]; rfl
@[simp] theorem State.heard_isRes (s : State) (r : Requester) (n : Nat) : (s.heard r).isRes n = s.isRes n := by simp [State.isRes]

/-! ### A read of a register word (R30, R35) -/

theorem State.read0_open {s : State} {r : Requester} {n : Nat} {p : Part} (h : PartOpen s r n p) :
    s.read0 r n p = ((s.heard r).regRead r n p).2.emit (.answer r ((s.heard r).regRead r n p).1) := by
  obtain ⟨hload, -, hden, hpart⟩ := h
  simp [State.read0, hload, hden, hpart]

theorem State.read0_other (s : State) (q n : Nat) :
    s.read0 (.host q) n .other = ((s.heard (.host q)).urRead (1024 * q)).emit (.unsupported (.host q)) := by
  simp [State.read0]

/-- A read of the whole word answers its value, with what its latch and its RC fields leave. -/
theorem State.regRead_full (s : State) (r : Requester) (n : Nat) :
    s.regRead r n .full = (word (s.latched (reqCode r) n).1, (s.latched (reqCode r) n).2.rcClear n) := rfl

/-- A read of the upper half alone clears nothing (R25). -/
theorem State.regRead_high (s : State) (r : Requester) (n : Nat) :
    s.regRead r n .high = (word ((s.latched (reqCode r) n).1 / 2 ^ 32), (s.latched (reqCode r) n).2) := rfl

/-! ### The time of day (R73, R110) -/

/-- A look at the time moves PHASE alone, to a free value not before the last one while the TBU counts. -/
theorem State.elapsePhase_cases (s : State) : ∃ ph fr, s.elapsePhase = { s with free := fr, tbu := { s.tbu with phase := ph } } ∧
    (s.ticking = false → ph = s.tbu.phase) ∧ (s.ticking = true → s.tbu.phase % 256 ≤ ph ∧ ph < 256) := by
  unfold State.elapsePhase
  cases ht : s.ticking with
  | false => exact ⟨s.tbu.phase, s.free, rfl, fun _ => rfl, nofun⟩
  | true =>
    have hlt : s.tbu.phase % 256 < 256 := Nat.mod_lt _ (by omega)
    have hdraw : (s.draw (256 - s.tbu.phase % 256)).1 < 256 - s.tbu.phase % 256 := Nat.mod_lt _ (by omega)
    exact ⟨s.tbu.phase % 256 + (s.draw (256 - s.tbu.phase % 256)).1, s.free + 1, rfl, nofun, fun _ => by omega⟩

/-- TURN, BEAT and PHASE fill the 72 bits of the full stamp. -/
theorem State.nowFull_toNat (s : State) :
    s.nowFull.toNat = (s.tbu.turn % 2 ^ 48).toNat * 2 ^ 24 + s.tbu.beat % 65536 * 256 + s.tbu.phase % 256 := by
  have hturn : (s.tbu.turn % 2 ^ 48).toNat < 2 ^ 48 := by omega
  unfold State.nowFull
  rw [BitVec.toNat_ofNat, Nat.mod_eq_of_lt]
  omega

theorem State.latched_nowLo {s : State} (h : s.glb.rTbu = true) (code : Nat) : ∃ ph fr : Nat,
    let full := (s.tbu.turn % 2 ^ 48).toNat * 2 ^ 24 + s.tbu.beat % 65536 * 256 + ph % 256
    (s.ticking = false → ph = s.tbu.phase) ∧ (s.ticking = true → s.tbu.phase % 256 ≤ ph ∧ ph < 256) ∧
    s.latched code 0x2002 = (full % 2 ^ 36, { s with
      free := fr, tbu := { s.tbu with phase := ph, latch := tset none s.tbu.latch code (some (word (full / 2 ^ 36))) } }) := by
  obtain ⟨ph, fr, he, hstill, hticks⟩ := s.elapsePhase_cases
  refine ⟨ph, fr, hstill, hticks, ?_⟩
  have hr : regUnit 0x2002 = .tbu 2 := rfl
  unfold State.latched
  simp only [hr, he, h, if_true, State.nowFull_toNat]
  rfl

theorem State.latched_nowHi {s : State} {code : Nat} {w : Word} (h : tget none s.tbu.latch code = some w) :
    s.latched code 0x2003 = (w.toNat, { s with tbu := { s.tbu with latch := tset none s.tbu.latch code none } }) := by
  have hr : regUnit 0x2003 = .tbu 3 := rfl
  unfold State.latched
  simp only [hr, h]
  rfl

/-! ### The interrupt clock (R315) -/

/-- From `s` to `t` the source entries, the count of lost arrivals and the edit lease may change, and nothing else. -/
def SourcesOnly (s t : State) : Prop := ∃ srcs lost lease, t = { s with icu := { s.icu with srcs := srcs, lost := lost, lease := lease } }

namespace SourcesOnly

theorem refl (s : State) : SourcesOnly s s := ⟨_, _, _, rfl⟩

theorem trans {s t u : State} (h : SourcesOnly s t) (k : SourcesOnly t u) : SourcesOnly s u := by
  obtain ⟨_, _, _, rfl⟩ := h
  obtain ⟨_, _, _, rfl⟩ := k
  exact ⟨_, _, _, rfl⟩

theorem setSrc (s : State) (n : Nat) (e : Src_) : SourcesOnly s (s.setSrc n e) := by
  unfold State.setSrc
  split
  · exact ⟨_, _, _, rfl⟩
  · exact .refl s

theorem countArrival (s : State) (n : Nat) : SourcesOnly s (s.countArrival n) := by
  unfold State.countArrival
  dsimp only
  split
  · exact (setSrc s n _).trans ⟨_, _, _, rfl⟩
  · exact setSrc s n _

theorem levelCount (s : State) (n : Nat) : SourcesOnly s (s.levelCount n) := by
  unfold State.levelCount
  dsimp only
  split
  · exact setSrc s n _
  · exact .refl s

theorem lineEdge (s : State) (n : Nat) : SourcesOnly s (s.lineEdge n) := by
  unfold State.lineEdge
  split
  · exact .refl s
  split
  · exact setSrc s n _
  split
  · exact .refl s
  · exact countArrival s n

theorem foldl {α : Type} {f : State → α → State} (hf : ∀ s a, SourcesOnly s (f s a)) (l : List α) (s : State) :
    SourcesOnly s (l.foldl f s) := by
  induction l generalizing s with
  | nil => exact .refl s
  | cons a l ih => exact (hf s a).trans (ih _)

theorem outbox {s t : State} (h : SourcesOnly s t) : t.outbox = s.outbox := by
  obtain ⟨_, _, _, rfl⟩ := h
  rfl

end SourcesOnly

/-- The clock runs after a restart, and the sources alone see what the latches of their lines held. -/
theorem State.icuRestart_sources (s : State) : SourcesOnly { s with icu := { s.icu with gated := false } } s.icuRestart := by
  unfold State.icuRestart
  cases hg : s.icu.gated with
  | false =>
    have hs : ({ s with icu := { s.icu with gated := false } } : State) = s := by rw [← hg]
    rw [hs]
    exact .refl s
  | true =>
    refine SourcesOnly.foldl (fun t n => ?_) _ _
    have ht := (SourcesOnly.setSrc t n { t.src n with latch := false }).trans (.levelCount _ n)
    dsimp only
    split
    · exact ht.trans (.countArrival _ n)
    · exact ht

theorem State.latched_icuStatus (s : State) (code : Nat) :
    s.latched code 0xE001 = (s.icu.ctxTok * 2 ^ 14 + s.icu.srcTok * 2, s.icuRestart) := by
  have hr : s.latched code 0xE001 = (s.icuRestart.icuPeek 1, s.icuRestart) := rfl
  obtain ⟨_, _, _, h⟩ := s.icuRestart_sources
  rw [hr, h]
  simp [State.icuPeek, pack]

/-! ### What an Unsupported Request sends (R533): its signals follow what was sent before -/

theorem State.raise_outbox (s : State) (n : Nat) : s.outbox <+: (s.raise n).outbox := by
  unfold State.raise
  rw [(SourcesOnly.lineEdge _ n).outbox]
  unfold State.signal
  split
  · exact List.prefix_append _ _
  · exact List.prefix_rfl

theorem State.rasPut_outbox (s : State) (e : ErrRec) : s.outbox <+: (s.rasPut e).outbox := by
  unfold State.rasPut
  dsimp only
  split
  · exact List.prefix_rfl
  · split <;> exact List.prefix_rfl

theorem State.rasNew_outbox (s : State) (cls sev unit : Nat) (ctx tenant addr : Option Nat) (detail : Nat) :
    s.outbox <+: (s.rasNew cls sev unit ctx tenant addr detail).outbox := by
  refine List.IsPrefix.trans ?_ (State.raise_outbox _ cls)
  refine List.IsPrefix.trans ?_ (State.rasPut_outbox _ _)
  exact List.prefix_rfl

theorem State.record_outbox (s : State) (cls sev unit : Nat) (ctx tenant addr : Option Nat) (detail : Nat) :
    s.outbox <+: (s.record cls sev unit ctx tenant addr detail).outbox := by
  have hfresh : s.outbox <+: (State.record.fresh cls sev unit ctx tenant addr detail s).outbox := by
    have h := s.rasNew_outbox cls sev unit ctx tenant addr detail
    unfold State.record.fresh
    dsimp only
    split
    · exact h.trans (State.rasNew_outbox _ 15 0 unitRas none none none 0)
    · exact h
  unfold State.record
  split
  · split
    · refine List.IsPrefix.trans ?_ (State.raise_outbox _ cls)
      split <;> exact List.prefix_rfl
    · exact hfresh
  · exact hfresh

theorem State.aerError_outbox (s : State) (t b : Nat) : s.outbox <+: (s.aerError t b).outbox := by
  have hlog : s.outbox <+: (s.aerLog t b).outbox := State.raise_outbox (s.modFn _ _) _
  exact hlog.trans (State.record_outbox ..)

theorem State.urRead_outbox (s : State) (t : Nat) : s.outbox <+: (s.urRead t).outbox := by
  unfold State.urRead
  split
  · exact State.aerError_outbox (s.cntUr (portOf t)) t aerUr
  · exact List.prefix_rfl

/-! ### The residency counters (R619) -/

theorem State.elapse_outbox (s : State) : s.elapse.outbox = s.outbox := by
  unfold State.elapse
  dsimp only
  split <;> rfl

/-- The words of the residency counters lie within the PMU (R32, R624). -/
theorem State.isRes_lt {s : State} {n : Nat} (h : s.isRes n = true) : n < 0x2000 := by
  have hc : Config.clusters s.hw.variant ≤ 16 := by cases s.hw.variant <;> decide
  simp only [State.isRes, Bool.or_eq_true, Bool.and_eq_true, decide_eq_true_eq] at h
  omega

theorem regUnit_pmu {n : Nat} (h : n < 0x2000) : regUnit (0x12000 + n) = .pmu n := by
  unfold regUnit
  simp (disch := omega) only [if_neg, if_pos]
  rw [Nat.add_sub_cancel_left]

theorem State.latched_resLow {s : State} {n : Nat} (h : s.isRes n = true) (heven : n % 2 = 0) (code : Nat) :
    s.latched code (0x12000 + n) = (s.elapse.resCounter n % 2 ^ 36, { s.elapse with pmu := { s.elapse.pmu with
      latch := tset none s.elapse.pmu.latch code (some (n, word (s.elapse.resCounter n / 2 ^ 36))) } }) := by
  unfold State.latched
  simp only [regUnit_pmu (State.isRes_lt h), h, heven, Bool.not_true, Bool.false_eq_true, if_false, if_true]

theorem State.rcClear_pmu {n : Nat} (h : n < 0x2000) (s : State) : s.rcClear (0x12000 + n) = s := by
  unfold State.rcClear
  rw [regUnit_pmu h]

end Sys2Proof.Machine
end

section
/-!
PROOFS. The commands that read a register word, and the obligation on register reads.
-/

namespace Sys2Proof.Machine

open Sys2Proof Sys2Proof.Safety

/-! ### The commands that read a word -/

theorem exec_rcFieldRead_bar0 (s : State) (r : Requester) (n : Nat) (p : Part) :
    exec (.rcFieldRead r (.bar0 n) p) s = .next (s.read0 r n p) := rfl

theorem exec_rcFieldRead_open {s : State} {r : Requester} {n : Nat} {p : Part} (h : PartOpen s r n p) :
    exec (.rcFieldRead r (.bar0 n) p) s = .next (((s.heard r).regRead r n p).2.emit (.answer r ((s.heard r).regRead r n p).1)) := by
  rw [exec_rcFieldRead_bar0, State.read0_open h]

/-- A host's read of another size completes with Unsupported Request (R35). -/
theorem exec_rcFieldRead_other (s : State) (q n : Nat) : ∃ u m, exec (.rcFieldRead (.host q) (.bar0 n) .other) s = .next u ∧
    u.outbox = s.outbox ++ m ++ [.unsupported (.host q)] := by
  obtain ⟨m, hm⟩ := State.urRead_outbox (s.heard (.host q)) (1024 * q)
  rw [State.heard_outbox] at hm
  refine ⟨_, m, exec_rcFieldRead_bar0 .., ?_⟩
  rw [hm, State.read0_other]
  rfl

theorem exec_tbuNowLoRead_open {s : State} {r : Requester} (h : RegOpen s r 0x2002) (ht : s.glb.rTbu = true) : ∃ ph fr : Nat,
    let full := (s.tbu.turn % 2 ^ 48).toNat * 2 ^ 24 + s.tbu.beat % 65536 * 256 + ph % 256
    (s.ticking = false → ph = s.tbu.phase) ∧ (s.ticking = true → s.tbu.phase % 256 ≤ ph ∧ ph < 256) ∧
    exec (.tbuNowLoRead r .full) s = .next (({ s.heard r with
      free := fr
      tbu := { s.tbu with phase := ph, latch := tset none s.tbu.latch (reqCode r) (some (word (full / 2 ^ 36))) } }).emit
        (.answer r (word (full % 2 ^ 36)))) := by
  have hr : exec (.tbuNowLoRead r .full) s = .next (s.read0 r 0x2002 .full) := rfl
  obtain ⟨ph, fr, hstill, hticks, hl⟩ := State.latched_nowLo (s := s.heard r) (by rwa [State.heard_glb]) (reqCode r)
  rw [State.heard_ticking, State.heard_tbu] at hstill hticks
  refine ⟨ph, fr, hstill, hticks, ?_⟩
  rw [hr, State.read0_open h, State.regRead_full, hl, State.heard_tbu]
  rfl

theorem exec_tbuNowHiRead_open {s : State} {r : Requester} {w : Word} (h : RegOpen s r 0x2003)
    (hw : tget none s.tbu.latch (reqCode r) = some w) : exec (.rcFieldRead r (.bar0 0x2003) .full) s =
      .next (({ s.heard r with tbu := { s.tbu with latch := tset none s.tbu.latch (reqCode r) none } }).emit (.answer r w)) := by
  rw [← s.heard_tbu r] at hw
  have hword : word w.toNat = w := BitVec.ofNat_toNat ..
  rw [exec_rcFieldRead_open h, State.regRead_full, State.latched_nowHi hw, State.heard_tbu, hword]
  rfl

theorem exec_tbuErrRead_open {s : State} {r : Requester} (h : RegOpen s r 0x200A) : exec (.rcFieldRead r (.bar0 0x200A) .full) s =
    .next (({ s.heard r with tbu := { s.tbu with lateCmd := 0, cmdDrop := 0, badFrame := 0, crc := 0 } }).emit
      (.answer r (word (s.tbu.lateCmd * 2 ^ 27 + s.tbu.cmdDrop * 2 ^ 18 + s.tbu.badFrame * 2 ^ 9 + s.tbu.crc)))) := by
  have hl : (s.heard r).latched (reqCode r) 0x200A = ((s.heard r).tbuPeek 10, s.heard r) := rfl
  have hv : (s.heard r).tbuPeek 10 = s.tbu.lateCmd * 2 ^ 27 + s.tbu.cmdDrop * 2 ^ 18 + s.tbu.badFrame * 2 ^ 9 + s.tbu.crc := by
    simp [State.tbuPeek, pack]
  rw [exec_rcFieldRead_open h, State.regRead_full, hl, hv, ← s.heard_tbu r]
  rfl

theorem exec_rngCntRead_open {s : State} {r : Requester} (h : RegOpen s r 0xA002) : ∃ w,
    exec (.rcFieldRead r (.bar0 0xA002) .full) s =
      .next (({ s.heard r with rng := { s.rng with badidx := 0, stop := 0, auth := 0, replay := 0 } }).emit (.answer r w)) := by
  rw [exec_rcFieldRead_open h, ← s.heard_rng r]
  exact ⟨_, rfl⟩

theorem exec_icuCntRead_open {s : State} {r : Requester} (h : RegOpen s r 0xE006) : ∃ w,
    exec (.rcFieldRead r (.bar0 0xE006) .full) s =
      .next (({ s.heard r with icu := { s.icu with lost := 0, returned := 0 } }).emit (.answer r w)) := by
  rw [exec_rcFieldRead_open h, ← s.heard_icu r]
  exact ⟨_, rfl⟩

theorem exec_icuStatusRead_open {s : State} {r : Requester} (h : RegOpen s r 0xE001) : exec (.icuStatusRead r .full) s =
    .next ((s.heard r).icuRestart.emit (.answer r (word (s.icu.ctxTok * 2 ^ 14 + s.icu.srcTok * 2)))) := by
  have hr : exec (.icuStatusRead r .full) s = .next (s.read0 r 0xE001 .full) := rfl
  rw [hr, State.read0_open h, State.regRead_full, State.latched_icuStatus, State.heard_icu]
  rfl

theorem exec_pmuResLowRead_open {s : State} {r : Requester} {n : Nat} (hn : s.isRes n = true) (heven : n % 2 = 0)
    (h : RegOpen s r (0x12000 + n)) :
    let v := (s.heard r).elapse
    exec (.pmuResLowRead r n .full) s = .next (({ v with pmu := { v.pmu with
      latch := tset none v.pmu.latch (reqCode r) (some (n, word (v.resCounter n / 2 ^ 36))) } }).emit
        (.answer r (word (v.resCounter n % 2 ^ 36)))) := by
  have hr : exec (.pmuResLowRead r n .full) s = .next (s.read0 r (0x12000 + n) .full) := by
    change Host.Outcome.next _ = _
    rw [hn, heven]
    rfl
  rw [hr, State.read0_open h, State.regRead_full, State.latched_resLow (by rwa [State.heard_isRes]) heven,
    State.rcClear_pmu (State.isRes_lt hn)]

/-! ### Obligation -/

/-- Settles O31: each clause is the equation of the command that reads its word. -/
theorem registerReads : Obligations.RegisterReads := by
  refine ⟨fun s r => ⟨exec_tbuNowLoRead_open, fun _ => exec_tbuNowHiRead_open⟩,
    fun s r n p => ⟨exec_rcFieldRead_open, ?_⟩, fun s r => ⟨?_, ?_, ?_, ?_⟩, ?_, ?_⟩
  · rintro q rfl
    exact exec_rcFieldRead_other s q n
  · exact fun h => ⟨_, exec_tbuErrRead_open h, rfl, fun _ _ _ _ => congrArg (· ++ _) (s.heard_outbox r)⟩
  · exact fun h => ⟨_, exec_rcFieldRead_open h, s.heard_tbu r⟩
  · intro h
    obtain ⟨w, hw⟩ := exec_rngCntRead_open h
    exact ⟨_, hw, rfl⟩
  · intro h
    obtain ⟨w, hw⟩ := exec_icuCntRead_open h
    exact ⟨_, hw, rfl⟩
  · intro s r h
    obtain ⟨_, _, _, hu⟩ := (s.heard r).icuRestart_sources
    refine ⟨_, exec_icuStatusRead_open h, ?_, fun _ _ => ?_⟩ <;> rw [hu]
    · rfl
    · exact congrArg (· ++ _) (s.heard_outbox r)
  · intro s r n hn heven h
    refine ⟨_, (s.heard r).elapse.resCounter n, exec_pmuResLowRead_open hn heven h, ?_, rfl, ?_⟩
    · simp only [State.emit, tget_tset_same]
    · exact congrArg (· ++ _) ((State.elapse_outbox _).trans (s.heard_outbox r))

end Sys2Proof.Machine
end

section
/-!
PROOFS. The links of the host ports come and go, and their functions are reset: the obligation on links and function reset.
-/

namespace Sys2Proof.Machine

open Sys2Proof Sys2Proof.Safety

/-! ### Operations one after the other -/

/-- What `f` reaches at the number it is applied to, and keeps at every other, holds at every number of the list; `I` is what `f` relies on. -/
theorem State.each_reaches {I : State → Prop} {P : Nat → State → Prop} {f : State → Nat → State} (hI : ∀ s a, I s → I (f s a))
    (hset : ∀ s a, I s → P a (f s a)) (hkeep : ∀ s a q, I s → P q s → P q (f s a)) {l : List Nat} {s : State} {q : Nat} (hs : I s)
    (hq : q ∈ l ∨ P q s) : P q (s.each l f) := by
  induction l generalizing s with
  | nil => exact hq.resolve_left List.not_mem_nil
  | cons a l ih =>
    refine ih (hI s a hs) ?_
    rcases hq with hq | hq
    · rcases List.mem_cons.mp hq with rfl | hq
      · exact .inr (hset s q hs)
      · exact .inl hq
    · exact .inr (hkeep s a q hs hq)

/-- A relation that `f` keeps is kept over a list. -/
theorem State.each_keeps {P : State → Prop} {f : State → Nat → State} {l : List Nat} {s : State} (hs : P s)
    (hf : ∀ u a, a ∈ l → P u → P (f u a)) : P (s.each l f) :=
  List.foldlRecOn l f hs fun u hu a ha => hf u a ha hu

/-- An unlisted key reads as the default. -/
theorem tget_of_not_mem {α : Type} (d : α) {t : Tbl α} {k : Nat} (h : k ∉ tkeys t) : tget d t k = d :=
  (tget_mem d t k).resolve_right fun hk => h (List.mem_map_of_mem hk)

theorem putBit_testBit (x i j : Nat) : (putBit x i true).testBit j = (x.testBit j || decide (i = j)) := by
  simp [putBit, Nat.testBit_or, Nat.testBit_two_pow]

/-! ### Signals, records and leases: the host ports, the rings and the service core stay -/

theorem State.units_of_still {s u : State} (h : u.still = s.still) :
    u.glb = s.glb ∧ u.rng = s.rng ∧ u.fns = s.fns ∧ u.ports = s.ports ∧ u.bsu = s.bsu := by
  simp only [State.still_eq, Prod.mk.injEq] at h
  obtain ⟨-, -, -, hglb, -, -, -, hrng, -, -, -, hfns, hports, -, hbsu, -⟩ := h
  exact ⟨hglb, hrng, hfns, hports, hbsu⟩

theorem State.port_of_still {s u : State} (h : u.still = s.still) (q : Nat) : u.port q = s.port q := by
  obtain ⟨-, -, -, hports, -⟩ := State.units_of_still h
  rw [State.port, State.port, hports]

theorem State.icuBreak_still (s : State) : s.icuBreak.still = s.still := by
  unfold State.icuBreak
  split <;> rfl

theorem State.tsetRestore_still (s : State) (l : List (Nat × List Word × List Word)) : (s.tsetRestore l).still = s.still :=
  foldl_still _ (fun s _ => s.modChan_still _ _) l s

theorem State.dmcBreak_still (s : State) : s.dmcBreak.still = s.still := by
  unfold State.dmcBreak
  split
  · rfl
  · split
    · rfl
    · exact (State.raise_still _ 339).trans (s.tsetRestore_still _)

/-- The first half of `breakOwned`: the lease of the interrupt controller. -/
def State.breakIcu (s : State) (p : Nat → Bool) : State :=
  match s.icu.lease with
  | some l => if p l.owner then s.icuBreak else s
  | none => s

theorem State.breakOwned_eq (s : State) (p : Nat → Bool) : s.breakOwned p = match (s.breakIcu p).dmc.lease with
    | some l => if p l.owner then (s.breakIcu p).dmcBreak else s.breakIcu p
    | none => s.breakIcu p := rfl

theorem State.breakOwned_still (s : State) (p : Nat → Bool) : (s.breakOwned p).still = s.still := by
  have hicu : (s.breakIcu p).still = s.still := by
    unfold State.breakIcu
    split
    · rw [ite_still, State.icuBreak_still, ite_self]
    · rfl
  rw [State.breakOwned_eq, ← hicu]
  split
  · rw [ite_still, State.dmcBreak_still, ite_self]
  · rfl

/-! ### What the reset of functions leaves -/

/-- What a port says of its link and of its freeze. -/
def Port.link (x : Port) : Bool × Bool × Nat × Bool := (x.linkUp, x.frozen, x.cause, x.merged)

/-- From `s` to `u` the service core's unit, the links, and the functions and rings of every tenant outside `S` stay. -/
structure OnlyFns (S : Nat → Prop) (s u : State) : Prop where
  bsu : u.bsu = s.bsu
  link : ∀ q, (u.port q).link = (s.port q).link
  outside : ∀ x, ¬ S x → u.fn x = s.fn x ∧ u.rings x = s.rings x

namespace OnlyFns

theorem refl (S : Nat → Prop) (s : State) : OnlyFns S s s := ⟨rfl, fun _ => rfl, fun _ _ => ⟨rfl, rfl⟩⟩

theorem trans {S : Nat → Prop} {s t u : State} (h : OnlyFns S s t) (k : OnlyFns S t u) : OnlyFns S s u := by
  obtain ⟨hb, hl, hf⟩ := h
  obtain ⟨kb, kl, kf⟩ := k
  exact ⟨kb.trans hb, fun q => (kl q).trans (hl q), fun x hx => ⟨(kf x hx).1.trans (hf x hx).1, (kf x hx).2.trans (hf x hx).2⟩⟩

theorem mono {S T : Nat → Prop} {s u : State} (hST : ∀ x, S x → T x) (h : OnlyFns S s u) : OnlyFns T s u :=
  ⟨h.bsu, h.link, fun x hx => h.outside x fun hs => hx (hST x hs)⟩

theorem of_still {S : Nat → Prop} {s u : State} (h : u.still = s.still) : OnlyFns S s u := by
  obtain ⟨-, hrng, hfns, -, hbsu⟩ := State.units_of_still h
  refine ⟨hbsu, fun q => by rw [State.port_of_still h], fun x _ => ⟨?_, ?_⟩⟩
  · rw [State.fn, State.fn, hfns]
  · rw [State.rings, State.rings, hrng]

theorem each {S : Nat → Prop} {f : State → Nat → State} {l : List Nat} {s : State} (hf : ∀ u a, a ∈ l → OnlyFns S u (f u a)) :
    OnlyFns S s (s.each l f) :=
  State.each_keeps (refl S s) fun u a ha hu => hu.trans (hf u a ha)

theorem modPort {S : Nat → Prop} (s : State) (p : Nat) {f : Port → Port} (hf : ∀ x, (f x).link = x.link) : OnlyFns S s (s.modPort p f) := by
  refine ⟨rfl, fun q => ?_, fun x _ => ⟨rfl, rfl⟩⟩
  rw [State.modPort_port]
  split
  · rename_i hq; rw [hq, hf]
  · rfl

theorem modRings {S : Nat → Prop} (s : State) {t : Nat} (f : Rings → Rings) (ht : S t) : OnlyFns S s (s.modRings t f) := by
  refine ⟨rfl, fun _ => rfl, fun x hx => ⟨rfl, ?_⟩⟩
  rw [State.modRings_rings, if_neg]
  rintro rfl
  exact hx ht

theorem setFn {S : Nat → Prop} (s : State) {t : Nat} (f : Fn) (ht : S t) : OnlyFns S s (s.setFn t f) := by
  refine ⟨rfl, fun _ => rfl, fun x hx => ⟨?_, rfl⟩⟩
  rw [State.setFn_fn, if_neg]
  rintro rfl
  exact hx ht

theorem linkTlp {S : Nat → Prop} (s : State) (p : Nat) : OnlyFns S s (s.linkTlp p) :=
  each fun u q _ => by
    split
    · exact modPort u q fun _ => rfl
    · exact refl S u

theorem dropFetch {S : Nat → Prop} (s : State) {t : Nat} (n : Nat) (late : Bool) (ht : S t) : OnlyFns S s (s.dropFetch t n late) := by
  unfold State.dropFetch
  split
  · exact refl S s
  · exact (modRings s _ ht).trans (modPort _ _ fun _ => rfl)

theorem quarantine {S : Nat → Prop} (s : State) (p : Nat) (sel : Nat → Bool) : OnlyFns S s (s.quarantine p sel) :=
  modPort s p fun _ => rfl

theorem disableRings {S : Nat → Prop} (s : State) {t : Nat} (ht : S t) : OnlyFns S s (s.disableRings t) := by
  unfold State.disableRings
  refine OnlyFns.trans ?_ (modPort _ (portOf t) fun _ => rfl)
  refine OnlyFns.trans ?_ (modRings _ Rings.disabled ht)
  exact each fun u n _ => dropFetch u n true ht

theorem dropFetches {S : Nat → Prop} (s : State) {p : Nat} (hp : ∀ x, x / 1024 = p → S x) : OnlyFns S s (s.dropFetches p) :=
  each fun _ t ht => each fun v n _ => dropFetch v n true (hp t (of_decide_eq_true (List.mem_filter.mp ht).2))

theorem rngDrop {S : Nat → Prop} (s : State) : OnlyFns S s s.rngDrop := by
  have hcount (n : Nat) : OnlyFns S s { s with rng := { s.rng with drop := n } } := ⟨rfl, fun _ => rfl, fun _ _ => ⟨rfl, rfl⟩⟩
  unfold State.rngDrop
  dsimp only
  split
  · exact (hcount _).trans (of_still (State.raise_still _ 256))
  · exact hcount _

theorem dropPush {S : Nat → Prop} (s : State) (t k : Nat) : OnlyFns S s (s.dropPush t k State.rngDrop) := by
  have hpush : OnlyFns S s (s.setPush t k none) := ⟨rfl, fun _ => rfl, fun _ _ => ⟨rfl, rfl⟩⟩
  unfold State.dropPush
  split
  · exact refl S s
  · dsimp only
    split
    · exact hpush
    · exact hpush.trans (rngDrop _)

theorem dropPushes {S : Nat → Prop} (s : State) (t : Nat) : OnlyFns S s (s.dropPushes t State.rngDrop) :=
  each fun u k _ => dropPush u t k

theorem flrOne {S : Nat → Prop} (s : State) {t : Nat} (ht : S t) : OnlyFns S s (s.flrOne t) :=
  (((disableRings s ht).trans (quarantine ..)).trans (dropPushes ..)).trans (setFn _ _ ht)

theorem flrVfs (s : State) (p : Nat) : OnlyFns (fun x => x / 1024 = p ∧ x % 1024 ≠ 0) s (s.flrVfs p) :=
  each fun u t ht => by
    simp only [List.mem_filter, State.knownFns, List.mem_eraseDups, decide_eq_true_eq] at ht
    exact flrOne u ⟨ht.1.2, ht.2⟩

theorem flrPort (s : State) (p : Nat) : OnlyFns (fun x => x / 1024 = p) s (s.flrPort p) :=
  ((flrVfs s p).mono fun _ hx => hx.1).trans (flrOne _ (by omega))

theorem linkReset (s : State) (p : Nat) : OnlyFns (fun _ => True) s (s.linkReset p) :=
  each fun u q _ => ((flrPort u q).mono fun _ _ => trivial).trans (of_still (State.breakOwned_still ..))

end OnlyFns

/-! ### A function that is reset (R541) -/

/-- Function `x` has its configuration at reset and its rings disabled. -/
def State.IsReset (u : State) (x : Nat) : Prop := u.fn x = u.fnReset x ∧ ∃ r : Rings, u.rings x = r.disabled

theorem fnReset_congr {s u : State} (h : u.bsu = s.bsu) (x : Nat) : u.fnReset x = s.fnReset x := by
  simp only [State.fnReset, State.ownerNat, h]

theorem Rings.disabled_en (r : Rings) (n : Nat) : (r.disabled.cfg n).en = false := by
  have hoff (d : RingCfg) (hd : d.en = false) (t : Tbl RingCfg) (k : Nat) :
      (tget d (tmap d (fun _ c => { c with en := false }) t) k).en = false := by
    rcases tget_mem d (tmap d (fun _ c => { c with en := false }) t) k with h | h
    · rw [h, hd]
    · obtain ⟨e, -, he⟩ := List.mem_map.mp (List.mem_filter.mp h).1
      rw [← (Prod.mk.inj he).2]
  unfold Rings.cfg
  split
  · exact hoff sqReset rfl r.sq n
  · exact hoff {} rfl r.cqc (n - 4)

theorem State.disableRings_rings (s : State) (t : Nat) :
    (s.disableRings t).rings t = ((s.each [0, 1, 2, 3] fun s n => s.dropFetch t n true).rings t).disabled := by
  unfold State.disableRings
  dsimp only
  generalize (s.each [0, 1, 2, 3] fun s n => s.dropFetch t n true) = u
  exact (u.modRings_rings t Rings.disabled t).trans (if_pos rfl)

namespace State.IsReset

theorem keep {S : Nat → Prop} {s u : State} {x : Nat} (h : s.IsReset x) (k : OnlyFns S s u) (hx : ¬ S x) : u.IsReset x := by
  obtain ⟨hfn, r, hr⟩ := h
  obtain ⟨hbsu, -, hout⟩ := k
  exact ⟨by rw [(hout x hx).1, hfn, fnReset_congr hbsu], r, by rw [(hout x hx).2, hr]⟩

/-- A function that is reset holds no lease, has no ring enabled and reads no carriage (R541 steps 2 and 3). -/
theorem clean {s u : State} {x : Nat} (h : u.IsReset x) (hbsu : u.bsu = s.bsu) :
    u.fn x = s.fnReset x ∧ (u.rings x).lease = none ∧ (∀ n, n < 8 → ((u.rings x).cfg n).en = false) ∧
      ∀ n, n < 4 → tget none (u.rings x).fetch n = none := by
  obtain ⟨hfn, r, hr⟩ := h
  rw [hfn, fnReset_congr hbsu, hr]
  exact ⟨rfl, rfl, fun n _ => r.disabled_en n, fun _ _ => rfl⟩

theorem flrOne_same (s : State) (t : Nat) : (s.flrOne t).IsReset t := by
  have hrings : (s.flrOne t).rings t = (s.disableRings t).rings t := by
    unfold State.flrOne
    dsimp only
    generalize s.disableRings t = u
    exact ((OnlyFns.dropPushes (S := fun _ => False) (u.quarantine (portOf t) fun x => decide (x = t)) t).outside t id).2
  refine ⟨?_, _, hrings.trans (s.disableRings_rings t)⟩
  rw [fnReset_congr (OnlyFns.flrOne (S := fun _ => True) s trivial).bsu, State.flrOne, State.setFn_fn, if_pos rfl]

theorem flrOne {s : State} {x : Nat} (h : s.IsReset x) (t : Nat) : (s.flrOne t).IsReset x := by
  by_cases hx : x = t
  · exact hx ▸ flrOne_same s x
  · exact h.keep (OnlyFns.flrOne (S := (· = t)) s rfl) hx

/-- A tenant that no table of its port knows is as a reset leaves it. -/
theorem of_unknown {s : State} {p x : Nat} (hp : x / 1024 = p) (hvf : x % 1024 ≠ 0) (hx : x ∉ s.knownFns p) : s.IsReset x := by
  simp only [State.knownFns, portOf, List.mem_eraseDups, List.mem_filter, List.mem_append, decide_eq_true_eq, hp, and_true, not_or] at hx
  obtain ⟨⟨hfns, hrings⟩, -⟩ := hx
  refine ⟨?_, {}, ?_⟩
  · rw [State.fn, tget_of_not_mem _ hfns, State.fnReset, if_neg hvf]
  · rw [State.rings, tget_of_not_mem _ hrings]
    rfl

theorem flrVfs_all (s : State) {p x : Nat} (hp : x / 1024 = p) (hvf : x % 1024 ≠ 0) : (s.flrVfs p).IsReset x := by
  refine State.each_reaches (I := fun _ => True) (P := fun x u => u.IsReset x) (fun _ _ _ => trivial) (fun u a _ => flrOne_same u a)
    (fun u a q _ h => h.flrOne a) trivial ?_
  by_cases hx : x ∈ s.knownFns p
  · exact .inl (List.mem_filter.mpr ⟨hx, by simpa using hvf⟩)
  · exact .inr (of_unknown hp hvf hx)

theorem flrPort_all (s : State) {p x : Nat} (hp : x / 1024 = p) : (s.flrPort p).IsReset x := by
  by_cases hvf : x % 1024 = 0
  · have hx : x = 1024 * p := by omega
    rw [hx]
    exact flrOne_same (s.flrVfs p) (1024 * p)
  · exact (flrVfs_all s hp hvf).flrOne (1024 * p)

theorem flrPort {s : State} {x : Nat} (h : s.IsReset x) (p : Nat) : (s.flrPort p).IsReset x := by
  by_cases hp : x / 1024 = p
  · exact flrPort_all s hp
  · exact h.keep (OnlyFns.flrPort s p) hp

theorem linkReset_all (s : State) {p x : Nat} (h : x / 1024 ∈ s.linkPorts p) : (s.linkReset p).IsReset x := by
  have hbreak {u : State} {x : Nat} (f : Nat → Bool) (hu : u.IsReset x) : (u.breakOwned f).IsReset x :=
    hu.keep (OnlyFns.of_still (S := fun _ => False) (State.breakOwned_still u f)) id
  exact State.each_reaches (I := fun _ => True) (P := fun q u => ∀ x, x / 1024 = q → u.IsReset x) (fun _ _ _ => trivial)
    (fun u a _ x hx => hbreak _ (flrPort_all u hx)) (fun u a q _ hq x hx => hbreak _ ((hq x hx).flrPort a)) trivial (.inl h) x rfl

end State.IsReset

end Sys2Proof.Machine
end

section
/-!
PROOFS. The links of the host ports come up and go down, and the obligation on links and function reset.
-/

namespace Sys2Proof.Machine

open Sys2Proof Sys2Proof.Safety

/-! ### One port of a link (R44, R549) -/

/-- Port `q` changes by `f`, its bit of GLB_READY.HOSTPORT becomes `up`, and source 323 + 4q is raised. -/
def State.portTo (s : State) (q : Nat) (up : Bool) (f : Port → Port) : State :=
  let s1 := s.modPort q f
  { s1 with glb := { s1.glb with rHost := putBit s1.glb.rHost q up } }.raise (323 + 4 * q)

theorem State.linkGone_eq (s : State) (p : Nat) : s.linkGone p = s.each (s.linkPorts p) fun s q =>
    if (s.port q).linkUp then s.portTo q false fun x => { x with linkUp := false, speed := 0, width := 0 } else s := rfl

theorem State.portTo_port (s : State) (q : Nat) (up : Bool) (f : Port → Port) (j : Nat) :
    (s.portTo q up f).port j = if j = q then f (s.port q) else s.port j := by
  unfold State.portTo
  rw [State.port_of_still (State.raise_still _ _)]
  exact s.modPort_port q f j

theorem State.portTo_rHost (s : State) (q : Nat) (up : Bool) (f : Port → Port) :
    (s.portTo q up f).glb.rHost = putBit s.glb.rHost q up := by
  unfold State.portTo
  exact congrArg Glb.rHost (State.units_of_still (State.raise_still _ _)).1

theorem State.portTo_units (s : State) (q : Nat) (up : Bool) (f : Port → Port) :
    (s.portTo q up f).rng = s.rng ∧ (s.portTo q up f).fns = s.fns ∧ (s.portTo q up f).bsu = s.bsu := by
  unfold State.portTo
  obtain ⟨-, hrng, hfns, -, hbsu⟩ := State.units_of_still (State.raise_still
    { s.modPort q f with glb := { (s.modPort q f).glb with rHost := putBit (s.modPort q f).glb.rHost q up } } (323 + 4 * q))
  exact ⟨hrng, hfns, hbsu⟩

/-! ### A link that goes down (R44, R542) -/

/-- From `s` to `u` no function, no ring and no freeze changes, whatever becomes of the links. -/
structure OnlyLinkUp (s u : State) : Prop where
  rng : u.rng = s.rng
  fns : u.fns = s.fns
  bsu : u.bsu = s.bsu
  link : ∀ q, (u.port q).link.2 = (s.port q).link.2

theorem OnlyLinkUp.trans {s t u : State} (h : OnlyLinkUp s t) (k : OnlyLinkUp t u) : OnlyLinkUp s u := by
  obtain ⟨hrng, hfns, hbsu, hport⟩ := h
  obtain ⟨krng, kfns, kbsu, kport⟩ := k
  exact ⟨krng.trans hrng, kfns.trans hfns, kbsu.trans hbsu, fun q => (kport q).trans (hport q)⟩

theorem State.linkPorts_congr {s u : State} {p : Nat} (h : (u.port p).link.2 = (s.port p).link.2) : u.linkPorts p = s.linkPorts p := by
  simp only [Port.link, Prod.mk.injEq] at h
  obtain ⟨-, -, hmerged⟩ := h
  rw [State.linkPorts, hmerged, ← State.linkPorts]

theorem State.linkGone_onlyLinkUp (s : State) (p : Nat) : OnlyLinkUp s (s.linkGone p) := by
  rw [State.linkGone_eq]
  refine State.each_keeps (P := OnlyLinkUp s) ⟨rfl, rfl, rfl, fun _ => rfl⟩ fun u a _ hu => ?_
  split
  · obtain ⟨hrng, hfns, hbsu⟩ := u.portTo_units a false fun x => { x with linkUp := false, speed := 0, width := 0 }
    refine hu.trans ⟨hrng, hfns, hbsu, fun q => ?_⟩
    rw [State.portTo_port]
    split
    · rename_i hq; rw [hq]; rfl
    · rfl
  · exact hu

theorem State.linkGone_down (s : State) {p q : Nat} (h : q ∈ s.linkPorts p) : ((s.linkGone p).port q).linkUp = false := by
  rw [State.linkGone_eq]
  refine State.each_reaches (I := fun _ => True) (P := fun q u => (u.port q).linkUp = false) (fun _ _ _ => trivial) (fun u a _ => ?_)
    (fun u a q _ hq => ?_) trivial (.inl h)
  · split
    · rw [State.portTo_port, if_pos rfl]
    · exact Bool.eq_false_iff.mpr ‹_›
  · split
    · rw [State.portTo_port]
      split
      · rfl
      · exact hq
    · exact hq

/-- A link that goes down without a freeze: its functions are reset (R542). -/
theorem State.linkGone_linkReset (s : State) {p q : Nat} (h : q ∈ s.linkPorts p) :
    let u := (s.linkGone p).linkReset p
    u.bsu = s.bsu ∧ (u.port q).linkUp = false ∧ (u.port q).frozen = (s.port q).frozen ∧ ∀ x, x / 1024 = q → u.IsReset x := by
  obtain ⟨-, -, hbsu, hport⟩ := s.linkGone_onlyLinkUp p
  obtain ⟨kbsu, kport, -⟩ := OnlyFns.linkReset (s.linkGone p) p
  have hdown := s.linkGone_down h
  have hfroz := hport q
  have hlink := kport q
  simp only [Port.link, Prod.mk.injEq] at hfroz hlink
  obtain ⟨hup, hsame, -, -⟩ := hlink
  refine ⟨kbsu.trans hbsu, hup.trans hdown, hsame.trans hfroz.1, fun x hx => ?_⟩
  exact State.IsReset.linkReset_all _ (by rw [State.linkPorts_congr (hport p), hx]; exact h)

/-! ### A link that freezes (R542, R543) -/

theorem OnlyFns.frozen (s : State) (p : Nat) : OnlyFns (fun _ => True) s ((s.dropFetches p).quarantine p fun _ => true) :=
  (dropFetches s fun _ _ => trivial).trans (quarantine ..)

/-- A freeze sets FROZEN and its bit of CAUSE, in its port alone. -/
theorem State.freezeOne_link (s : State) (p b q : Nat) : ((s.freezeOne p b).port q).link =
    if q = p then ((s.port p).linkUp, true, putBit (s.port p).cause b true, (s.port p).merged) else (s.port q).link := by
  unfold State.freezeOne
  dsimp only
  split
  · rename_i hfroz
    rw [State.modPort_port]
    split
    · simp only [Port.link, hfroz]
    · rfl
  · rw [State.port_of_still (State.record_still ..), State.port_of_still (State.raise_still ..),
      State.port_of_still (State.breakOwned_still ..), (OnlyFns.frozen _ p).link q, State.cntFreeze]
    by_cases hq : q = p
    · simp only [State.modPort_port, hq, if_true, Port.link]
    · simp only [State.modPort_port, hq, if_false]

theorem State.freezeLink_linkUp (s : State) (p b q : Nat) : ((s.freezeLink p b).port q).linkUp = (s.port q).linkUp := by
  refine State.each_keeps (P := fun u => (u.port q).linkUp = (s.port q).linkUp) rfl fun u a _ hu => ?_
  have hlink := u.freezeOne_link a b q
  split at hlink
  · rename_i hq; subst hq
    exact (congrArg Prod.fst hlink).trans hu
  · exact (congrArg Prod.fst hlink).trans hu

theorem State.freezeLink_frozen (s : State) {p q : Nat} (b : Nat) (h : q ∈ s.linkPorts p) :
    ((s.freezeLink p b).port q).frozen = true ∧ ((s.freezeLink p b).port q).cause.testBit b = true := by
  refine State.each_reaches (I := fun _ => True) (P := fun q u => (u.port q).frozen = true ∧ (u.port q).cause.testBit b = true)
    (fun _ _ _ => trivial) (fun u a _ => ?_) (fun u a q _ hu => ?_) trivial (.inl h)
  · have hlink := u.freezeOne_link a b a
    simp only [if_true, Port.link, Prod.mk.injEq] at hlink
    obtain ⟨-, hfroz, hcause, -⟩ := hlink
    rw [hfroz, hcause, putBit_testBit]
    simp
  · have hlink := u.freezeOne_link a b q
    split at hlink
    · simp only [Port.link, Prod.mk.injEq] at hlink
      obtain ⟨-, hfroz, hcause, -⟩ := hlink
      rw [hfroz, hcause, putBit_testBit]
      simp
    · simp only [Port.link, Prod.mk.injEq] at hlink
      obtain ⟨-, hfroz, hcause, -⟩ := hlink
      rw [hfroz, hcause]
      exact hu

theorem State.each_breakOwned_port (s : State) (l : List Nat) (f : Nat → Nat → Bool) (q : Nat) :
    (s.each l fun s a => s.breakOwned (f a)).port q = s.port q :=
  State.port_of_still (foldl_still _ (fun s a => s.breakOwned_still (f a)) l s) q

/-- A link that is lost, and was not in L2, freezes both its ports. -/
theorem State.linkLost_frozen (s : State) {p q : Nat} (hup : (s.port p).linkUp = true) (hl2 : (s.port p).lpower ≠ .l2)
    (h : q ∈ s.linkPorts p) : ((s.linkLost p).port q).linkUp = false ∧ ((s.linkLost p).port q).frozen = true ∧
      ((s.linkLost p).port q).cause.testBit 0 = true := by
  obtain ⟨-, -, -, hport⟩ := s.linkGone_onlyLinkUp p
  have hq : q ∈ (s.linkGone p).linkPorts p := by rw [State.linkPorts_congr (hport p)]; exact h
  unfold State.linkLost
  rw [hup, if_neg (by simp), if_neg hl2, State.each_breakOwned_port _ _ fun q o => decide (o = 512 + q)]
  exact ⟨(State.freezeLink_linkUp ..).trans (s.linkGone_down h), State.freezeLink_frozen _ 0 hq⟩

/-- A link that is lost in L2 goes down in order. -/
theorem State.linkLost_orderly {s : State} {p : Nat} (hup : (s.port p).linkUp = true) (hl2 : (s.port p).lpower = .l2) :
    s.linkLost p = (s.linkGone p).linkReset p := by
  unfold State.linkLost
  rw [hup, if_neg (by simp), if_pos hl2]

/-! ### A link that comes up (R44, R521) -/

/-- A port whose link has trained. -/
def Port.trained (x : Port) (speed width : Nat) : Port := { x with linkUp := true, lpower := .l0, speed := speed, width := width }

theorem State.trained_ports (s : State) {p q : Nat} (sp w : Nat) (h : q ∈ s.linkPorts p) :
    let u := s.each (s.linkPorts p) fun s q => s.portTo q true fun x => x.trained sp w
    u.port q = (s.port q).trained sp w ∧ u.glb.rHost.testBit q = true := by
  refine State.each_reaches (I := fun u => ∀ q, u.port q = s.port q ∨ u.port q = (s.port q).trained sp w)
    (P := fun q u => u.port q = (s.port q).trained sp w ∧ u.glb.rHost.testBit q = true) (fun u a hu q => ?_) (fun u a hu => ?_)
    (fun u a q hu hq => ?_) (fun _ => .inl rfl) (.inl h)
  · rw [State.portTo_port]
    split
    · rename_i hq; subst hq
      right
      rcases hu q with hq | hq
      · rw [hq]
      · rw [hq]; rfl
    · exact hu q
  · rw [State.portTo_port, if_pos rfl, State.portTo_rHost, putBit_testBit]
    refine ⟨?_, by simp⟩
    rcases hu a with ha | ha
    · rw [ha]
    · rw [ha]; rfl
  · rw [State.portTo_port, State.portTo_rHost, putBit_testBit, hq.2]
    refine ⟨?_, rfl⟩
    split
    · rename_i hqa; subst hqa; rw [hq.1]; rfl
    · exact hq.1

theorem State.linkTrained_ports (s : State) {p q : Nat} (sp w : Nat) (h : q ∈ s.linkPorts p) :
    (s.linkTrained p sp w).port q = (s.port q).trained sp w ∧ (s.linkTrained p sp w).glb.rHost.testBit q = true ∧
      (q = 0 → (s.linkTrained p sp w).pmu.wakeN = false) := by
  obtain ⟨hport, hbit⟩ := s.trained_ports sp w h
  have hlast (u : State) (hu : u.port q = (s.port q).trained sp w) (hb : u.glb.rHost.testBit q = true) :
      let v := if (u.port 0).linkUp then { u with pmu := { u.pmu with wakeN := false } } else u
      v.port q = (s.port q).trained sp w ∧ v.glb.rHost.testBit q = true ∧ (q = 0 → v.pmu.wakeN = false) := by
    dsimp only
    split
    · exact ⟨hu, hb, fun _ => rfl⟩
    · rename_i hno
      refine ⟨hu, hb, ?_⟩
      rintro rfl
      rw [hu] at hno
      exact absurd rfl hno
  exact hlast _ hport hbit

/-! ### The commands -/

theorem exec_linkUp_trains {s : State} {p sp w : Nat} (ht : s.canTrain p = true) (hlow : 1 ≤ sp) (hhigh : sp ≤ 5)
    (hw : w ∈ [1, 2, 4, 8] ∨ w = 16 ∧ (s.port p).merged = true) : exec (.linkUp p sp w) s = .next (s.linkTrained p sp w) := by
  have hshape : s.linkShape p sp w = true := by
    unfold State.linkShape
    rcases hw with hw | ⟨rfl, hm⟩
    · rw [List.contains_iff_mem.mpr hw]
      simp [hlow, hhigh]
    · simp [hlow, hhigh, hm]
  change Host.Outcome.next _ = _
  rw [ht, hshape]
  rfl

theorem exec_hostPortPerstN {s : State} {p : Nat} (hp : s.portPresent p = true) (b : Bool) :
    exec (.hostPortPerstN p b) s = .next ((if b then s.linkLost p else s).modPort p fun x => { x with perst := b }) := by
  change Host.Outcome.next _ = _
  rw [hp]
  rfl

theorem exec_functionLevelReset {s : State} {t : Nat} (h : s.fnExists t = true) :
    exec (.functionLevelReset t) s = .next ((s.linkTlp (portOf t)).flr t) := congrArg Host.Outcome.next (if_pos h)

theorem exec_vfEnableClear {s : State} {p : Nat} (h : s.portPresent p = true) :
    exec (.vfEnableClear p) s = .next ((s.linkTlp p).vfClear p) := congrArg Host.Outcome.next (if_pos h)

theorem exec_hotReset {s : State} {p : Nat} (h : (s.port p).linkUp = true) :
    exec (.hotReset p) s = .next ((s.linkGone p).linkReset p) := congrArg Host.Outcome.next (if_pos h)

theorem State.flr_pf (s : State) {t : Nat} (h : t % 1024 = 0) : s.flr t = s.flrPort (t / 1024) := if_pos h

theorem State.flr_vf (s : State) {t : Nat} (h : t % 1024 ≠ 0) : s.flr t = s.flrOne t := if_neg h

/-- VF Enable clears: every VF of the port is reset, and its PF only loses the bit (R527). -/
theorem State.vfClear_resets (s : State) (p : Nat) : let u := s.vfClear p
    u.bsu = s.bsu ∧ (∀ x, x / 1024 = p → x % 1024 ≠ 0 → u.IsReset x) ∧
      u.fn (1024 * p) = { s.fn (1024 * p) with vfEn := false } ∧ u.rings (1024 * p) = s.rings (1024 * p) := by
  have hreset (x : Nat) : x / 1024 = p → x % 1024 ≠ 0 → (s.flrVfs p).IsReset x := State.IsReset.flrVfs_all s
  obtain ⟨hbsu, -, hout⟩ := OnlyFns.flrVfs s p
  obtain ⟨hfn, hrings⟩ := hout (1024 * p) (by omega)
  unfold State.vfClear
  generalize s.flrVfs p = v at *
  refine ⟨hbsu, fun x hx hvf => ?_, ?_, hrings⟩
  · exact (hreset x hx hvf).keep (OnlyFns.setFn (S := (· = 1024 * p)) v _ rfl) (by omega)
  · rw [State.modFn_fn, if_pos rfl, hfn]

/-- Settles O51: a reset is reached function by function and kept by the resets of the others, and so are the ends of links. -/
theorem linksAndFunctionReset : Obligations.LinksAndFunctionReset := by
  refine ⟨?_, ?_, ?_, ?_, ?_⟩
  · intro s p sp w ht hlow hhigh hw
    exact ⟨_, exec_linkUp_trains ht hlow hhigh hw, fun q hq => s.linkTrained_ports sp w hq⟩
  · intro s p hup hl2
    refine ⟨⟨_, rfl, fun q hq => s.linkLost_frozen hup hl2 hq⟩, fun hp => ⟨_, exec_hostPortPerstN hp true, ?_, fun q hq => ?_⟩⟩
    · rw [State.modPort_port, if_pos rfl]
    · have hlost := s.linkLost_frozen hup hl2 hq
      rw [State.modPort_port]
      split
      · rename_i hqp
        rw [hqp] at hlost
        exact hlost
      · exact hlost
  · intro s p hup hl2
    refine ⟨_, congrArg Host.Outcome.next (State.linkLost_orderly hup hl2), fun q hq => ?_⟩
    obtain ⟨hbsu, hdown, hfroz, hreset⟩ := s.linkGone_linkReset hq
    exact ⟨hdown, hfroz, fun t ht => ((hreset t ht).clean hbsu).1⟩
  · intro s p b hp hdown
    have hlost : s.linkLost p = s := if_pos (by rw [hdown]; rfl)
    rw [exec_hostPortPerstN hp, hlost, ite_self]
    rfl
  · intro s t p clean
    refine ⟨fun hex hvf => ?_, fun hex hpf => ?_, fun hp => ?_, fun hup => ?_⟩
    · have hframe := (OnlyFns.linkTlp s (portOf t)).trans (OnlyFns.flrOne (S := (· = t)) (s.linkTlp (portOf t)) rfl)
      refine ⟨_, exec_functionLevelReset hex, ?_⟩
      rw [State.flr_vf _ hvf]
      exact ⟨(State.IsReset.flrOne_same _ t).clean hframe.bsu, hframe.outside⟩
    · have hframe := (OnlyFns.linkTlp s (portOf t)).trans (OnlyFns.flrPort (s.linkTlp (portOf t)) (t / 1024))
      refine ⟨_, exec_functionLevelReset hex, ?_⟩
      rw [State.flr_pf _ hpf]
      exact ⟨fun x hx => (State.IsReset.flrPort_all _ hx).clean hframe.bsu, hframe.outside⟩
    · obtain ⟨hbsu, hreset, hfn, hrings⟩ := (s.linkTlp p).vfClear_resets p
      obtain ⟨kbsu, -, hout⟩ := OnlyFns.linkTlp (S := fun _ => False) s p
      obtain ⟨kfn, krings⟩ := hout (1024 * p) id
      refine ⟨_, exec_vfEnableClear hp, fun x hx hvf => (hreset x hx hvf).clean (hbsu.trans kbsu), ?_, hrings.trans krings⟩
      rw [hfn, kfn]
    · refine ⟨_, exec_hotReset hup, fun q hq => ?_⟩
      obtain ⟨hbsu, hdown, hfroz, hreset⟩ := s.linkGone_linkReset hq
      exact ⟨hdown, hfroz, fun x hx => (hreset x hx).clean hbsu⟩

end Sys2Proof.Machine
end

section
/-!
PROOFS. The obligation on the carriages of the service core fails: it says "for every state", and a state whose table of profiles is not in
canonical form (a key listed twice, the default listed) hides an edit lease from its hypotheses that TENANT_KILL then breaks.
-/

namespace Sys2Proof.Machine

open Sys2Proof Sys2Proof.Safety

/-- A TENANT_KILL of tenant 1 from ring 0 of tenant 0, whose record is wanted. -/
def killOfOne : Carriage where
  id := 1
  tenant := 0
  origin := .ring 0
  cq := some 0
  header := [0x24, 2] ++ List.replicate 14 0 ++ [1]
  payload := []

/-- Profile 0 is listed twice: a free one, which is what the table reads as, and behind it one of tenant 1 with an edit lease that names
`killOfOne`. -/
def profilesTwice : Tbl Profile := [(0, {}), (0, { owned := true, owner := 1, release := some (killOfOne, .refCycles 1) })]

/-- The service core is about to carry out `killOfOne`, whose record is the next of ring 0, with the table `profilesTwice`. -/
def hiddenLease : State := { State.reset with
  fns := [(0, { bme := true })]
  rng := { svcQ := [killOfOne], fns := [(0, { order := [(0, [⟨1, 0, none⟩])] })] }
  eau := { profs := profilesTwice } }

/-- The record of a carriage that ends by the break of its lease, with status TIMEOUT (R448). -/
def timeoutRecord : List Octet := [0x0A, 0x24] ++ List.replicate 13 0 ++ [0x80]

theorem hiddenLease_serves : Serves hiddenLease killOfOne 0x24 := ⟨by decide, rfl, rfl, by decide⟩

theorem hiddenLease_unharmed : Unharmed hiddenLease := ⟨rfl, fun _ he => absurd he List.not_mem_nil⟩

/-- As the table reads, no profile is being released and no pool drains. -/
theorem hiddenLease_no_lease (x : Carriage) (l : LeaseEnd) :
    ¬ ((∃ n, (hiddenLease.prof n).release = some (x, l)) ∨ ∃ n d, (hiddenLease.pool n).drain = some (x, d, l)) := by
  rintro (⟨n, hn⟩ | ⟨n, d, hn⟩)
  · by_cases h0 : n = 0
    · subst h0
      exact nomatch hn
    · have hnone : hiddenLease.prof n = {} := by
        simp [State.prof, hiddenLease, profilesTwice, tget, h0]
      rw [hnone] at hn
      exact nomatch hn
  · exact nomatch hn

/-- The suspension of tenant 1 drops the free listing, so that the hidden lease comes to light and is broken: the record of the kill is
written with TIMEOUT, and its completion has none left to write. -/
theorem hiddenLease_kill : ∃ u, exec .tenantKill hiddenLease = .next u ∧ u.outbox = [.record 0 0 0 timeoutRecord] :=
  ⟨_, rfl, by decide +kernel⟩

/-- Refutes O47: in `hiddenLease` the clause on TENANT_KILL promises a record with status OK, and the only one that goes out says TIMEOUT. -/
theorem not_serviceCarriages : ¬ Obligations.ServiceCarriages := by
  unfold Obligations.ServiceCarriages
  rintro ⟨-, -, -, -, hkill, -⟩
  obtain ⟨u, hu, hanswer, -⟩ := hkill hiddenLease killOfOne hiddenLease_serves (by decide) (by decide) hiddenLease_unharmed
    fun x l hx => absurd hx (hiddenLease_no_lease x l)
  obtain ⟨v, hv, hout⟩ := hiddenLease_kill
  obtain rfl : u = v := Host.Outcome.next.inj (hu.symm.trans hv)
  obtain ⟨before, after, i, o, hsent, hok, -⟩ := hanswer 0 0 (by decide) rfl (by decide) (by decide) (by decide) (.inr (by decide))
  have hmem : Out.record 0 0 i o ∈ [Out.record 0 0 0 timeoutRecord] := by
    rw [← hout, hsent]
    simp [killOfOne]
  obtain ⟨-, rfl⟩ : i = 0 ∧ o = timeoutRecord := by simpa using hmem
  exact absurd (congrArg List.head? hok) (by decide)

end Sys2Proof.Machine
end

section
/-!
PROOFS. What signals, condition lines and records leave of the units, the entries of a table that changes, and the order of stamps.
-/

namespace Sys2Proof.Machine

open Sys2Proof Sys2Proof.Safety

/-! ### Signals and condition lines move the interrupt controller and the outbox alone -/

theorem State.levelCount_still (s : State) (n : Nat) : (s.levelCount n).still = s.still := by
  unfold State.levelCount
  dsimp only
  rw [ite_still, State.setSrc_still, ite_self]

theorem State.setLine_still (s : State) (n : Nat) (b : Bool) : (s.setLine n b).still = s.still := by
  unfold State.setLine
  dsimp only
  rw [ite_still, State.lineEdge_still, ite_self, State.levelCount_still]
  rfl

theorem State.tbu_of_still {s u : State} (h : u.still = s.still) : u.tbu = s.tbu := congrArg (fun x => x.2.2.2.2.1) h
theorem State.glb_of_still {s u : State} (h : u.still = s.still) : u.glb = s.glb := (State.units_of_still h).1
theorem State.ctxs_of_still {s u : State} (h : u.still = s.still) : u.ctxs = s.ctxs := congrArg (fun x => x.2.2.2.2.2.1) h
theorem State.eau_of_still {s u : State} (h : u.still = s.still) : u.eau = s.eau := congrArg (fun x => x.2.2.2.2.2.2.2.2.1) h
theorem State.ddu_of_still {s u : State} (h : u.still = s.still) : u.ddu = s.ddu := congrArg (fun x => x.2.2.2.2.2.2.2.2.2.1) h
theorem State.dol_of_still {s u : State} (h : u.still = s.still) : u.dol = s.dol := congrArg (fun x => x.2.2.2.2.2.2.2.2.2.2.1) h

/-! ### Canonical tables -/

/-- A key below those of a canonical table reads as the default. -/
theorem tget_below {α : Type} [DecidableEq α] {d : α} {lo k : Nat} {t : Tbl α} (w : twfFrom d lo t = true) (hk : k < lo) : tget d t k = d := by
  induction t generalizing lo with
  | nil => rfl
  | cons e t ih =>
    obtain ⟨j, x⟩ := e
    simp only [twfFrom, Bool.and_eq_true, decide_eq_true_eq] at w
    obtain ⟨⟨hj, -⟩, hrest⟩ := w
    rw [tget, if_neg (by omega)]
    exact ih hrest (by omega)

/-- An entry of a canonical table reads as its image after a change that keeps the default. -/
theorem tget_tmap {α : Type} [DecidableEq α] {d : α} {f : Nat → α → α} (hf : ∀ k, f k d = d) {lo : Nat} {t : Tbl α}
    (w : twfFrom d lo t = true) (k : Nat) : tget d (tmap d f t) k = f k (tget d t k) := by
  induction t generalizing lo with
  | nil => exact (hf k).symm
  | cons e t ih =>
    obtain ⟨j, x⟩ := e
    simp only [twfFrom, Bool.and_eq_true, decide_eq_true_eq] at w
    obtain ⟨-, hrest⟩ := w
    have hrest' := ih hrest
    unfold tmap at hrest' ⊢
    rw [List.map_cons, List.filter_cons]
    by_cases hk : k = j
    · subst hk
      rw [tget_below hrest (by omega), hf] at hrest'
      split
      · simp [tget]
      · rename_i hx
        rw [hrest', tget, if_pos rfl]
        exact (by simpa using hx : f k x = d).symm
    · split <;> simp only [tget, if_neg hk, hrest']

/-! ### The order of stamps (R77) -/

theorem Stamp.le_iff (a b : Stamp) : Stamp.le a b = true ↔ a.turn < b.turn ∨ a.turn = b.turn ∧ a.beat ≤ b.beat := by
  simp [Stamp.le]

theorem Stamp.le_refl (a : Stamp) : Stamp.le a a = true := by
  rw [Stamp.le_iff]
  omega

theorem Stamp.le_trans {a b c : Stamp} (h : Stamp.le a b = true) (k : Stamp.le b c = true) : Stamp.le a c = true := by
  rw [Stamp.le_iff] at *
  omega

theorem Stamp.le_of_not_le {a b : Stamp} (h : Stamp.le a b = false) : Stamp.le b a = true := by
  rw [← Bool.not_eq_true, Stamp.le_iff] at h
  rw [Stamp.le_iff]
  omega

end Sys2Proof.Machine
end

section
/-!
PROOFS. The ends of events (R459, R467 to R470): what each operation of the event assembly leaves of its unit, and the obligation.
-/

namespace Sys2Proof.Machine

open Sys2Proof Sys2Proof.Safety

/-! ### Writes of coaches leave every unit but the memory's -/

theorem State.agentWrite_still (i unit k : Nat) (s : State) (w : Nat) (ws : List Word) : (s.agentWrite i unit k w ws).still = s.still := by
  induction k generalizing s w ws with
  | zero => rfl
  | succ k ih =>
    unfold State.agentWrite
    split
    · rfl
    · dsimp only
      rw [ih, ite_still, State.record_still, State.onMem_still, ite_self]

theorem State.coachWrite_still (s : State) (pool slot w : Nat) (ws : List Word) : (s.coachWrite pool slot w ws).still = s.still := by
  unfold State.coachWrite State.writeRun
  rw [ite_still, State.agentWrite_still, ite_self]

/-! ### What each operation leaves of the event assembly -/

@[simp] theorem State.eauEvent_eau (s : State) (i : Nat) : (s.eauEvent i).eau = { s.eau with event := putBit s.eau.event i true } :=
  State.eau_of_still (State.setLine_still ..)

theorem State.eauCount_eau (s : State) (k : Nat) : ∃ event, (s.eauCount k).eau =
    { s.eau with cnt := tset 0 s.eau.cnt k (satInc (2 ^ 36 - 1) (tget 0 s.eau.cnt k)), event := event } := by
  unfold State.eauCount
  dsimp only
  split
  · exact ⟨_, State.eauEvent_eau _ 0⟩
  · exact ⟨_, rfl⟩

theorem State.closePush_eau (s : State) (ev : Event) : ∃ event, (s.closePush ev).eau =
    { s.eau with closeQ := s.eau.closeQ ++ [ev], event := event } := by
  unfold State.closePush
  dsimp only
  split
  · exact ⟨_, rfl⟩
  · exact ⟨_, State.eauEvent_eau _ 1⟩

/-- The header of a coach goes to memory, and its event leaves the cache of bitmap lines. -/
theorem State.writeHeader_eau (s : State) (bank : Nat) (e : Entry) (r : EndRec) : ∃ bitmaps, (s.writeHeader bank e r).eau =
    { s.eau with bitmaps := bitmaps } := by
  have hflush : ∃ bitmaps, (s.bitmapFlush bank e).eau = { s.eau with bitmaps := bitmaps } := by
    unfold State.bitmapFlush
    split
    · exact ⟨_, rfl⟩
    · dsimp only
      generalize hu : List.foldl _ s [0, 1, 2] = u
      have hstill : u.still = s.still := by
        rw [← hu]
        refine foldl_still _ (fun t i => ?_) _ s
        split
        · exact State.coachWrite_still ..
        · rfl
      rw [← State.eau_of_still hstill]
      exact ⟨_, rfl⟩
  unfold State.writeHeader
  dsimp only
  rw [State.eau_of_still (State.coachWrite_still ..)]
  split
  · exact hflush
  · exact ⟨_, rfl⟩

/-- An entry that ends is CLOSING when the close queue has room, and still ASSEMBLING without (R467, R469). -/
theorem State.endEntry_eau (s : State) (k : Nat) {e : Entry} (he : e.st = .assembling) : ∃ event bitmaps, (s.endEntry k e .partial_).eau =
    { s.eau with
      table := tset none s.eau.table k
        (some { e with st := if s.closeRoom then .closing else .assembling, ended := some ⟨.partial_, s.nowShort, s.serial⟩ })
      cnt := tset 0 s.eau.cnt 2 (satInc (2 ^ 36 - 1) (tget 0 s.eau.cnt 2)), event := event, bitmaps := bitmaps } := by
  obtain ⟨event, hcount⟩ := s.fresh.2.eauCount_eau 2
  have hroom : (s.fresh.2.eauCount 2).closeRoom = s.closeRoom := by
    rw [State.closeRoom, hcount]
    rfl
  unfold State.endEntry
  dsimp only
  rw [hroom]
  split
  · obtain ⟨bitmaps, hheader⟩ := ((s.fresh.2.eauCount 2).setEntry k
      (some { e with st := .closing, ended := some ⟨.partial_, s.nowShort, s.serial⟩ })).writeHeader_eau (k / 32768) e
      ⟨.partial_, s.nowShort, s.serial⟩
    refine ⟨event, bitmaps, hheader.trans ?_⟩
    simp only [State.setEntry, hcount]
    rfl
  · refine ⟨event, s.eau.bitmaps, ?_⟩
    simp only [State.setEntry, hcount, he]
    rfl

/-! ### The entry that ends next (R94, R467) -/

/-- A list that is not empty has an earliest entry, and none of its entries lies before that one. -/
theorem earliestEntry_of_ne_nil {l : List (Nat × Entry)} (h : l ≠ []) :
    ∃ b ∈ l, earliestEntry l = some b ∧ ∀ x ∈ l, Stamp.le b.2.adl.at_ x.2.adl.at_ = true := by
  induction l with
  | nil => exact absurd rfl h
  | cons a t ih =>
    by_cases ht : t = []
    · subst ht
      refine ⟨a, List.mem_cons_self, rfl, fun x hx => ?_⟩
      rw [List.mem_singleton.mp hx]
      exact Stamp.le_refl _
    · obtain ⟨b, hb, hearliest, hmin⟩ := ih ht
      simp only [earliestEntry, hearliest, dueFirst]
      split
      · rename_i hle
        exact ⟨a, List.mem_cons_self, rfl, List.forall_mem_cons.mpr ⟨Stamp.le_refl _, fun x hx => Stamp.le_trans hle (hmin x hx)⟩⟩
      · rename_i hle
        have hba := Stamp.le_of_not_le (Bool.eq_false_iff.mpr hle)
        exact ⟨b, List.mem_cons_of_mem _ hb, rfl, List.forall_mem_cons.mpr ⟨hba, hmin⟩⟩

/-- The entry whose assembly deadline is due and lies before every other that is due is the next to end. -/
theorem State.asmNext_eq {s : State} {b k : Nat} {e : Entry} (hmem : (k, e) ∈ s.bankEntries b)
    (hdue : e.st = .assembling ∧ e.ended = none ∧ s.isDue e.adl = true)
    (hfirst : ∀ x ∈ s.bankEntries b, x ≠ (k, e) → x.2.st = .assembling ∧ x.2.ended = none ∧ s.isDue x.2.adl = true →
      Stamp.le x.2.adl.at_ e.adl.at_ = false) : s.asmNext b = some (k, e) := by
  have hcand (x : Nat × Entry) : x ∈ (s.bankEntries b).filter
      (fun x => decide (x.2.st = .assembling) && x.2.ended.isNone && s.isDue x.2.adl) ↔
      x ∈ s.bankEntries b ∧ x.2.st = .assembling ∧ x.2.ended = none ∧ s.isDue x.2.adl = true := by
    simp [and_assoc]
  have hke := (hcand (k, e)).mpr ⟨hmem, hdue⟩
  obtain ⟨x, hx, hearliest, hmin⟩ := earliestEntry_of_ne_nil (List.ne_nil_of_mem hke)
  obtain ⟨hbank, hxdue⟩ := (hcand x).mp hx
  have hx' : x = (k, e) := Decidable.byContradiction fun hne =>
    absurd (hmin _ hke) (Bool.eq_false_iff.mp (hfirst x hbank hne hxdue))
  rw [State.asmNext, hearliest, hx']

/-! ### The close queue (R468 to R470) -/

/-- An ended entry that enters the close queue is SPENT after COMPLETE and FREE after any other end, and its tenant is charged one less. -/
theorem State.closeEntry_entry {s : State} {b o k : Nat} {e : Entry} {r : EndRec} (h : s.endedOf b = [(o, some (k, e, r))])
    (hroom : s.closeRoom = true) : ∃ event bitmaps, (s.closeEntry b).eau = { s.eau with
      table := tset none s.eau.table k (if r.kind = .complete then some { e with st := .spent } else none)
      charge := tset (0, 0) s.eau.charge e.owner ((s.charged e.owner).1 - 1, (s.charged e.owner).2)
      closeQ := s.eau.closeQ ++ [e.event r.kind], event := event, bitmaps := bitmaps } := by
  have hheader : ∃ bitmaps, (if e.st = .assembling then s.writeHeader b e r else s).eau = { s.eau with bitmaps := bitmaps } := by
    split
    · exact State.writeHeader_eau ..
    · exact ⟨_, rfl⟩
  unfold State.closeEntry
  rw [h, hroom]
  simp only [firstEnded, List.foldl, Option.map_some, Bool.not_true, Bool.false_eq_true, if_false]
  generalize (if e.st = .assembling then s.writeHeader b e r else s) = t at hheader ⊢
  obtain ⟨bitmaps, hbitmaps⟩ := hheader
  obtain ⟨event, hpush⟩ := State.closePush_eau ((t.setEntry k _).modCharge e.owner (fun c => (c.1 - 1, c.2))) (e.event r.kind)
  refine ⟨event, bitmaps, hpush.trans ?_⟩
  simp only [State.modCharge, State.setEntry, State.charged, hbitmaps]
  cases r.kind <;> rfl

/-- The event that waits in the eviction buffer of a bank enters the close queue. -/
theorem State.closeEntry_evicted {s : State} {b o : Nat} {ev : Event × Nat} (h : s.endedOf b = [(o, none)])
    (hev : tget none s.eau.evict b = some ev) (hroom : s.closeRoom = true) : ∃ event, (s.closeEntry b).eau =
    { s.eau with evict := tset none s.eau.evict b none, closeQ := s.eau.closeQ ++ [ev.1], event := event } := by
  unfold State.closeEntry
  rw [h, hroom, hev]
  exact State.closePush_eau ..

/-! ### The commands -/

theorem exec_assemblyDeadline {s : State} {b k : Nat} {e : Entry} (hready : s.glb.rEau = true) (h : s.asmNext b = some (k, e)) :
    exec (.assemblyDeadline b) s = .next (s.endEntry k e .partial_) := by
  change Host.Outcome.next _ = _
  rw [hready, State.assemblyDue, h]
  rfl

theorem exec_closeQueueEntry {s : State} (b : Nat) (hready : s.glb.rEau = true) :
    exec (.closeQueueEntry b) s = .next (s.closeEntry b) := congrArg Host.Outcome.next (if_pos hready)

theorem exec_spentEntryExpiry {s : State} {b k : Nat} {e : Entry}
    (h : (s.bankEntries b).find? (fun x => decide (x.2.st = .spent) && s.isDue x.2.adl) = some (k, e)) :
    exec (.spentEntryExpiry b) s = .next (s.setEntry k none) := by
  change Host.Outcome.next _ = _
  rw [h]

theorem exec_victimKeyExpiry {s : State} {b : Nat} {v : Victim} (h : (s.victimsOf b).find? (fun v => s.isDue v.adl) = some v) :
    exec (.victimKeyExpiry b) s = .next (s.setVictims b ((s.victimsOf b).erase v)) := by
  change Host.Outcome.next _ = _
  rw [h]

/-- Settles O45: each clause reads the event assembly that its operation leaves. -/
theorem eventsEnd : Obligations.EventsEnd := by
  refine ⟨?_, ?_, ?_, ?_, ?_⟩
  · intro s b k e hready hmem due hdue hfirst
    obtain ⟨event, bitmaps, heau⟩ := s.endEntry_eau k hdue.1
    refine ⟨_, exec_assemblyDeadline hready (State.asmNext_eq hmem hdue hfirst), ?_, fun j hj => ?_, ?_⟩
    · rw [State.entry, heau, tget_tset_same]
    · rw [State.entry, heau, tget_tset_other _ _ _ hj, ← State.entry]
    · rw [heau, tget_tset_same]
  · intro s b k o e r hready hended
    refine ⟨fun hfull => ?_, fun hroom => ?_⟩
    · rw [Ignored, exec_closeQueueEntry b hready, State.closeEntry, hfull]
      rfl
    · obtain ⟨event, bitmaps, heau⟩ := State.closeEntry_entry hended hroom
      refine ⟨_, exec_closeQueueEntry b hready, by rw [heau], ?_, fun j hj => ?_, ?_⟩
      · rw [State.entry, heau, tget_tset_same]
      · rw [State.entry, heau, tget_tset_other _ _ _ hj, ← State.entry]
      · rw [State.charged, heau, tget_tset_same]
  · intro s b o ev hready hended hev hroom
    obtain ⟨event, heau⟩ := State.closeEntry_evicted hended hev hroom
    exact ⟨_, exec_closeQueueEntry b hready, by rw [heau], by rw [heau, tget_tset_same], by rw [heau]⟩
  · intro s b k e hspent
    exact ⟨_, exec_spentEntryExpiry hspent, tget_tset_same none s.eau.table k none, fun j hj => tget_tset_other none s.eau.table none hj⟩
  · intro s b v hvictim
    exact ⟨_, exec_victimKeyExpiry hvictim, tget_tset_same [] s.eau.victims b _, fun j hj => tget_tset_other [] s.eau.victims _ hj⟩

end Sys2Proof.Machine
end

section
/-!
PROOFS. The time base: what its events, counters and links leave, and how a link fails (R89 to R93, R112, R113).
-/

namespace Sys2Proof.Machine

open Sys2Proof Sys2Proof.Safety

/-! ### One link of the two -/

/-- Links 0 and 1 are apart; every other number names link 1. -/
theorem Tbu.link_modLink (t : Tbu) (l j : Nat) (f : Link → Link) :
    (t.modLink l f).link j = if (j = 0 ↔ l = 0) then f (t.link j) else t.link j := by
  by_cases hl : l = 0 <;> by_cases hj : j = 0 <;> simp [Tbu.modLink, Tbu.link, hl, hj]

@[simp] theorem Tbu.link_modLink_same (t : Tbu) (l : Nat) (f : Link → Link) : (t.modLink l f).link l = f (t.link l) := by
  simp [Tbu.link_modLink]

theorem Tbu.link_modLink_other (t : Tbu) {l : Nat} (f : Link → Link) (h : l < 2) : (t.modLink l f).link (1 - l) = t.link (1 - l) := by
  rw [Tbu.link_modLink, if_neg (by omega)]

/-- A change of a link leaves all but the links. -/
theorem Tbu.modLink_eq (t : Tbu) (l : Nat) (f : Link → Link) :
    t.modLink l f = { t with link0 := (t.modLink l f).link0, link1 := (t.modLink l f).link1 } := by
  unfold Tbu.modLink
  split <;> rfl

@[simp] theorem Tbu.modLink_mode (t : Tbu) (l : Nat) (f : Link → Link) : (t.modLink l f).mode = t.mode := by rw [t.modLink_eq]
@[simp] theorem Tbu.modLink_active (t : Tbu) (l : Nat) (f : Link → Link) : (t.modLink l f).active = t.active := by rw [t.modLink_eq]
@[simp] theorem Tbu.modLink_turn (t : Tbu) (l : Nat) (f : Link → Link) : (t.modLink l f).turn = t.turn := by rw [t.modLink_eq]
@[simp] theorem Tbu.modLink_beat (t : Tbu) (l : Nat) (f : Link → Link) : (t.modLink l f).beat = t.beat := by rw [t.modLink_eq]
@[simp] theorem Tbu.modLink_slew (t : Tbu) (l : Nat) (f : Link → Link) : (t.modLink l f).slew = t.slew := by rw [t.modLink_eq]
@[simp] theorem Tbu.modLink_crc (t : Tbu) (l : Nat) (f : Link → Link) : (t.modLink l f).crc = t.crc := by rw [t.modLink_eq]
@[simp] theorem Tbu.modLink_badFrame (t : Tbu) (l : Nat) (f : Link → Link) : (t.modLink l f).badFrame = t.badFrame := by rw [t.modLink_eq]
@[simp] theorem Tbu.modLink_acqRun (t : Tbu) (l : Nat) (f : Link → Link) : (t.modLink l f).acqRun = t.acqRun := by rw [t.modLink_eq]

/-! ### Events, counters and modes (R90, R112, R113) -/

theorem State.tbuEvent_still (s : State) (i : Nat) :
    (s.tbuEvent i).still = (s.modTbu fun t => { t with event := putBit t.event i true }).still := State.setLine_still ..

@[simp] theorem State.tbuEvent_tbu (s : State) (i : Nat) : (s.tbuEvent i).tbu = { s.tbu with event := putBit s.tbu.event i true } :=
  State.tbu_of_still (s.tbuEvent_still i)

theorem State.tbuEvent_glb (s : State) (i : Nat) : (s.tbuEvent i).glb = s.glb :=
  (State.glb_of_still (s.tbuEvent_still i)).trans rfl

theorem State.tbuEvent_ctxs (s : State) (i : Nat) : (s.tbuEvent i).ctxs = s.ctxs :=
  (State.ctxs_of_still (s.tbuEvent_still i)).trans rfl
theorem State.tbuEvent_ddu (s : State) (i : Nat) : (s.tbuEvent i).ddu = s.ddu :=
  (State.ddu_of_still (s.tbuEvent_still i)).trans rfl
theorem State.tbuEvent_dol (s : State) (i : Nat) : (s.tbuEvent i).dol = s.dol :=
  (State.dol_of_still (s.tbuEvent_still i)).trans rfl

theorem State.tbuEvent_if (s : State) (c : Bool) (i : Nat) :
    ∃ event, (if c then s.tbuEvent i else s).tbu = { s.tbu with event := event } := by
  split
  · exact ⟨_, s.tbuEvent_tbu i⟩
  · exact ⟨_, rfl⟩

theorem State.tbuBad_tbu (s : State) : ∃ event, s.tbuBad.tbu = { s.tbu with badFrame := satInc 511 s.tbu.badFrame, event := event } :=
  State.tbuEvent_if ..

theorem State.tbuCrc_tbu (s : State) : ∃ event, s.tbuCrc.tbu = { s.tbu with crc := satInc 511 s.tbu.crc, event := event } :=
  State.tbuEvent_if ..

theorem State.tbuDrop_tbu (s : State) : ∃ event, s.tbuDrop.tbu = { s.tbu with cmdDrop := satInc 511 s.tbu.cmdDrop, event := event } :=
  State.tbuEvent_if ..

theorem State.tbuLate_tbu (s : State) : ∃ event, s.tbuLate.tbu = { s.tbu with lateCmd := satInc 511 s.tbu.lateCmd, event := event } :=
  State.tbuEvent_if ..

theorem State.tbuMode_tbu (s : State) (m : TbuMode) : ∃ event, (s.tbuMode m).tbu = { s.tbu with mode := m, event := event } := by
  unfold State.tbuMode
  split
  · rename_i h
    exact ⟨s.tbu.event, by rw [← h]⟩
  · exact ⟨_, State.tbuEvent_tbu ..⟩

theorem State.tbuMode_glb (s : State) (m : TbuMode) : (s.tbuMode m).glb = s.glb := by
  unfold State.tbuMode
  split
  · rfl
  · exact State.tbuEvent_glb ..

/-! ### Another link, or none (R90, R92, R93) -/

@[simp] theorem State.switchTo_tbu (s : State) (l : Nat) : (s.switchTo l).tbu =
    { s.tbu with active := l, revertRun := 0, acqRun := 0, event := putBit s.tbu.event 1 true } := State.tbuEvent_tbu ..

theorem State.holdover_tbu (s : State) : ∃ event quiet, s.holdover.tbu = { s.tbu with
    mode := .holdover, event := event, slew := 0, held := false, quiet := quiet
    link0 := { s.tbu.link0 with diffRun := 0 }, link1 := { s.tbu.link1 with diffRun := 0 } } := by
  obtain ⟨event, hmode⟩ := s.tbuMode_tbu .holdover
  unfold State.holdover
  rw [State.tbu_of_still (State.record_still ..)]
  simp only [State.modTbu, hmode]
  exact ⟨_, _, rfl⟩

/-- A link that counts as failed (R89). -/
def Link.failed (k : Link) : Link := { k with good := false, goodRun := 0, badRun := 0, heard := false, diffRun := 0 }

theorem State.markFailed_eq (s : State) (l : Nat) :
    ∃ n, s.markFailed l = { s with tbu := { s.tbu.modLink l Link.failed with revertRun := n } } := by
  unfold State.markFailed
  dsimp only
  split
  · exact ⟨0, rfl⟩
  · exact ⟨_, rfl⟩

/-- From `s` to `u` neither the time nor the count of CRC failures changes, no link gains or loses its block lock or breaks its run of
failures, and none becomes good. -/
structure LinksOnlyFail (s u : State) : Prop where
  now : u.now = s.now
  crc : u.tbu.crc = s.tbu.crc
  lock : ∀ j, (u.tbu.link j).lock = (s.tbu.link j).lock
  crcRun : ∀ j, (u.tbu.link j).crcRun = (s.tbu.link j).crcRun
  good : ∀ j, (u.tbu.link j).good = true → (s.tbu.link j).good = true

namespace LinksOnlyFail

theorem refl (s : State) : LinksOnlyFail s s := ⟨rfl, rfl, fun _ => rfl, fun _ => rfl, fun _ => id⟩

theorem trans {s t u : State} (h : LinksOnlyFail s t) (k : LinksOnlyFail t u) : LinksOnlyFail s u :=
  ⟨k.now.trans h.now, k.crc.trans h.crc, fun j => (k.lock j).trans (h.lock j), fun j => (k.crcRun j).trans (h.crcRun j),
    fun j => h.good j ∘ k.good j⟩

theorem bad {s u : State} {j : Nat} (h : LinksOnlyFail s u) (hj : (s.tbu.link j).good = false) : (u.tbu.link j).good = false :=
  Bool.eq_false_iff.mpr fun hu => absurd (h.good j hu) (by simp [hj])

theorem switchTo (s : State) (l : Nat) : LinksOnlyFail s (s.switchTo l) := by
  constructor <;> simp [State.now, Tbu.link]

theorem holdover (s : State) : LinksOnlyFail s s.holdover := by
  obtain ⟨event, quiet, h⟩ := s.holdover_tbu
  constructor
  · simp [State.now, h]
  · rw [h]
  all_goals
    intro j
    by_cases hj : j = 0 <;> simp [h, Tbu.link, hj]

theorem markFailed (s : State) (l : Nat) : LinksOnlyFail s (s.markFailed l) := by
  obtain ⟨n, h⟩ := s.markFailed_eq l
  have hlink (j : Nat) : ((s.markFailed l).tbu.link j) = if (j = 0 ↔ l = 0) then (s.tbu.link j).failed else s.tbu.link j := by
    rw [h]
    exact Tbu.link_modLink ..
  constructor
  · simp [State.now, h]
  · simp [h]
  all_goals
    intro j
    rw [hlink]
    split <;> simp [Link.failed]

theorem switchOr {s : State} {f : State → State} (l : Nat) (h : LinksOnlyFail s (f s)) : LinksOnlyFail s (s.switchOr l f) := by
  unfold State.switchOr
  split
  · exact switchTo s _
  · exact h

theorem restart (s : State) : LinksOnlyFail s (s.modTbu fun t => { t with acqStep := 0, acqRun := 0 }) :=
  ⟨rfl, rfl, fun _ => rfl, fun _ => rfl, fun _ => id⟩

theorem failLink (s : State) (l : Nat) : LinksOnlyFail (s.markFailed l) (s.failLink l) := by
  unfold State.failLink
  dsimp only
  split
  · exact refl _
  split
  · exact refl _
  · exact refl _
  · split
    · exact switchOr l (holdover _)
    · refine (restart _).trans (switchOr l ?_)
      split
      · exact refl _
      · exact holdover _
  · exact switchOr l (holdover _)

end LinksOnlyFail

theorem State.markFailed_bad (s : State) (l : Nat) : ((s.markFailed l).tbu.link l).good = false := by
  obtain ⟨n, h⟩ := s.markFailed_eq l
  have hlink : (s.markFailed l).tbu.link l = (s.tbu.link l).failed := by
    rw [h]
    exact Tbu.link_modLink_same ..
  rw [hlink]
  rfl

/-- A link that has failed is not good (R89). -/
theorem State.failLink_bad (s : State) (l : Nat) : ((s.failLink l).tbu.link l).good = false :=
  (LinksOnlyFail.failLink s l).bad (s.markFailed_bad l)

/-- The active link fails in LOCKED: the other one, when good and enabled, becomes active; else the TBU enters HOLDOVER (R90, R92). -/
theorem State.failLink_locked {s : State} {l : Nat} (hl : l < 2) (hact : s.tbu.active = l) (hmode : s.tbu.mode = .locked) :
    let u := s.failLink l
    if (s.tbu.link (1 - l)).good = true ∧ s.linkEn (1 - l) = true then u.tbu.mode = .locked ∧ u.tbu.active = 1 - l
    else u.tbu.mode = .holdover ∧ u.tbu.active = l := by
  obtain ⟨n, h⟩ := s.markFailed_eq l
  have hother : (s.markFailed l).tbu.link (1 - l) = s.tbu.link (1 - l) := by
    rw [h]
    exact Tbu.link_modLink_other _ _ hl
  have hen : (s.markFailed l).linkEn (1 - l) = s.linkEn (1 - l) := by
    rw [h]
    rfl
  have hact' : (s.markFailed l).tbu.active = l := by simp [h, hact]
  have hmode' : (s.markFailed l).tbu.mode = .locked := by simp [h, hmode]
  have hfail : s.failLink l = (s.markFailed l).switchOr l State.holdover := by
    unfold State.failLink
    simp [hact', hmode']
  obtain ⟨event, quiet, hhold⟩ := (s.markFailed l).holdover_tbu
  dsimp only
  rw [hfail, State.switchOr, hother, hen]
  simp only [Bool.and_eq_true]
  split
  · simp [hmode']
  · simp [hhold, hact']

/-- The wait of an acquiring TBU ends (R692 step 2): its link fails, the time stays as taken up, and acquisition starts again. -/
theorem State.acquireLost_spec (s : State) (l : Nat) : let u := s.acquireLost l
    u.tbu.mode = s.tbu.mode ∧ u.tbu.acqStep = 0 ∧ (u.tbu.link l).good = false ∧ u.now = s.now := by
  obtain ⟨n, h⟩ := s.markFailed_eq l
  have hlinks := (LinksOnlyFail.restart (s.markFailed l)).trans (LinksOnlyFail.switchOr (f := id) l (.refl _))
  have hmode : (s.acquireLost l).tbu.mode = s.tbu.mode ∧ (s.acquireLost l).tbu.acqStep = 0 := by
    unfold State.acquireLost State.switchOr
    split <;> simp [h, State.modTbu]
  exact ⟨hmode.1, hmode.2, hlinks.bad (s.markFailed_bad l), hlinks.now.trans (LinksOnlyFail.markFailed s l).now⟩

/-! ### Beat edges (R87, R93, R94) -/

/-- The beat after a beat of a turn: the next one, or beat 0 of the next turn. -/
theorem Stamp.add_one {B : Nat} {a : Stamp} (h : a.beat < B) : Stamp.add B a 1 =
    ⟨if a.beat + 1 = B then a.turn + 1 else a.turn, if a.beat + 1 = B then 0 else a.beat + 1⟩ := by
  unfold Stamp.add
  dsimp only
  split
  · rename_i hB
    have hB' : (a.beat : Int) + 1 = B := by omega
    rw [hB', Int.ediv_self (by omega), Int.emod_self]
    rfl
  · rw [Int.ediv_eq_zero_of_lt (by omega) (by omega), Int.emod_eq_of_lt (by omega) (by omega), Int.add_zero]
    rfl

theorem State.beatEdge_eq {s : State} (hticks : s.ticking = true) (hbeat : s.tbu.beat < s.bpt) : s.beatEdge = { s with tbu := { s.tbu with
    turn := if s.tbu.beat + 1 = s.bpt then s.tbu.turn + 1 else s.tbu.turn
    beat := if s.tbu.beat + 1 = s.bpt then 0 else s.tbu.beat + 1
    phase := 0, edges := s.tbu.edges + 1, noAct := false, slew := s.tbu.slew - 1 } } := by
  unfold State.beatEdge
  rw [hticks, Stamp.add_one (a := s.now) hbeat]
  rfl

/-! ### The commands -/

theorem exec_blockLockLoss {s : State} {l : Nat} (hl : l < 2) (hlock : (s.tbu.link l).lock = true) : exec (.blockLockLoss l) s =
    .next ((s.modTbu fun t => t.modLink l fun k => { k with lock := false, crcRun := 0 }).failLink l) :=
  congrArg Host.Outcome.next (if_pos ⟨hl, hlock⟩)

theorem exec_blockLockAcquired {s : State} {l : Nat} (hl : l < 2) : exec (.blockLockAcquired l) s =
    .next (s.modTbu fun t => t.modLink l fun k => { k with lock := true }) := congrArg Host.Outcome.next (if_pos hl)

theorem exec_linkFail {s : State} {l : Nat} (hl : l < 2) (hen : s.linkEn l = true) (hheard : (s.tbu.link l).heard = true)
    (hlong : 4 * 2 ^ (s.tbu.link l).m ≤ s.tbu.edges - (s.tbu.link l).lastEdge) : exec (.linkFail l) s = .next (s.failLink l) :=
  congrArg Host.Outcome.next (if_pos ⟨hl, hen, hheard, hlong⟩)

theorem exec_acquireTimeout {s : State} {l : Nat} (hl : l < 2) (hmode : s.tbu.mode = .acquiring) (hstep : s.tbu.acqStep = 1)
    (hact : s.tbu.active = l) : exec (.acquireTimeout l) s = .next (s.acquireLost l) :=
  congrArg Host.Outcome.next (if_pos ⟨hl, hmode, hstep, hact⟩)

/-- Settles O33: a link fails in one way, whatever it fails by, and a beat edge moves the time by one beat. -/
theorem linksFailAndBeatsPass : Obligations.LinksFailAndBeatsPass := by
  refine ⟨?_, ?_, ?_, ?_, ?_⟩
  · intro s l hl hact hmode hlock
    refine ⟨_, exec_blockLockLoss hl hlock, State.failLink_bad .., ?_, ?_⟩
    · rw [(LinksOnlyFail.failLink _ l).lock, (LinksOnlyFail.markFailed _ l).lock]
      simp [State.modTbu]
    · have hother := Tbu.link_modLink_other s.tbu (fun k => { k with lock := false, crcRun := 0 }) hl
      rw [← hother]
      exact State.failLink_locked (s := s.modTbu fun t => t.modLink l fun k => { k with lock := false, crcRun := 0 }) hl
        (by simpa [State.modTbu] using hact) (by simpa [State.modTbu] using hmode)
  · intro s l hl hact hmode hen hheard hlong
    exact ⟨_, exec_linkFail hl hen hheard hlong, State.failLink_bad .., State.failLink_locked hl hact hmode⟩
  · intro s l hl hact hmode hstep
    obtain ⟨hkept, hlost⟩ := s.acquireLost_spec l
    exact ⟨_, exec_acquireTimeout hl hmode hstep hact, hkept.trans hmode, hlost⟩
  · intro s l hl
    refine ⟨_, exec_blockLockAcquired hl, ?_⟩
    simp [State.modTbu, State.now]
  · intro s hready hperiod hheld hmode hbeat
    have hticks : s.ticking = true := by simp [State.ticking, hready, hperiod, hheld, hmode]
    exact congrArg Host.Outcome.next (State.beatEdge_eq hticks hbeat)

end Sys2Proof.Machine
end

section
/-!
PROOFS. The frames of the time links: what a BEAT frame leaves of the time base in each mode, what a receiver discards (R83 to R91, R692).
-/

namespace Sys2Proof.Machine

open Sys2Proof Sys2Proof.Safety

/-! ### Times in phase units -/

/-- The time that a number of phase units makes is that number again, with its beat within the turn and its phase within the beat. -/
theorem momentOf_spec {B : Nat} (hB : 0 < B) (u : Int) :
    (momentOf B u).units B = u ∧ (momentOf B u).at_.beat < B ∧ (momentOf B u).phase < 256 := by
  have hbeat : 0 ≤ u / 256 % B := Int.emod_nonneg _ (by omega)
  have hlt : u / 256 % B < B := Int.emod_lt_of_pos _ (by omega)
  have hturn : u / 256 / B * B + u / 256 % B = u / 256 := Int.ediv_mul_add_emod ..
  simp only [momentOf, Moment.units, Int.toNat_of_nonneg hbeat, hturn]
  omega

/-- A BEAT frame has at least one beat in a turn (R86). -/
theorem rxBlocks_beat_bpt {b : Blocks} {mk : Mark} {f : BeatFrame} (h : rxBlocks b mk = .beat f) : 0 < f.bpt := by
  have hframe (os : List Octet) (h : frameOf os mk = .beat f) : 0 < f.bpt := by
    unfold frameOf at h
    split at h
    · split at h <;> cases h
    · split at h <;> cases h
      exact Nat.succ_pos _
    · cases h
    · cases h
  unfold rxBlocks at h
  dsimp only at h
  split at h
  · cases h
  split at h
  · cases h
  split at h
  · exact hframe _ h
  · cases h

/-- The link time of a BEAT frame is its time corrected by the delay of the link (R88). -/
theorem State.linkTime_spec (s : State) {f : BeatFrame} (hB : 0 < f.bpt) :
    (s.linkTime f).units f.bpt = (f.turn * f.bpt + f.beat) * 256 + s.lk.delay ∧
      (s.linkTime f).at_.beat < f.bpt ∧ (s.linkTime f).phase < 256 := by
  have h := momentOf_spec hB (((f.turn * f.bpt + f.beat : Nat) : Int) * 256 + s.lk.delay)
  push_cast at h
  exact h

/-! ### What every BEAT frame does (R89, R103) -/

/-- A link that has heard a BEAT frame. -/
def Link.hears (f : BeatFrame) (edges : Nat) (k : Link) : Link := { k with crcRun := 0, heard := true, lastEdge := edges, m := f.m }

/-- The link of a BEAT frame has heard it, and a CAL that waits for it has its difference. -/
def State.noteFrame (s : State) (l : Nat) (f : BeatFrame) : State :=
  (s.modTbu fun t => t.modLink l (Link.hears f s.tbu.edges)).calCapture l f

theorem State.beatFrame_eq (s : State) (l : Nat) (f : BeatFrame) : s.beatFrame l f = match (s.noteFrame l f).tbu.mode with
    | .none => (s.noteFrame l f).acquireFirst l f
    | .acquiring =>
      if (s.noteFrame l f).tbu.acqStep = 0 then (s.noteFrame l f).acquireFirst l f
      else if (s.noteFrame l f).tbu.acqStep = 1 then
        (if l = (s.noteFrame l f).tbu.active then (s.noteFrame l f).acquireSecond l f else s.noteFrame l f)
      else (s.noteFrame l f).runningFrame l f
    | .locked => (s.noteFrame l f).runningFrame l f
    | .holdover => (s.noteFrame l f).holdoverFrame l f := rfl

/-- From `s` to `t` the time base changes in what it holds of its links and of CAL alone. -/
def LinksAndCal (s t : State) : Prop := ∃ k0 k1 pend id off,
  t = { s with tbu := { s.tbu with link0 := k0, link1 := k1, calPend := pend, calId := id, calOff := off } }

theorem State.calCapture_eq (s : State) (l : Nat) (f : BeatFrame) :
    ∃ pend id off, s.calCapture l f = { s with tbu := { s.tbu with calPend := pend, calId := id, calOff := off } } := by
  unfold State.calCapture
  split
  · split <;> exact ⟨_, _, _, rfl⟩
  · exact ⟨_, _, _, rfl⟩

theorem State.noteFrame_linksAndCal (s : State) (l : Nat) (f : BeatFrame) : LinksAndCal s (s.noteFrame l f) := by
  obtain ⟨pend, id, off, h⟩ := (s.modTbu fun t => t.modLink l (Link.hears f s.tbu.edges)).calCapture_eq l f
  have hlinks := Tbu.modLink_eq s.tbu l (Link.hears f s.tbu.edges)
  exact ⟨_, _, pend, id, off,
    h.trans (congrArg (fun t : Tbu => { s with tbu := { t with calPend := pend, calId := id, calOff := off } }) hlinks)⟩

theorem State.noteFrame_link (s : State) (l : Nat) (f : BeatFrame) :
    (s.noteFrame l f).tbu.link l = (s.tbu.link l).hears f s.tbu.edges := by
  obtain ⟨pend, id, off, h⟩ := (s.modTbu fun t => t.modLink l (Link.hears f s.tbu.edges)).calCapture_eq l f
  rw [State.noteFrame, h]
  exact Tbu.link_modLink_same ..

/-! ### Acquisition (R692) -/

theorem State.armStamp_units (s : State) (k : Nat) : (s.armStamp k).tbu = s.tbu ∧ (s.armStamp k).glb = s.glb := by
  unfold State.armStamp
  dsimp only
  split
  · exact ⟨rfl, rfl⟩
  · split <;> exact ⟨rfl, rfl⟩

theorem State.armStamps_units (s : State) : s.armStamps.tbu = s.tbu ∧ s.armStamps.glb = s.glb := by
  refine List.foldlRecOn (tkeys s.cores) _ (motive := fun u : State => u.tbu = s.tbu ∧ u.glb = s.glb) ⟨rfl, rfl⟩ fun u hu k _ => ?_
  split
  · exact ⟨(u.armStamp_units k).1.trans hu.1, (u.armStamp_units k).2.trans hu.2⟩
  · exact hu

/-- The first frame of an idle time base (R692 step 1). -/
theorem State.acquireFirst_idle {s : State} (l : Nat) (f : BeatFrame) (h : s.glb.rTbu = false) :
    (∃ event, (s.acquireFirst l f).tbu = { s.tbu with
      mode := .acquiring, event := event
      turn := (s.linkTime f).at_.turn, beat := (s.linkTime f).at_.beat, phase := (s.linkTime f).phase, noAct := true
      bptM1 := f.bpt - 1, active := l, acqStep := 1, acqRun := 0, held := true, slew := 0, mismatch := false
      hist := [(f.refTime, (s.linkTime f).beats f.bpt)], revertRun := 0 }) ∧
    (s.acquireFirst l f).glb = { s.glb with rTbu := true } := by
  obtain ⟨event, hmode⟩ := s.tbuMode_tbu .acquiring
  have hglb := s.tbuMode_glb .acquiring
  unfold State.acquireFirst
  simp only [h, Bool.false_and, Bool.false_eq_true, if_false, State.armStamps_units, State.takeStill, State.modTbu, hmode, hglb,
    and_true]
  exact ⟨_, rfl⟩

/-- Two frames, the second later by the reference clock and in beats, give a period (R692 step 3). -/
theorem histPeriod_pair {r r0 : Nat} {b b0 : Int} (hr : r0 < r) (hb : b0 < b) :
    histPeriod [(r0, b0), (r, b)] = some (min ((r - r0) / (b - b0).toNat) (2 ^ 31 - 1)) :=
  if_pos ⟨by simpa using hb, hr⟩

/-- The second frame of an acquisition (R692 step 3). -/
theorem State.acquireSecond_eq {s : State} {l p : Nat} {f : BeatFrame} (hbpt : f.bpt = s.bpt)
    (hp : histPeriod (s.tbu.hist ++ [(f.refTime, (s.linkTime f).beats f.bpt)]) = some p) : s.acquireSecond l f =
    (s.takeUp (s.linkTime f)).modTbu fun t => { t with
      acqStep := 2, acqRun := 0, held := false, hist := s.tbu.hist ++ [(f.refTime, (s.linkTime f).beats f.bpt)], period := p } := by
  unfold State.acquireSecond
  dsimp only
  rw [hp]
  exact if_neg (not_not_intro hbpt)

/-- A quotient that is rounded down misses the exact one by less than one. -/
theorem period_within_one {d n : Nat} (hn : 0 < n) (h : d < (2 ^ 31 - 1) * n) :
    min (d / n) (2 ^ 31 - 1) * n < d + n ∧ d < min (d / n) (2 ^ 31 - 1) * n + n := by
  have hlt : d / n < 2 ^ 31 - 1 := Nat.div_lt_of_lt_mul (by rwa [Nat.mul_comm])
  rw [Nat.min_eq_left (Nat.le_of_lt hlt)]
  have hdiv := Nat.div_add_mod' d n
  have hmod := Nat.mod_lt d hn
  omega

/-! ### Consistent frames (R89, R91) -/

/-- A link whose frame agrees with the time (R89). -/
def Link.agrees (k : Link) : Link :=
  { k with badRun := 0, goodRun := min 3 (k.goodRun + 1), good := k.good || decide (3 ≤ k.goodRun + 1) }

/-- A consistent frame on the active link: its link is judged, and it joins the mean of the period. -/
def State.joined (s : State) (l : Nat) (f : BeatFrame) : State :=
  (s.judge l true).addHist f.refTime ((s.linkTime f).beats f.bpt)

theorem State.joined_tbu (s : State) (l : Nat) (f : BeatFrame) : ∃ hist period, (s.joined l f).tbu =
    { s.tbu.modLink l Link.agrees with hist := hist, period := period } := ⟨_, _, rfl⟩

theorem State.joined_spec (s : State) (l : Nat) (f : BeatFrame) : let u := s.joined l f
    u.tbu.mode = s.tbu.mode ∧ u.tbu.active = s.tbu.active ∧ u.tbu.acqRun = s.tbu.acqRun ∧ u.tbu.slew = s.tbu.slew ∧ u.now = s.now ∧
      u.tbu.link l = (s.tbu.link l).agrees ∧ u.linkTime f = s.linkTime f := by
  obtain ⟨hist, period, h⟩ := s.joined_tbu l f
  dsimp only
  rw [State.now, h]
  exact ⟨by simp, by simp, by simp, by simp, by simp [State.now], Tbu.link_modLink_same .., rfl⟩

/-- The time may be trimmed to that of a consistent frame (R91). -/
theorem State.joined_trim (s : State) (l : Nat) (f : BeatFrame) : let u := (s.joined l f).trim f
    u.tbu.mode = s.tbu.mode ∧ u.tbu.active = s.tbu.active ∧ u.tbu.acqRun = s.tbu.acqRun ∧ u.tbu.link l = (s.tbu.link l).agrees ∧
    (u.now = s.now ∨ s.tbu.slew = 0 ∧ Stamp.le (s.linkTime f).at_ s.now = false ∧
      u.now = (s.linkTime f).at_ ∧ u.tbu.phase = (s.linkTime f).phase) := by
  obtain ⟨hmode, hact, hrun, hslew, hnow, hlink, htime⟩ := s.joined_spec l f
  generalize s.joined l f = t at *
  unfold State.trim
  dsimp only
  rw [htime, hslew, hnow]
  split
  · rename_i hc
    exact ⟨hmode, hact, hrun, hlink, .inr ⟨hc.1, hc.2, rfl, rfl⟩⟩
  · exact ⟨hmode, hact, hrun, hlink, .inl hnow⟩

/-- A consistent frame on the active link, in LOCKED or in step 4 of an acquisition. -/
theorem State.runningFrame_consistent {s : State} {l : Nat} {f : BeatFrame} (hact : s.tbu.active = l) (hok : s.consistent f = true) :
    s.runningFrame l f = let u := (s.joined l f).trim f
      if s.tbu.mode = .acquiring then
        (if 3 ≤ s.tbu.acqRun + 1 then (u.modTbu fun t => { t with acqRun := s.tbu.acqRun + 1 }).tbuMode .locked
         else u.modTbu fun t => { t with acqRun := s.tbu.acqRun + 1 })
      else u := by
  obtain ⟨hmode, hact', hrun, -⟩ := s.joined_trim l f
  have hrevert : ((s.joined l f).trim f).revertCount l true = (s.joined l f).trim f := if_pos (.inr (hact'.trans hact))
  unfold State.runningFrame
  dsimp only
  rw [hok, hact, decide_eq_true rfl, Bool.and_self, if_pos rfl, ← State.joined, hrevert, hmode, hrun]
  simp

/-! ### What a receiver discards (R84, R85, R89) -/

theorem State.crcClean_link (s : State) (l : Nat) :
    ((s.crcClean l).tbu.link l).crcRun = 0 ∧ (s.crcClean l).now = s.now ∧
      (s.crcClean l).tbu.badFrame = s.tbu.badFrame ∧ (s.crcClean l).tbu.crc = s.tbu.crc := by
  simp [State.crcClean, State.modTbu, State.now]

theorem State.tbuBad_spec (s : State) : s.tbuBad.tbu.badFrame = satInc 511 s.tbu.badFrame ∧ s.tbuBad.now = s.now := by
  obtain ⟨event, h⟩ := s.tbuBad_tbu
  simp [State.now, h]

theorem State.discard_bad_one {s : State} {b : Blocks} (l : Nat) (h : rxBlocks b ⟨0, 0⟩ = .bad 1) :
    (s.discard l b).tbu.badFrame = satInc 511 s.tbu.badFrame ∧ (s.discard l b).now = s.now := by
  have hdiscard : s.discard l b = if crcOk (blocksOctets b) ∧ blockSync b.first = 2 ∧ blockSync b.second = 1 then
      (s.crcClean l).tbuBad else s.tbuBad := by
    unfold State.discard
    rw [h]
    rfl
  rw [hdiscard]
  split
  · obtain ⟨-, hnow, hbad, -⟩ := s.crcClean_link l
    rw [← hnow, ← hbad]
    exact (s.crcClean l).tbuBad_spec
  · exact s.tbuBad_spec

theorem State.discard_bad_two {s : State} {b : Blocks} (l : Nat) (h : rxBlocks b ⟨0, 0⟩ = .bad 2) :
    (s.discard l b).tbu.badFrame = satInc 511 (satInc 511 s.tbu.badFrame) ∧ (s.discard l b).now = s.now := by
  have hdiscard : s.discard l b = s.tbuBad.tbuBad := by
    unfold State.discard
    rw [h]
    rfl
  rw [hdiscard, s.tbuBad.tbuBad_spec.1, s.tbuBad.tbuBad_spec.2, s.tbuBad_spec.1, s.tbuBad_spec.2]
  exact ⟨rfl, rfl⟩

/-- A frame that fails its CRC counts, and joins the run of failures of its link. -/
def State.crcMissed (s : State) (l : Nat) : State := (s.modTbu fun t => t.modLink l fun k => { k with crcRun := k.crcRun + 1 }).tbuCrc

theorem State.crcMissed_spec (s : State) (l : Nat) : (s.crcMissed l).tbu.crc = satInc 511 s.tbu.crc ∧
    ((s.crcMissed l).tbu.link l).crcRun = (s.tbu.link l).crcRun + 1 ∧ (s.crcMissed l).now = s.now := by
  obtain ⟨event, h⟩ := (s.modTbu fun t => t.modLink l fun k => { k with crcRun := k.crcRun + 1 }).tbuCrc_tbu
  have hlink := s.tbu.link_modLink_same l fun k => { k with crcRun := k.crcRun + 1 }
  rw [State.crcMissed, State.now, h]
  exact ⟨by simp [State.modTbu], congrArg Link.crcRun hlink, by simp [State.modTbu, State.now]⟩

theorem State.discard_crc {s : State} {b : Blocks} (l : Nat) (h : rxBlocks b ⟨0, 0⟩ = .crc) : s.discard l b =
    if 8 ≤ (s.tbu.link l).crcRun + 1 then ((s.crcMissed l).crcClean l).failLink l else s.crcMissed l := by
  rw [← (s.crcMissed_spec l).2.1]
  unfold State.discard
  rw [h]
  rfl

/-! ### The commands -/

theorem exec_beatFrame {s : State} {l : Nat} {b : Blocks} {mk : Mark} {f : BeatFrame} (hr : s.receives l = true)
    (hf : rxBlocks b mk = .beat f) : exec (.beatFrame l ⟨b, mk⟩) s = .next (s.beatFrame l f) := by
  change Host.Outcome.next _ = _
  rw [hf, hr]
  rfl

theorem exec_idleFrame {s : State} {l : Nat} {b : Blocks} (hr : s.receives l = true) (hf : rxBlocks b ⟨0, 0⟩ = .idle) :
    exec (.idleFrame ⟨l, b⟩) s = .next (s.crcClean l) := congrArg Host.Outcome.next (if_pos ⟨hr, hf⟩)

theorem exec_discardedFrame {s : State} {l : Nat} (b : Blocks) (hr : s.receives l = true) :
    exec (.discardedFrame l b) s = .next (s.discard l b) := congrArg Host.Outcome.next (if_pos hr)

/-- The first BEAT frame of an idle time base. -/
theorem State.beatFrame_first {s : State} (l : Nat) (f : BeatFrame) (hB : 0 < f.bpt) (hmode : s.tbu.mode = .none)
    (hready : s.glb.rTbu = false) : let u := s.beatFrame l f
    u.tbu.mode = .acquiring ∧ u.glb.rTbu = true ∧ u.tbu.active = l ∧ u.tbu.bptM1 = f.bpt - 1 ∧
      u.tbu.acqStep = 1 ∧ u.ticking = false ∧ u.tbu.edges = s.tbu.edges ∧
      ((u.tbu.turn * f.bpt + u.tbu.beat) * 256 + u.tbu.phase : Int) = (f.turn * f.bpt + f.beat) * 256 + s.lk.delay ∧
      u.tbu.beat < f.bpt ∧ u.tbu.phase < 256 := by
  obtain ⟨_, _, _, _, _, hnote⟩ := s.noteFrame_linksAndCal l f
  have hfirst : s.beatFrame l f = (s.noteFrame l f).acquireFirst l f := by
    rw [State.beatFrame_eq, hnote]
    dsimp only
    rw [hmode]
  obtain ⟨⟨event, htbu⟩, hglb⟩ := State.acquireFirst_idle (s := s.noteFrame l f) l f (by rw [hnote]; exact hready)
  dsimp only
  rw [hfirst, State.ticking, htbu, hglb, hnote]
  exact ⟨rfl, rfl, rfl, rfl, rfl, by simp, rfl, s.linkTime_spec hB⟩

/-- The second BEAT frame of an acquisition, on the link of the first. -/
theorem State.beatFrame_second {s : State} {l : Nat} {f : BeatFrame} {r0 : Nat} {b0 : Int} (hmode : s.tbu.mode = .acquiring)
    (hstep : s.tbu.acqStep = 1) (hact : s.tbu.active = l) (hhist : s.tbu.hist = [(r0, b0)]) (hbpt : f.bpt = s.bpt)
    (hr : r0 < f.refTime) (hb : b0 < (s.linkTime f).beats f.bpt) : let u := s.beatFrame l f
    u.tbu.mode = .acquiring ∧ u.tbu.acqStep = 2 ∧ u.tbu.held = false ∧
      u.tbu.period = min ((f.refTime - r0) / ((s.linkTime f).beats f.bpt - b0).toNat) (2 ^ 31 - 1) := by
  obtain ⟨_, _, _, _, _, hnote⟩ := s.noteFrame_linksAndCal l f
  have hsecond : s.beatFrame l f = (s.noteFrame l f).acquireSecond l f := by
    rw [State.beatFrame_eq, hnote]
    dsimp only
    rw [hmode, hstep, hact]
    simp
  have hperiod : histPeriod ((s.noteFrame l f).tbu.hist ++ [(f.refTime, ((s.noteFrame l f).linkTime f).beats f.bpt)]) =
      some (min ((f.refTime - r0) / ((s.linkTime f).beats f.bpt - b0).toNat) (2 ^ 31 - 1)) := by
    rw [hnote]
    dsimp only
    rw [hhist]
    exact histPeriod_pair hr hb
  dsimp only
  rw [hsecond, State.acquireSecond_eq (by rw [hnote]; exact hbpt) hperiod, hnote]
  exact ⟨hmode, rfl, rfl, rfl⟩

/-- A consistent BEAT frame on the active link, in LOCKED or in step 4 of an acquisition. -/
theorem State.beatFrame_consistent {s : State} {l : Nat} {f : BeatFrame} (hact : s.tbu.active = l) (hok : s.consistent f = true)
    (hmode : s.tbu.mode = .locked ∨ s.tbu.mode = .acquiring ∧ s.tbu.acqStep = 2) : let u := ((s.noteFrame l f).joined l f).trim f
    s.beatFrame l f = (if s.tbu.mode = .acquiring then
        (if 3 ≤ s.tbu.acqRun + 1 then (u.modTbu fun t => { t with acqRun := s.tbu.acqRun + 1 }).tbuMode .locked
         else u.modTbu fun t => { t with acqRun := s.tbu.acqRun + 1 })
      else u) ∧
    u.tbu.mode = s.tbu.mode ∧ u.tbu.active = l ∧ u.tbu.link l = ((s.tbu.link l).hears f s.tbu.edges).agrees ∧
    (u.now = s.now ∨ s.tbu.slew = 0 ∧ Stamp.le (s.linkTime f).at_ s.now = false ∧
      u.now = (s.linkTime f).at_ ∧ u.tbu.phase = (s.linkTime f).phase) := by
  have hrunning : s.beatFrame l f = (s.noteFrame l f).runningFrame l f := by
    obtain ⟨_, _, _, _, _, hnote⟩ := s.noteFrame_linksAndCal l f
    rw [State.beatFrame_eq, hnote]
    dsimp only
    rcases hmode with hmode | ⟨hmode, hstep⟩
    · rw [hmode]
    · rw [hmode, hstep]
      rfl
  obtain ⟨hmode', hact', -, hlink, htime⟩ := (s.noteFrame l f).joined_trim l f
  rw [s.noteFrame_link l f] at hlink
  dsimp only
  rw [hrunning, hlink, hmode', hact']
  obtain ⟨_, _, _, _, _, hnote⟩ := s.noteFrame_linksAndCal l f
  rw [State.runningFrame_consistent (s := s.noteFrame l f) (by rw [hnote]; exact hact) (by rw [hnote]; exact hok)]
  rw [hnote] at htime ⊢
  exact ⟨rfl, rfl, hact, rfl, htime⟩

/-- Settles O32: every clause is what the frame it names leaves of the time base. -/
theorem framesOfTheTimeLinks : Obligations.FramesOfTheTimeLinks := by
  refine ⟨?_, ?_, ?_, ?_, ?_, ?_⟩
  · intro s l b mk f hr hf hmode hready
    exact ⟨_, exec_beatFrame hr hf, State.beatFrame_first l f (rxBlocks_beat_bpt hf) hmode hready⟩
  · intro s l b mk f r0 b0 hr hf hmode hstep hact hhist hbpt hlater hbeats n hlong
    obtain ⟨hmode', hstep', hheld, hperiod⟩ := State.beatFrame_second hmode hstep hact hhist hbpt hlater hbeats
    refine ⟨_, exec_beatFrame hr hf, hmode', hstep', hheld, ?_⟩
    rw [hperiod]
    exact period_within_one (by omega) hlong
  · intro s l b mk f hr hf hmode hstep hact hok hrun
    obtain ⟨hframe, -, hact', -⟩ := State.beatFrame_consistent hact hok (.inr ⟨hmode, hstep⟩)
    rw [if_pos hmode, if_pos (by omega)] at hframe
    refine ⟨_, exec_beatFrame hr hf, ?_⟩
    rw [hframe]
    obtain ⟨event, h⟩ := State.tbuMode_tbu _ .locked
    rw [h]
    exact ⟨rfl, hact'⟩
  · intro s l b mk f hr hf hmode hact hok
    obtain ⟨hframe, hmode', hact', hlink, htime⟩ := State.beatFrame_consistent hact hok (.inl hmode)
    rw [if_neg (by simp [hmode])] at hframe
    refine ⟨_, exec_beatFrame hr hf, ?_⟩
    rw [hframe, hlink]
    refine ⟨hmode'.trans hmode, hact', rfl, rfl, fun h => by simp [Link.agrees, Link.hears, h], htime.imp_right ?_⟩
    rintro ⟨hslew, hlater, hnow, hphase⟩
    have hunits := (s.linkTime_spec (rxBlocks_beat_bpt hf)).1
    rw [Moment.units, ← hnow, ← hphase] at hunits
    exact ⟨hslew, by rw [hnow]; exact Stamp.le_of_not_le hlater, hunits⟩
  · intro s l b hr
    refine ⟨fun h => ?_, fun h => ?_, fun h hrun => ?_, fun h hrun => ?_, fun h => ?_⟩
    · exact ⟨_, exec_discardedFrame b hr, State.discard_bad_one l h⟩
    · exact ⟨_, exec_discardedFrame b hr, State.discard_bad_two l h⟩
    · obtain ⟨hcrc, hlink, hnow⟩ := s.crcMissed_spec l
      refine ⟨_, exec_discardedFrame b hr, ?_⟩
      rw [State.discard_crc l h, if_neg (by omega)]
      exact ⟨hnow, hcrc, hlink⟩
    · obtain ⟨hcrc, -, hnow⟩ := s.crcMissed_spec l
      obtain ⟨hrun', hnow', -, hcrc'⟩ := (s.crcMissed l).crcClean_link l
      have hfail := (LinksOnlyFail.markFailed ((s.crcMissed l).crcClean l) l).trans (LinksOnlyFail.failLink _ l)
      refine ⟨_, exec_discardedFrame b hr, ?_⟩
      rw [State.discard_crc l h, if_pos (by omega)]
      exact ⟨hfail.now.trans (hnow'.trans hnow), hfail.crc.trans (hcrc'.trans hcrc), State.failLink_bad .., (hfail.crcRun l).trans hrun'⟩
    · obtain ⟨hrun, hnow, -⟩ := s.crcClean_link l
      exact ⟨_, exec_idleFrame hr h, hrun, hnow⟩
  · decide +kernel

end Sys2Proof.Machine
end

section
/-!
PROOFS. The commands of the time links: how a frame is accepted, what each command does at its stamp, and TURN_RESET (R98 to R104, R112).
-/

namespace Sys2Proof.Machine

open Sys2Proof Sys2Proof.Safety

/-! ### Frames (R98, R99) -/

theorem State.crcClean_eq (s : State) (l : Nat) : ∃ k0 k1, s.crcClean l = { s with tbu := { s.tbu with link0 := k0, link1 := k1 } } :=
  ⟨_, _, congrArg (fun t : Tbu => { s with tbu := t }) (Tbu.modLink_eq ..)⟩

/-- The last sixteen sequence numbers, after one more. -/
def seqsWith (seqs : List Nat) (q : Nat) : List Nat := (seqs ++ [q]).drop (seqs.length + 1 - 16)

theorem mem_seqsWith (seqs : List Nat) (q : Nat) : q ∈ seqsWith seqs q := by
  rw [seqsWith, List.drop_append_of_le_length (by omega)]
  exact List.mem_append_right _ List.mem_cons_self

theorem length_seqsWith (seqs : List Nat) (q : Nat) : (seqsWith seqs q).length ≤ 16 := by
  simp [seqsWith]
  omega

/-- The command that a frame carries. -/
def State.cmdOf (s : State) (f : CmdFrame) : PendCmd := ⟨f.code, f.arg, s.due ⟨f.turn, f.beat⟩⟩

theorem State.commandFrame_repeated {s : State} {l : Nat} {f : CmdFrame} (h : f.seq ∈ s.tbu.seqs) : s.commandFrame l f = s.crcClean l := by
  obtain ⟨k0, k1, hclean⟩ := s.crcClean_eq l
  have hseq : (s.crcClean l).tbu.seqs.contains f.seq = true := by rw [hclean]; exact List.contains_iff_mem.mpr h
  unfold State.commandFrame
  dsimp only
  rw [if_pos hseq]

/-- A frame that passes the checks of R98: it is dropped when its stamp is to come and sixteen commands wait; else its number is remembered,
and its command waits, or executes at once when it is late. -/
theorem State.commandFrame_new {s : State} {l : Nat} {f : CmdFrame} (hnew : f.seq ∉ s.tbu.seqs) (hready : s.glb.rTbu = true)
    (hbeat : f.beat < s.bpt) (hlow : 1 ≤ f.code) (hhigh : f.code ≤ 7) (hcode : f.code ≠ 5) : s.commandFrame l f =
    let s1 := (s.crcClean l).modTbu fun t => { t with seqs := seqsWith s.tbu.seqs f.seq }
    if Stamp.le ⟨f.turn, f.beat⟩ s.now = true then (s1.runCmd (s.cmdOf f)).tbuLate
    else if 16 ≤ s.tbu.cmds.length then (s.crcClean l).tbuDrop
    else s1.modTbu fun t => { t with cmds := s.tbu.cmds ++ [s.cmdOf f] } := by
  obtain ⟨k0, k1, hclean⟩ := s.crcClean_eq l
  have hseq : ¬ (s.crcClean l).tbu.seqs.contains f.seq = true := by rw [hclean]; simpa using hnew
  have hvalid : ¬ (!(s.crcClean l).beatOk f.beat) = true := by
    have hok : s.beatOk f.beat = true := by simp [State.beatOk, hready, hbeat]
    have hsame : (s.crcClean l).beatOk f.beat = s.beatOk f.beat := by rw [hclean]; rfl
    simp [hsame, hok]
  have hnow : (s.crcClean l).now = s.now := by rw [hclean]; rfl
  have hcmds : (s.crcClean l).tbu.cmds = s.tbu.cmds := by rw [hclean]
  unfold State.commandFrame
  dsimp only
  rw [if_neg hseq, if_neg hvalid, if_neg (by omega), if_neg (by omega), if_neg (by omega), if_neg (by omega), hnow, hcmds, hclean]
  cases hlate : Stamp.le ⟨f.turn, f.beat⟩ s.now with
  | true => rfl
  | false =>
    simp only [Bool.not_false, Bool.true_and, decide_eq_true_eq, Bool.false_eq_true, if_false]
    rfl

/-! ### What each command does (R100) -/

theorem State.runCmd_quietStart {s : State} {c : PendCmd} (h : c.code = 1) : s.runCmd c =
    (s.modTbu fun t => { t with quiet := some ⟨if c.arg = 0 then none else some (s.due (s.after c.due.at_ c.arg))⟩ }).tbuEvent 3 := by
  rw [State.runCmd, h]
  rfl

theorem State.runCmd_quietEnd {s : State} {c : PendCmd} (h : c.code = 2) :
    s.runCmd c = (s.modTbu fun t => { t with quiet := none }).tbuEvent 4 := by
  rw [State.runCmd, h]
  rfl

theorem State.runCmd_throttleOn {s : State} {c : PendCmd} (h : c.code = 3) :
    s.runCmd c = (s.modTbu fun t => { t with throttle := true }).tbuEvent 5 := by
  rw [State.runCmd, h]
  rfl

theorem State.runCmd_throttleOff {s : State} {c : PendCmd} (h : c.code = 4) :
    s.runCmd c = (s.modTbu fun t => { t with throttle := false }).tbuEvent 6 := by
  rw [State.runCmd, h]
  rfl

theorem State.runCmd_turnReset {s : State} {c : PendCmd} (h : c.code = 5) : s.runCmd c = s.turnReset c.due.at_.turn := by
  rw [State.runCmd, h]
  rfl

theorem State.runCmd_resync {s : State} {c : PendCmd} (h : c.code = 6) : s.runCmd c =
    ((s.modTbu fun t => { t with acqStep := 0, acqRun := 0, mismatch := false, slew := 0 }).tbuMode .acquiring).tbuEvent 8 := by
  rw [State.runCmd, h]
  rfl

theorem State.runCmd_cal {s : State} {c : PendCmd} (h : c.code = 7) :
    s.runCmd c = (s.modTbu fun t => { t with calPend := some c.arg }).tbuEvent 9 := by
  rw [State.runCmd, h]
  rfl

/-- The one command that waits is due: it leaves the list and executes, when it has the code of the row. -/
theorem State.cmdRow_single {s : State} {c : PendCmd} {code : Nat} (h : s.tbu.cmds = [c]) (hdue : s.isDue c.due = true)
    (hcode : c.code = code) : s.cmdRow code = (s.modTbu fun t => { t with cmds := [] }).runCmd c := by
  have hnext : s.nextCmd = some c := by simp [State.nextCmd, h, hdue]
  unfold State.cmdRow
  rw [hnext]
  simp [hcode, State.modTbu, h]

/-- The one command that waits is due, and ends with bit `i` of TBU_EVENT (R112). -/
theorem State.cmdRow_event {s u : State} {c : PendCmd} {code i : Nat} (h : s.tbu.cmds = [c]) (hdue : s.isDue c.due = true)
    (hcode : c.code = code) (hrun : (s.modTbu fun t => { t with cmds := [] }).runCmd c = u.tbuEvent i) :
    ∃ event, event.testBit i = true ∧ (s.cmdRow code).tbu = { u.tbu with event := event } := by
  rw [State.cmdRow_single h hdue hcode, hrun]
  exact ⟨_, by simp [putBit_testBit], u.tbuEvent_tbu i⟩

/-! ### TURN_RESET (R102) -/

/-- A stamp with `T` turns fewer. -/
def Stamp.fewer (T : Int) (x : Stamp) : Stamp := ⟨x.turn - T, x.beat⟩

/-- Stamps renumbered alike keep their order and their distance. -/
theorem Stamp.fewer_keeps (T : Int) (a b : Stamp) : Stamp.le (a.fewer T) (b.fewer T) = Stamp.le a b ∧
    ∀ B, Stamp.to B (a.fewer T) (b.fewer T) = Stamp.to B a b := by
  refine ⟨Bool.eq_iff_iff.mpr ?_, fun B => ?_⟩
  · rw [Stamp.le_iff, Stamp.le_iff]
    dsimp only [Stamp.fewer]
    omega
  · have hturns : b.turn - T - (a.turn - T) = b.turn - a.turn := by omega
    dsimp only [Stamp.to, Stamp.fewer]
    rw [hturns]

/-- The turns are renumbered: the turn of the time, the stamps of the items, and the frames of the mean. -/
def State.renumbered (s : State) (T : Int) : State :=
  (s.mapStamps (Stamp.fewer T) (Stamp.fewer T) id).modTbu fun t =>
    { t with turn := t.turn - T, hist := t.hist.map (fun h => (h.1, h.2 - T * s.bpt)) }

theorem State.turnReset_eq {s : State} (T : Int) (h : s.lk.acceptReset = true) : s.turnReset T = (s.renumbered T).tbuEvent 7 := by
  unfold State.turnReset
  rw [h]
  rfl

theorem State.renumbered_ctx {s : State} (h : twf {} s.ctxs = true) (T : Int) (n : Nat) :
    (s.renumbered T).ctx n = (s.ctx n).mapStamps (Stamp.fewer T) (Stamp.fewer T) :=
  tget_tmap (d := ({} : Ctx)) (f := fun _ c => c.mapStamps (Stamp.fewer T) (Stamp.fewer T)) (fun _ => rfl) h n

/-! ### The commands -/

theorem exec_commandFrame {s : State} {l : Nat} {b : Blocks} {f : CmdFrame} (hr : s.receives l = true)
    (hf : rxBlocks b ⟨0, 0⟩ = .command f) : exec (.commandFrame l b) s = .next (s.commandFrame l f) := by
  change Host.Outcome.next _ = _
  rw [hf, hr]
  rfl

/-- Settles O34: a frame is accepted by its checks, a due command acts by its code, and TURN_RESET renumbers every stamp alike. -/
theorem timedCommands : Obligations.TimedCommands := by
  refine ⟨?_, ?_, ?_, ?_, ?_⟩
  · intro s l b f hr hf
    obtain ⟨k0, k1, hclean⟩ := s.crcClean_eq l
    refine ⟨fun hold => ?_, fun hnew hready hbeat hlow hhigh hcode _ =>
      ⟨fun hroom hcome => ?_, fun hfull hcome => ?_, fun hcode3 hlate => ?_⟩⟩
    · refine ⟨_, exec_commandFrame hr hf, ?_⟩
      rw [State.commandFrame_repeated hold, hclean]
      exact ⟨rfl, rfl, rfl⟩
    · refine ⟨_, exec_commandFrame hr hf, ?_⟩
      rw [State.commandFrame_new hnew hready hbeat hlow hhigh hcode, if_neg (by simp [hcome]), if_neg (by omega)]
      exact ⟨rfl, mem_seqsWith .., Nat.le_trans (length_seqsWith ..) (Nat.le_max_left ..)⟩
    · refine ⟨_, exec_commandFrame hr hf, ?_⟩
      obtain ⟨event, hdrop⟩ := (s.crcClean l).tbuDrop_tbu
      rw [State.commandFrame_new hnew hready hbeat hlow hhigh hcode, if_neg (by simp [hcome]), if_pos hfull, hdrop, hclean]
      exact ⟨rfl, rfl⟩
    · refine ⟨_, exec_commandFrame hr hf, ?_⟩
      rw [State.commandFrame_new hnew hready hbeat hlow hhigh hcode, if_pos hlate]
      obtain ⟨event, hcount⟩ := State.tbuLate_tbu
        (((s.crcClean l).modTbu fun t => { t with seqs := seqsWith s.tbu.seqs f.seq }).runCmd (s.cmdOf f))
      rw [hcount, State.runCmd_throttleOn (c := s.cmdOf f) hcode3, State.tbuEvent_tbu, hclean]
      exact ⟨rfl, rfl, rfl⟩
  · intro s c hcmds hdue
    refine ⟨fun h => ?_, fun h _ _ => ?_, fun h _ => ?_, fun h _ => ?_, fun h _ => ?_, fun h => ?_⟩
    · obtain ⟨event, hbit, htbu⟩ := State.cmdRow_event hcmds hdue h (State.runCmd_quietStart h)
      refine ⟨s.cmdRow 1, rfl, ?_⟩
      rw [State.now, htbu]
      exact ⟨rfl, hbit, rfl, rfl⟩
    · obtain ⟨event, hbit, htbu⟩ := State.cmdRow_event hcmds hdue h (State.runCmd_quietEnd h)
      refine ⟨s.cmdRow 2, rfl, ?_⟩
      rw [State.now, htbu]
      exact ⟨rfl, hbit, rfl, rfl⟩
    · obtain ⟨event, hbit, htbu⟩ := State.cmdRow_event hcmds hdue h (State.runCmd_throttleOn h)
      refine ⟨s.cmdRow 3, rfl, ?_⟩
      rw [State.now, htbu]
      exact ⟨rfl, hbit, rfl, rfl⟩
    · obtain ⟨event, hbit, htbu⟩ := State.cmdRow_event hcmds hdue h (State.runCmd_throttleOff h)
      refine ⟨s.cmdRow 4, rfl, ?_⟩
      rw [State.now, htbu]
      exact ⟨rfl, hbit, rfl, rfl⟩
    · obtain ⟨event, hbit, htbu⟩ := State.cmdRow_event hcmds hdue h (State.runCmd_resync h)
      obtain ⟨entered, hmode⟩ := State.tbuMode_tbu ((s.modTbu fun t => { t with cmds := [] }).modTbu fun t =>
        { t with acqStep := 0, acqRun := 0, mismatch := false, slew := 0 }) .acquiring
      refine ⟨s.cmdRow 6, rfl, ?_⟩
      rw [State.now, htbu, hmode]
      exact ⟨rfl, hbit, rfl, rfl, rfl, rfl, rfl⟩
    · obtain ⟨event, hbit, htbu⟩ := State.cmdRow_event hcmds hdue h (State.runCmd_cal h)
      refine ⟨s.cmdRow 7, rfl, ?_⟩
      rw [State.now, htbu]
      exact ⟨rfl, hbit, rfl, rfl⟩
  · intro s d hquiet hdue
    change Host.Outcome.next _ = _
    rw [hquiet]
    dsimp only
    rw [hdue]
    rfl
  · intro s c hcmds hdue hcode _ haccept hcanon hitems T f
    have hrun : s.cmdRow 5 = ((s.modTbu fun t => { t with cmds := [] }).renumbered T).tbuEvent 7 := by
      rw [State.cmdRow_single hcmds hdue hcode, State.runCmd_turnReset hcode]
      exact State.turnReset_eq (s := s.modTbu fun t => { t with cmds := [] }) T haccept
    have hctx (n : Nat) : (s.cmdRow 5).ctx n = (s.ctx n).mapStamps f f := by
      rw [hrun, State.ctx, State.tbuEvent_ctxs]
      exact State.renumbered_ctx (s := s.modTbu fun t => { t with cmds := [] }) hcanon T n
    refine ⟨s.cmdRow 5, congrArg Host.Outcome.next (if_neg (by simp [hitems])), ?_⟩
    rw [hrun, State.tbuEvent_tbu, State.tbuEvent_ddu, State.tbuEvent_dol, ← hrun]
    refine ⟨rfl, rfl, rfl, by simp [putBit_testBit], rfl, fun n => ?_, ?_, ?_, Stamp.fewer_keeps T⟩
    · rw [hctx]
      exact ⟨rfl, rfl⟩
    · exact List.map_map
    · exact List.map_map
  · intro s hitems
    exact congrArg Host.Outcome.next (if_pos hitems)

end Sys2Proof.Machine
end

section
/-!
PROOFS. The obligation on ERET straight after an exception fails: its words leave out the stores of other contexts that wait in the merging
buffer. Where the context's last store before the exception is the oldest entry of a full buffer and lies in the first frame line, the frame
joins that entry (R360) and is the first to drain; a store of another context to the same line drains behind it (R214, R361), before ERET.
-/

namespace Sys2Proof.Machine

open Sys2Proof Sys2Proof.Safety

/-- A context that runs with root capabilities; block 0 maps lines 0 to 99 to themselves, and the next frame lies at lines 40 to 42. -/
def rootCtx : Ctx where
  run := .run
  pcc := rootCap 960
  esc := rootCap 2064
  evc := rootCap 0
  k := [(0, rootCap 0)]
  bd := [(0, { lines := 100, en := true })]

/-- Contexts 0 and 1 of core 0 run, and the L2 of their cluster holds lines 40 to 42. -/
def twoRunning : State := { State.reset with
  glb := { rClu := 1 }
  pmu := { dev := .run, clus := [(0, some .run)] }
  cores := [(0, { released := true })]
  ctxs := [(0, rootCtx), (1, { rootCtx with esc := rootCap 4800 })]
  mem := { pop := 100, nchan := 16, l2 := [40, 41, 42].map fun l => (l, [(0, some ⟨l, .e, 0⟩)]) } }

/-- Context `n` has stored 1 in byte 16 of line `l`. -/
def State.byteStored (s : State) (n l : Nat) : State := s.bufferStore n l 16 [1] [] (word (48 * l + 16)) false

/-- The merging buffer of core 0 is full: context 0 has stored to line 40, and then context 1 to line 40 and to six others. -/
def crowded : State := [40, 50, 51, 52, 53, 54, 55].foldl (fun s l => s.byteStored 1 l) (twoRunning.byteStored 0 40)

/-- The exception of a TRAP at the cursor of context 0. -/
def trapTaken : Exc := { cause := 21, fault := 960, resume := 964 }

theorem crowded_ctx : crowded.ctx 0 = rootCtx := by decide

theorem crowded_unharmed : Unharmed crowded := by unfold Unharmed; decide

/-- Eight entries wait, of context 0 and context 1 for line 40 before the others. -/
theorem crowded_merge : (crowded.core 0).merge.map (fun e => (e.ctx, e.line)) =
    [(0, 40), (1, 40), (1, 50), (1, 51), (1, 52), (1, 53), (1, 54), (1, 55)] := by decide

theorem crowded_pushAt : (pushAt crowded 0 trapTaken).1 = .ok [(40, false), (41, false), (42, false)] := by rfl

theorem crowded_sound {l : Nat} (h : l ∈ [40, 41, 42]) : Sound crowded l ∧ inErrorRing crowded (48 * l) = false := by
  revert l; unfold Sound; decide

/-- The three frame lines lie in block 0, which is direct. -/
theorem crowded_frame_direct (i : Nat) (h : i < 3) :
    ∃ j b, (crowded.ctx 0).findBlock (((crowded.ctx 0).esc.cursor.toNat - 144 + 48 * i) / 48) = some (j, b) ∧ b.paged = false := by
  rw [crowded_ctx]
  have hblock : ∀ i < 3, rootCtx.findBlock ((rootCtx.esc.cursor.toNat - 144 + 48 * i) / 48) = some (0, { lines := 100, en := true }) := by
    decide
  exact ⟨_, _, hblock i h, rfl⟩

/-- The second and the third line of the frame have each drained the oldest entry. -/
theorem crowded_enter_merge : ((crowded.enter 0 trapTaken).core 0).merge.map (fun e => (e.ctx, e.line)) =
    [(1, 50), (1, 51), (1, 52), (1, 53), (1, 54), (1, 55), (0, 41), (0, 42)] := by decide

/-- ERET reads K0 back with the byte that context 1 stored, and untagged. -/
theorem crowded_eret_k0 : (((crowded.enter 0 trapTaken).eretNow 0).ctx 0).kget 0 = { rootCap 1 with tag := false } := by
  decide +kernel

/-- Refutes O23: in `crowded`, TRAP and ERET bring K0 of context 0 back with a byte of context 1 in it. -/
theorem not_eretUndoesTheEntry : ¬ Obligations.EretUndoesTheEntry := by
  unfold Obligations.EretUndoesTheEntry
  intro h
  have hpush : pushAt crowded 0 trapTaken = (.ok [(40, false), (41, false), (42, false)], _) := Prod.ext crowded_pushAt rfl
  have hsound : ∀ p ∈ [(40, false), (41, false), (42, false)], Sound crowded p.1 ∧ inErrorRing crowded (48 * p.1) = false :=
    fun _ hp => crowded_sound (List.mem_map_of_mem (f := Prod.fst) hp)
  obtain ⟨-, hk⟩ := h crowded _ 0 trapTaken _ crowded_unharmed hpush (by decide) (by decide) crowded_frame_direct hsound
    rfl rfl rfl (by decide) (by decide) (by decide)
  have hk0 : { rootCap 1 with tag := false } = rootCtx.kget 0 := by rw [← crowded_eret_k0, ← crowded_ctx, hk 0]
  exact absurd hk0 (by decide)

end Sys2Proof.Machine
end

section
/-!
PROOFS. The edit lease of the interrupt controller (R316, R317, R321 to R323, R590, R594): a write of an open register word, a write of a
source entry, what each operation does to the lease, and the obligation.
-/

namespace Sys2Proof.Machine

open Sys2Proof Sys2Proof.Safety

/-! ### A write of a register word that is open to its requester (R30, R35) -/

@[simp] theorem State.heard_bsu (s : State) (r : Requester) : (s.heard r).bsu = s.bsu := by rw [s.heard_ports r]
@[simp] theorem State.heard_pmu (s : State) (r : Requester) : (s.heard r).pmu = s.pmu := by rw [s.heard_ports r]
@[simp] theorem State.heard_src (s : State) (r : Requester) (n : Nat) : (s.heard r).src n = s.src n := by simp [State.src]
@[simp] theorem State.heard_srcExists (s : State) (r : Requester) (n : Nat) : (s.heard r).srcExists n = s.srcExists n := by
  simp [State.srcExists]

theorem State.writing_open {s : State} {r : Requester} {n : Nat} {p : Part} (h : PartOpen s r n p) (f : State → State) :
    s.writing r n p f = f (s.heard r) := by
  obtain ⟨-, hstore, hden, hpart⟩ := h
  simp [State.writing, hstore, hden, hpart]

/-! ### A write of a source entry (R295, R296) -/

/-- The raise line is not part of the entry that is written. -/
theorem State.src_setSrc_same {s : State} {n : Nat} (h : s.srcExists n = true) (e : Src_) :
    (s.setSrc n e).src n = { e with line := (s.src n).line } := by
  simp [State.setSrc, State.src, h]

theorem State.src_setSrc_other (s : State) {n m : Nat} (e : Src_) (h : m ≠ n) : (s.setSrc n e).src m = s.src m := by
  unfold State.setSrc
  split
  · simp [State.src, tget_tset_other _ _ _ h]
  · rfl

/-! ### The operations of the edit lease -/

/-- The entry that COMMIT of lease `l` leaves where it finds entry `e` (R316 step 4, R317). -/
def IcuLease.committed (l : IcuLease) (e : Src_) : Src_ := { e with
  pri := l.shadow.pri
  tset := l.shadow.tset
  vec := l.shadow.vec
  level := l.shadow.level
  wake := l.shadow.wake
  ovf := if l.clrovf && !l.lost then false else e.ovf
  count := if l.shadow.isLevel l.src then b2n e.line else if l.clrcnt then 0 else e.count }

/-- A source committed with TRIGGER 0 keeps its COUNT, unless CLRCNT was written. -/
theorem IcuLease.committed_count_edge {l : IcuLease} (h : l.shadow.level = false) (e : Src_) :
    (l.committed e).count = if l.clrcnt then 0 else e.count := by
  simp [IcuLease.committed, Src_.isLevel, h]

section
variable {s : State} {r : Requester} {l : IcuLease}

theorem State.icuAcquire_free (n : Nat) (h : s.icu.lease = none) : s.icuAcquire r n = { s with icu := { s.icu with
    source := n, lease := some ⟨reqCode r, n, s.src n, false, false, false, s.leaseFor s.lk.icuLease⟩ } } := by
  rw [State.icuAcquire, h]

theorem State.icuAcquire_held (n : Nat) (h : s.icu.lease = some l) : s.icuAcquire r n = s := by
  rw [State.icuAcquire, h]

theorem State.icuCommit_holder (h : s.icu.lease = some l) (howner : l.owner = reqCode r) :
    let t := s.setSrc l.src (l.committed (s.src l.src))
    s.icuCommit r = { t with icu := { t.icu with lease := none } } := by
  rw [State.icuCommit, h]
  exact if_neg fun hother => hother howner

theorem State.icuCommit_other (h : s.icu.lease = some l) (howner : l.owner ≠ reqCode r) : s.icuCommit r = s := by
  rw [State.icuCommit, h]
  exact if_pos howner

/-- COMMIT by the holder leaves every entry but that of its lease. -/
theorem State.icuCommit_src (h : s.icu.lease = some l) (howner : l.owner = reqCode r) :
    (s.srcExists l.src = true → (s.icuCommit r).src l.src = l.committed (s.src l.src)) ∧
    ∀ m, m ≠ l.src → (s.icuCommit r).src m = s.src m := by
  rw [State.icuCommit_holder h howner]
  exact ⟨fun hex => State.src_setSrc_same hex _, fun m hm => State.src_setSrc_other s _ hm⟩

theorem State.icuHolds_iff (h : s.icu.lease = some l) : s.icuHolds r = true ↔ l.owner = reqCode r := by
  rw [State.icuHolds, h]
  exact decide_eq_true_iff

theorem State.icuAbort_holder (h : s.icu.lease = some l) (howner : l.owner = reqCode r) :
    s.icuAbort r = { s with icu := { s.icu with lease := none } } := if_pos ((State.icuHolds_iff h).mpr howner)

theorem State.icuAbort_other (h : s.icu.lease = some l) (howner : l.owner ≠ reqCode r) : s.icuAbort r = s :=
  if_neg (mt (State.icuHolds_iff h).mp howner)

theorem State.icuBreak_held (h : s.icu.lease = some l) :
    s.icuBreak = { s with icu := { s.icu with lease := none, broken := satInc 255 s.icu.broken } } := by
  rw [State.icuBreak, h]

/-- A GO write of KIND 0 while BSU_LEASEBRK is not BUSY breaks the edit lease at once (R594, R595). -/
theorem State.leaseGo_icu (hidle : BreakFree s) (h : s.icu.lease = some l) (index : Nat) : s.leaseGo 0 index = { s with
    icu := { s.icu with lease := none, broken := satInc 255 s.icu.broken }, bsu := { s.bsu with brkKind := 0, brkIndex := index } } := by
  obtain ⟨hbrk, hjob, hpower⟩ := hidle
  simp [State.leaseGo, State.breakDue, State.leaseBreak, State.icuBreak, hbrk, hjob, hpower, h]

/-! ### The commands -/

theorem exec_icuEditAcquire {n : Nat} (hopen : RegOpen s r 0xE002) (hn : n < 8192) :
    exec (.icuEditAcquire r n) s = .next ((s.heard r).icuAcquire r n) := by
  change Host.Outcome.next _ = _
  rw [if_pos hn]
  exact congrArg Host.Outcome.next (State.writing_open hopen _)

theorem exec_icuEditCommit (hopen : RegOpen s r 0xE002) : exec (.icuEditCommit r) s = .next ((s.heard r).icuCommit r) :=
  congrArg Host.Outcome.next (State.writing_open hopen _)

theorem exec_icuEditAbort (hopen : RegOpen s r 0xE002) : exec (.icuEditAbort r) s = .next ((s.heard r).icuAbort r) :=
  congrArg Host.Outcome.next (State.writing_open hopen _)

theorem exec_icuLeaseExpiry (h : s.icu.lease = some l) (hover : s.leaseOver l.until_ = true) :
    exec .icuLeaseExpiry s = .next s.icuBreak := by
  change Host.Outcome.next _ = _
  rw [h]
  exact congrArg Host.Outcome.next (if_pos hover)

theorem exec_leaseBreakIcu (hopen : RegOpen s r 0x14028) :
    exec (.leaseBreakIcu r) s = .next ((s.heard r).leaseGo 0 s.bsu.brkIndex) := by
  rw [← s.heard_bsu r]
  exact congrArg Host.Outcome.next (State.writing_open hopen _)

end

/-- Settles O36: each clause reads what its operation leaves of the state that has heard the request. -/
theorem interruptEntryEditing : Obligations.InterruptEntryEditing := by
  refine ⟨fun s r n hopen hn hfree => ?_, fun s r l hopen hl howner => ?_, fun s r l hopen hl howner => ?_,
    fun s r n l hopen hn hl howner => ?_, fun s l hl hover => ?_, fun s r l hl hopen hidle => ?_⟩
  · rw [← s.heard_icu r] at hfree ⊢
    refine ⟨_, (s.heard r).leaseFor (s.heard r).lk.icuLease, exec_icuEditAcquire hopen hn, ?_⟩
    rw [State.icuAcquire_free n hfree, State.heard_src]
  · rw [← s.heard_icu r] at hl
    obtain ⟨hsrc, hothers⟩ := State.icuCommit_src hl howner
    simp only [State.heard_src, State.heard_srcExists] at hsrc hothers
    refine ⟨_, exec_icuEditCommit hopen, by rw [State.icuCommit_holder hl howner], fun hex => ?_, hothers⟩
    rw [hsrc hex]
    exact ⟨rfl, rfl, rfl, rfl, rfl, rfl, fun hedge => IcuLease.committed_count_edge hedge _⟩
  · rw [← s.heard_icu r] at hl ⊢
    exact ⟨_, exec_icuEditAbort hopen, by rw [State.icuAbort_holder hl howner]⟩
  · rw [← s.heard_icu r] at hl
    rw [exec_icuEditAcquire hopen hn, exec_icuEditCommit hopen, exec_icuEditAbort hopen, State.icuAcquire_held n hl,
      State.icuCommit_other hl howner, State.icuAbort_other hl howner]
    exact ⟨rfl, rfl, rfl⟩
  · rw [exec_icuLeaseExpiry hl hover, State.icuBreak_held hl]
  · have hfree : BreakFree (s.heard r) := by rwa [BreakFree, State.heard_bsu, State.heard_pmu]
    rw [← s.heard_icu r] at hl ⊢
    refine ⟨_, exec_leaseBreakIcu hopen, ?_⟩
    rw [State.leaseGo_icu hfree hl]
    exact ⟨rfl, rfl, rfl⟩

end Sys2Proof.Machine
end

section
/-!
PROOFS. What the requests of DRAM, the error records and the accesses of memory leave of the cores, and of the memory image.
-/

namespace Sys2Proof.Machine

open Sys2Proof Sys2Proof.Safety

/-! ### Signals and the requests of DRAM leave the cores and the memory image -/

/-- The cores, and the memory with its caches. -/
def State.coresMem (s : State) : Tbl Core × Mem := (s.cores, s.mem)

theorem State.coresMem_eq (s : State) : s.coresMem = (s.cores, s.mem) := rfl

theorem ite_coresMem (c : Prop) [Decidable c] (a b : State) : (if c then a else b).coresMem = if c then a.coresMem else b.coresMem := by
  split <;> rfl

theorem foldl_coresMem {α : Type} (f : State → α → State) (hf : ∀ s a, (f s a).coresMem = s.coresMem) (l : List α) (s : State) :
    (l.foldl f s).coresMem = s.coresMem :=
  List.foldlRecOn l f (motive := fun u => u.coresMem = s.coresMem) rfl fun u hu a _ => (hf u a).trans hu

theorem SourcesOnly.coresMem {s t : State} (h : SourcesOnly s t) : t.coresMem = s.coresMem := by
  obtain ⟨_, _, _, rfl⟩ := h
  rfl

theorem State.raise_coresMem (s : State) (n : Nat) : (s.raise n).coresMem = s.coresMem := by
  unfold State.raise
  rw [(SourcesOnly.lineEdge _ n).coresMem]
  unfold State.signal
  rw [ite_coresMem]
  exact ite_self _

theorem State.rhSchedule_coresMem (s : State) (c b r : Nat) : (s.rhSchedule c b r).coresMem = s.coresMem := by
  unfold State.rhSchedule
  grind [State.coresMem_eq, State.raise_coresMem, State.modChan_cores, State.modChan_mem]

theorem State.rhDraw_coresMem (s : State) (c b r : Nat) : (s.rhDraw c b r).coresMem = s.coresMem := by
  unfold State.rhDraw
  simp only [ite_coresMem, State.rhSchedule_coresMem]
  exact (ite_congr rfl (fun _ => rfl) fun _ => ite_self _).trans (ite_self _)

theorem State.rhPerform_coresMem (s : State) (c b : Nat) : (s.rhPerform c b).coresMem = s.coresMem := by
  unfold State.rhPerform
  split
  · rfl
  · simp only [ite_coresMem, State.rhDraw_coresMem, State.raise_coresMem, ite_self]
    rfl

theorem State.dramOpen_coresMem (s : State) (c b r : Nat) : (s.dramOpen c b r).coresMem = s.coresMem := by
  unfold State.dramOpen
  split
  · rfl
  · dsimp only
    rw [State.rhDraw_coresMem]
    exact foldl_coresMem _ (fun t _ => t.rhPerform_coresMem c b) _ _

theorem State.chanServe_coresMem (s : State) (c : Nat) : (s.chanServe c).coresMem = s.coresMem := by
  unfold State.chanServe
  split
  · exact State.dramOpen_coresMem ..
  · rfl

theorem State.serveWhile_coresMem (p : Chan → Bool) (c n : Nat) (s : State) : (State.serveWhile p c n s).coresMem = s.coresMem := by
  fun_induction State.serveWhile with
  | case1 => rfl
  | case2 n s h ih => exact ih.trans (s.chanServe_coresMem c)
  | case3 => rfl

theorem State.inOrder_coresMem (s : State) (c b r n : Nat) : (s.inOrder c b r n).coresMem = s.coresMem := by
  fun_induction State.inOrder with
  | case1 => rfl
  | case2 s n h x hx ih => exact ih.trans (State.dramOpen_coresMem ..)
  | case3 => rfl
  | case4 => rfl

theorem State.dramWrite_coresMem (s : State) (l : Nat) : (s.dramWrite l).coresMem = s.coresMem := State.serveWhile_coresMem ..

theorem State.dramRead_coresMem (s : State) (l : Nat) : (s.dramRead l).coresMem = s.coresMem := by
  unfold State.dramRead
  refine (State.dramOpen_coresMem ..).trans ((State.serveWhile_coresMem ..).trans ?_)
  rw [ite_coresMem, State.serveWhile_coresMem, State.inOrder_coresMem, ite_self]

/-! ### Error records and what an access leaves to be recorded: the cores stay -/

theorem State.raise_cores (s : State) (n : Nat) : (s.raise n).cores = s.cores := congrArg Prod.fst (s.raise_coresMem n)

theorem State.rasPut_cores (s : State) (r : ErrRec) : (s.rasPut r).cores = s.cores := by
  unfold State.rasPut
  dsimp only
  split
  · rfl
  · split <;> rfl

theorem State.rasNew_cores (s : State) (cls sev unit : Nat) (ctx tenant addr : Option Nat) (detail : Nat) :
    (s.rasNew cls sev unit ctx tenant addr detail).cores = s.cores :=
  (State.raise_cores _ cls).trans (State.rasPut_cores _ _)

theorem State.record_cores (s : State) (cls sev unit : Nat) (ctx tenant addr : Option Nat) (detail : Nat) :
    (s.record cls sev unit ctx tenant addr detail).cores = s.cores := by
  have hfresh : (State.record.fresh cls sev unit ctx tenant addr detail s).cores = s.cores := by
    unfold State.record.fresh
    dsimp only
    split
    · exact (State.rasNew_cores ..).trans (State.rasNew_cores ..)
    · exact State.rasNew_cores ..
  unfold State.record
  split
  · split
    · refine (State.raise_cores _ cls).trans ?_
      split <;> rfl
    · exact hfresh
  · exact hfresh

theorem State.noteOne_cores (s : State) (who : Option Nat) (n : MemNote) : (s.noteOne who n).cores = s.cores := by
  have hchan (t u : State) (b : Bool) (m : Nat) (h : u.cores = t.cores) : (if b then u.raise m else u).cores = t.cores := by
    split
    · exact (State.raise_cores ..).trans h
    · exact h
  cases n with
  | read l => exact congrArg Prod.fst (s.dramRead_coresMem l)
  | write l => exact congrArg Prod.fst (s.dramWrite_coresMem l)
  | dramCorrected l y => exact (State.record_cores ..).trans (hchan s _ _ _ rfl)
  | dramLost l => exact (State.record_cores ..).trans ((State.raise_cores ..).trans (hchan s _ _ _ rfl))
  | poisonRead l => exact (State.record_cores ..).trans ((State.raise_cores ..).trans (hchan s _ _ _ rfl))
  | link l => exact hchan s _ _ _ rfl
  | _ => exact State.record_cores ..

theorem State.noteRound_cores (s : State) (who : Option Nat) (l : Nat) : (s.noteRound who l).2.cores = s.cores :=
  List.foldlRecOn _ _ (motive := fun r : Option Nat × State => r.2.cores = s.cores) rfl
    fun r hr n _ => (r.2.noteOne_cores who n).trans hr

theorem State.noteAll_cores (s : State) (who : Option Nat) (l : Nat) : (s.noteAll who l).2.cores = s.cores :=
  List.foldlRecOn _ _ (motive := fun u : State => u.cores = s.cores) (s.noteRound_cores who l)
    fun u hu _ _ => (u.noteRound_cores none l).trans hu

theorem State.onMem_cores (s : State) (f : Mem → Mem) : (s.onMem f).cores = s.cores := State.noteAll_cores ..

theorem State.access_cores (s : State) (who : Option Nat) (unit l pa : Nat) (f : Mem → Mem) :
    (s.access who unit l pa f).2.cores = s.cores := by
  have hnote := State.noteAll_cores { s with mem := f s.mem } who l
  unfold State.access
  dsimp only
  split
  · exact hnote
  · split
    · exact hnote
    · exact (State.record_cores ..).trans hnote

end Sys2Proof.Machine
end

section
/-!
PROOFS. Cores in which no hardware error waits are stopped by nothing that their contexts do as their cluster enters EMBER (R606), and the
power state stays: long operations, exceptions, frames and the drain of the merging buffers reach neither the registers nor the PMU.
-/

namespace Sys2Proof.Machine

open Sys2Proof Sys2Proof.Safety

/-! ### Calm cores -/

/-- The core is not still to be offlined, and no entry of its merging buffer has bad parity (R364). -/
def Core.Sound (c : Core) : Prop := c.stop = [] ∧ ∀ e ∈ c.merge, e.bad = false

/-- The PMU is as `p` says, and every core is sound. -/
def Calm (p : Pmu) (s : State) : Prop := s.pmu = p ∧ ∀ e ∈ s.cores, e.2.Sound

theorem State.pmu_of_still {s u : State} (h : u.still = s.still) : u.pmu = s.pmu := congrArg (fun x => x.2.2.2.2.2.2.2.2.2.2.2.2.2.1) h

theorem Calm.of_unharmed {s : State} (h : Unharmed s) : Calm s.pmu s :=
  ⟨rfl, fun e he => ⟨(h.2 e he).1, (h.2 e he).2.2⟩⟩

theorem mem_tput {α : Type} {t : Tbl α} {k : Nat} {v : α} {e : Nat × α} (h : e ∈ tput t k v) : e ∈ t ∨ e = (k, v) := by
  induction t with
  | nil => exact .inr (List.mem_singleton.mp h)
  | cons a t ih => grind [tput]

theorem mem_tset {α : Type} [DecidableEq α] {d : α} {t : Tbl α} {k : Nat} {v : α} {e : Nat × α} (h : e ∈ tset d t k v) :
    e ∈ t ∨ e = (k, v) := by
  unfold tset at h
  split at h
  · exact .inl (List.mem_filter.mp h).1
  · exact mem_tput h

theorem forall_mem_modify {α : Type} {P : α → Prop} {f : α → α} (hf : ∀ a, P a → P (f a)) {l : List α} (h : ∀ a ∈ l, P a) (i : Nat) :
    ∀ a ∈ l.modify i f, P a := by
  induction l generalizing i with
  | nil => simp
  | cons b l ih =>
    obtain ⟨hb, hl⟩ := List.forall_mem_cons.mp h
    cases i with
    | zero => exact List.forall_mem_cons.mpr ⟨hf b hb, hl⟩
    | succ i => exact List.forall_mem_cons.mpr ⟨hb, ih hl i⟩

namespace Calm

variable {p : Pmu} {s : State}

theorem congr {t : State} (h : Calm p s) (hp : t.pmu = s.pmu) (hc : t.cores = s.cores) : Calm p t :=
  ⟨hp.trans h.1, hc ▸ h.2⟩

/-- What an operation that answers leaves, once its answer is known. -/
theorem of_eq {α : Type} {x : α × State} {a : α} {t : State} (h : Calm p x.2) (he : x = (a, t)) : Calm p t := by
  rwa [he] at h

theorem core (h : Calm p s) (k : Nat) : (s.core k).Sound := by
  rcases tget_mem {} s.cores k with hk | hk
  · rw [State.core, hk]
    exact ⟨rfl, nofun⟩
  · exact h.2 _ hk

theorem stopping (h : Calm p s) (n : Nat) : s.stopping n = false := by
  rw [State.stopping, (h.core (coreOf n)).1]
  rfl

theorem modCore (h : Calm p s) (k : Nat) {f : Core → Core} (hf : (f (s.core k)).Sound) : Calm p (s.modCore k f) := by
  refine ⟨h.1, fun e he => ?_⟩
  rcases mem_tset he with he | rfl
  · exact h.2 e he
  · exact hf

theorem modTlb (h : Calm p s) (k : Nat) (l : List TlbE) : Calm p (s.modCore k fun c => { c with tlb := l }) := h.modCore k (h.core k)

theorem modWalk (h : Calm p s) (k : Nat) (l : List TlbE) : Calm p (s.modCore k fun c => { c with walk := l }) := h.modCore k (h.core k)

theorem modCtx (h : Calm p s) (n : Nat) (f : Ctx → Ctx) : Calm p (s.modCtx n f) := h

theorem setCtx (h : Calm p s) (n : Nat) (c : Ctx) : Calm p (s.setCtx n c) := h

theorem draw (h : Calm p s) (m : Nat) : Calm p (s.draw m).2 := h

theorem raise (h : Calm p s) (n : Nat) : Calm p (s.raise n) :=
  h.congr (State.pmu_of_still (s.raise_still n)) (s.raise_cores n)

theorem record (h : Calm p s) (cls sev unit : Nat) (ctx tenant addr : Option Nat) (detail : Nat) :
    Calm p (s.record cls sev unit ctx tenant addr detail) :=
  h.congr (State.pmu_of_still (State.record_still ..)) (State.record_cores ..)

theorem errorResponse (h : Calm p s) (n pa : Nat) : Calm p (s.errorResponse n pa) := h.record ..

theorem onMem (h : Calm p s) (f : Mem → Mem) : Calm p (s.onMem f) :=
  h.congr (State.pmu_of_still (s.onMem_still f)) (s.onMem_cores f)

theorem access (h : Calm p s) (who : Option Nat) (unit l pa : Nat) (f : Mem → Mem) : Calm p (s.access who unit l pa f).2 :=
  h.congr (State.pmu_of_still (State.access_still ..)) (State.access_cores ..)

theorem foldl {α : Type} {f : State → α → State} {l : List α} (h : Calm p s) (hf : ∀ t, ∀ a ∈ l, Calm p t → Calm p (f t a)) :
    Calm p (l.foldl f s) :=
  List.foldlRecOn l f h fun t ht a ha => hf t a ha ht

/-! ### Translation (R340 to R345) -/

theorem fillTlb (h : Calm p s) (size : Nat) (t : List TlbE) (e : TlbE) : Calm p (s.fillTlb size t e).2 := by
  unfold State.fillTlb
  split
  · exact h
  · exact h.draw size

theorem tableRead (h : Calm p s) (n pa : Nat) : Calm p (s.tableRead n pa).2 := by
  unfold State.tableRead
  split
  · exact h.record ..
  · dsimp only
    split <;> (dsimp only; exact h.access ..)

theorem walk2 (h : Calm p s) (n b q ppn2 : Nat) (fill : Bool) : Calm p (s.walk2 n b q ppn2 fill).2 := by
  unfold State.walk2
  split
  · next he => exact (h.tableRead ..).of_eq he
  · next he =>
    have hread := (h.tableRead ..).of_eq he
    split
    · exact hread
    dsimp only
    split
    · exact hread
    · exact (hread.fillTlb ..).modTlb ..

theorem walk1 (h : Calm p s) (n b : Nat) (bl : Block) (q : Nat) (fill : Bool) : Calm p (s.walk1 n b bl q fill).2 := by
  unfold State.walk1
  dsimp only
  split
  · exact h
  split
  · next he => exact (h.tableRead ..).of_eq he
  · next he =>
    have hread := (h.tableRead ..).of_eq he
    split
    · exact hread
    split
    · exact hread
    split
    · exact hread.walk2 ..
    · exact ((hread.fillTlb ..).modWalk ..).walk2 ..

theorem oldOr (h : Calm p s) (n b idx : Nat) (t : List TlbE) : Calm p (s.oldOr n b idx t).2 := by
  unfold State.oldOr
  split
  · exact h
  · exact h.draw 2

theorem pageOf (h : Calm p s) (n b : Nat) (bl : Block) (q : Nat) : Calm p (s.pageOf n b bl q).2 := by
  unfold State.pageOf
  dsimp only
  split
  · exact h
  split
  · next he => exact (h.oldOr ..).of_eq he
  · next he =>
    have hold := (h.oldOr ..).of_eq he
    split
    · exact hold.walk2 ..
    split
    · next hw => exact ((hold.oldOr ..).of_eq hw).walk2 ..
    · next hw => exact ((hold.oldOr ..).of_eq hw).walk1 ..

theorem physOf (h : Calm p s) (n b : Nat) (bl : Block) (a : Nat) : Calm p (s.physOf n b bl a).2 := by
  unfold State.physOf
  split
  · dsimp only
    split <;> next he => exact (h.pageOf ..).of_eq he
  · exact h

theorem ownerStep (h : Calm p s) (n : Nat) (k : Cap) (q : Part1) : Calm p (s.ownerStep n k q).2 := by
  unfold State.ownerStep
  split
  · exact h
  · exact h.physOf ..

/-! ### Merging buffers (R214, R215, R360, R361) -/

theorem drainList (h : Calm p s) (k : Nat) {es : List MEntry} (hes : ∀ e ∈ es, e.bad = false) : Calm p (s.drainList k es).2 := by
  refine List.foldlRecOn es _ (motive := fun r : List Nat × State => Calm p r.2) h fun r hr e he => ?_
  rw [hes e he]
  split
  · exact hr
  · rw [if_neg Bool.false_ne_true]
    dsimp only
    exact hr.onMem _

theorem drainSome (h : Calm p s) (k : Nat) {es rest : List MEntry} (hes : ∀ e ∈ es, e.bad = false) (hrest : ∀ e ∈ rest, e.bad = false) :
    Calm p (s.drainSome k es rest) := by
  have hlist := h.drainList k hes
  exact hlist.modCore k ⟨(hlist.core k).1, fun e he => hrest e (List.mem_filter.mp he).1⟩

/-- Entries chosen of a merging buffer drain, and others of them stay. -/
theorem drainFilter (h : Calm p s) (k : Nat) (f g : MEntry → Bool) :
    Calm p (s.drainSome k ((s.core k).merge.filter f) ((s.core k).merge.filter g)) :=
  h.drainSome k (fun e he => (h.core k).2 e (List.mem_filter.mp he).1) fun e he => (h.core k).2 e (List.mem_filter.mp he).1

theorem drainCtx (h : Calm p s) (n : Nat) : Calm p (s.drainCtx n) := h.drainFilter ..

theorem drainCore (h : Calm p s) (k : Nat) : Calm p (s.drainCore k) := h.drainSome k (h.core k).2 nofun

theorem showLine (h : Calm p s) (n l : Nat) : Calm p (s.showLine n l) := by
  refine h.foldl fun t e _ ht => ?_
  dsimp only
  split
  · exact ht.draw 2
  · exact (ht.draw 2).drainFilter ..

theorem badEntry (h : Calm p s) (n pa len : Nat) : s.badEntry n pa len = none := by
  refine List.find?_eq_none.mpr fun e he => ?_
  rw [(h.core (coreOf n)).2 e.1 (List.fst_mem_of_mem_zipIdx he)]
  simp

theorem makeEligible (h : Calm p s) (n : Nat) : Calm p (s.makeEligible n) := by
  refine h.modCore _ ⟨(h.core _).1, fun e he => ?_⟩
  obtain ⟨f, hf, rfl⟩ := List.mem_map.mp he
  have hbad := (h.core _).2 f hf
  split <;> exact hbad

theorem bufferStore_alloc (h : Calm p s) (n line off : Nat) (bs : List Byte) (capW : List Nat) (va : Word) (stream : Bool)
    (frame : Option (Nat × Word)) (k : Nat) : Calm p (State.bufferStore.alloc n line off bs capW va stream frame s k) := by
  unfold State.bufferStore.alloc
  dsimp only
  generalize hs1 : (if 8 ≤ (s.core k).merge.length then _ else s) = s1
  have hroom : Calm p s1 := by
    rw [← hs1]
    split
    · exact h.drainSome k (fun e he => (h.core k).2 e (List.mem_of_mem_take he)) fun e he => (h.core k).2 e (List.mem_of_mem_drop he)
    · exact h
  have hall (b : MEntry) (hb : b.bad = false) :
      ∀ e ∈ (s1.core k).merge.map (fun e => if e.ctx = n then { e with elig := true } else e) ++ [b], e.bad = false := by
    intro e he
    rcases List.mem_append.mp he with he | he
    · obtain ⟨f, hf, rfl⟩ := List.mem_map.mp he
      have hbad := (hroom.core k).2 f hf
      split <;> exact hbad
    · rwa [List.mem_singleton.mp he]
  refine hroom.modCore k ⟨(hroom.core k).1, ?_⟩
  dsimp only
  split
  · exact List.forall_mem_map.mpr (hall _ rfl)
  · exact hall _ rfl

theorem bufferStore (h : Calm p s) (n line off : Nat) (bs : List Byte) (capW : List Nat) (va : Word) (stream : Bool)
    (frame : Option (Nat × Word)) : Calm p (s.bufferStore n line off bs capW va stream frame) := by
  unfold State.bufferStore
  dsimp only
  split
  · split
    · refine h.modCore _ ⟨(h.core _).1, ?_⟩
      refine forall_mem_modify (fun e he => ?_) (h.core _).2 _
      exact he
    · exact h.bufferStore_alloc ..
  · exact h.bufferStore_alloc ..

/-! ### Loads and stores of block instructions (R174, R241): register space answers them with an error -/

theorem readPart (h : Calm p s) (n : Nat) (q : Part1) (pa : Nat) (second : Bool) : Calm p (s.readPart n q pa second).2 := by
  unfold State.readPart
  split
  · exact h.errorResponse ..
  dsimp only
  generalize hs0 : (if second then s.showLine n (pa / 48) else s) = s0
  have hshown : Calm p s0 := by
    rw [← hs0]
    split
    · exact h.showLine ..
    · exact h
  rw [hshown.badEntry]
  dsimp only
  generalize hr : (if s0.forwarded n pa q.len then _ else _ : Option Nat × State) = r
  have hread : Calm p r.2 := by
    rw [← hr]
    split
    · dsimp only
      exact hshown.onMem _
    · exact hshown.access ..
  split <;> exact hread

theorem loadPart (h : Calm p s) (n : Nat) (k : Cap) (q : Part1) (second : Bool) : Calm p (s.loadPart n k q second).2 := by
  unfold State.loadPart
  split
  · next he => exact (h.ownerStep ..).of_eq he
  · next he =>
    have howner := (h.ownerStep ..).of_eq he
    split <;> next hr => exact (howner.readPart ..).of_eq hr

theorem deviceLoad (h : Calm p s) (n : Nat) (k : Cap) (q : Part1) : Calm p (s.deviceLoad n k q false).2 := by
  unfold State.deviceLoad
  split
  · next he => exact (h.ownerStep ..).of_eq he
  · next he =>
    have hready := ((h.ownerStep ..).of_eq he).drainCtx n
    simp only [State.deviceReady, hready.stopping, Bool.false_eq_true, if_false, false_and]
    exact hready.errorResponse ..

theorem load (h : Calm p s) (n : Nat) (k : Cap) (perms : List Nat) (ea size align : Nat) :
    Calm p (s.load n k perms ea size align false).2 := by
  unfold State.load
  split
  · exact h
  split
  · exact h
  · split
    · exact h.deviceLoad ..
    · split <;> next he => exact (h.loadPart ..).of_eq he
  · split
    · next he => exact (h.loadPart ..).of_eq he
    · next he => split <;> next hq => exact (((h.loadPart ..).of_eq he).loadPart ..).of_eq hq
  · exact h

theorem storePart (h : Calm p s) (n : Nat) (k : Cap) (ea : Nat) (q : Part1) (bs : List Byte) (capW : Bool) :
    Calm p (s.storePart n k ea q bs capW).2 := by
  unfold State.storePart
  split
  · next he => exact (h.ownerStep ..).of_eq he
  · next he =>
    have howner := (h.ownerStep ..).of_eq he
    split
    · exact howner.errorResponse ..
    · exact howner.bufferStore ..

theorem deviceStore (h : Calm p s) (n : Nat) (k : Cap) (q : Part1) (bs : List Byte) : Calm p (s.deviceStore n k q bs false).2 := by
  unfold State.deviceStore
  split
  · next he => exact (h.ownerStep ..).of_eq he
  · next he =>
    have hready := ((h.ownerStep ..).of_eq he).drainCtx n
    simp only [State.deviceReady, hready.stopping, Bool.false_eq_true, if_false, false_and]
    exact hready.errorResponse ..

theorem store (h : Calm p s) (n : Nat) (k : Cap) (perms : List Nat) (ea align : Nat) (bs : List Byte) (capW : Bool) :
    Calm p (s.store n k perms ea align bs capW false).2 := by
  unfold State.store
  split
  · exact h
  split
  · exact h
  · split
    · exact h.deviceStore ..
    · split <;> next he => exact (h.storePart ..).of_eq he
  · split
    · next he => exact (h.storePart ..).of_eq he
    · next he => split <;> next hq => exact (((h.storePart ..).of_eq he).storePart ..).of_eq hq
  · exact h

/-! ### Long operations (R146, R174, R279) -/

theorem blkStep (h : Calm p s) (n : Nat) (k : Cap) (kd : BlkKind) (q : BlkProg) : Calm p (s.blkStep n k kd q).2 := by
  cases kd with
  | move =>
    unfold State.blkStep
    dsimp only
    split
    · next he => exact (h.load ..).of_eq he
    · next he => split <;> next hs => exact (((h.load ..).of_eq he).store ..).of_eq hs
  | fill =>
    unfold State.blkStep
    dsimp only
    split <;> next he => exact (h.store ..).of_eq he
  | match_ =>
    unfold State.blkStep
    dsimp only
    split
    · next he => exact (h.load ..).of_eq he
    · next he => split <;> exact (h.load ..).of_eq he

theorem blkRun (h : Calm p s) (n : Nat) (k : Cap) (kd : BlkKind) (m : Nat) (q : BlkProg) : Calm p (s.blkRun n k kd m q).2.2 := by
  induction m generalizing s q with
  | zero => exact h
  | succ m ih =>
    unfold State.blkRun
    split
    · exact h
    split
    · next he => exact (h.blkStep ..).of_eq he
    · next he => exact ih ((h.blkStep ..).of_eq he) _

theorem vendorMicro (h : Calm p s) (n : Nat) (kd : BlkKind) : Calm p (s.vendorMicro n kd).2 := by
  unfold State.vendorMicro
  dsimp only
  generalize hr : (List.range 8).foldl (fun (e : List Word × State) _ => (e.1 ++ [word (e.2.draw (2 ^ 36)).1], (e.2.draw (2 ^ 36)).2)) ([], s) = r
  have hdrawn : Calm p r.2 := by
    rw [← hr]
    exact List.foldlRecOn _ _ (motive := fun e : List Word × State => Calm p e.2) h fun e he _ _ => he.draw (2 ^ 36)
  split
  · exact hdrawn
  split
  · exact hdrawn
  · dsimp only
    exact hdrawn.draw _

theorem blkGo (h : Calm p s) (n : Nat) (addr : Word) (kd : BlkKind) (o : BlkOp) (m : Nat) : Calm p (s.blkGo n addr kd o m).2 := by
  unfold State.blkGo
  dsimp only
  split
  · exact h
  have hrun := h.blkRun n ((s.ctx n).kget o.auth) kd (min m (((s.ctx n).gget o.c).toNat / blkUnit kd))
    ⟨(s.ctx n).gget o.a, (s.ctx n).gget o.b, (s.ctx n).gget o.c, false⟩
  generalize s.blkRun n ((s.ctx n).kget o.auth) kd (min m (((s.ctx n).gget o.c).toNat / blkUnit kd))
    ⟨(s.ctx n).gget o.a, (s.ctx n).gget o.b, (s.ctx n).gget o.c, false⟩ = r at hrun ⊢
  split
  · exact (hrun.modCtx n _).vendorMicro n kd
  · split
    · exact (hrun.modCtx n _).modCtx n _
    · exact hrun.modCtx n _

theorem runLong (h : Calm p s) (n : Nat) (op : LongOp) : Calm p (s.runLong n op).2 := by
  unfold State.runLong
  dsimp only
  split
  · exact h.setCtx ..
  · split
    · exact h
    · exact h.setCtx ..
  · split
    · exact h
    · exact h.setCtx ..
  · split
    · exact h.setCtx ..
    · split <;> exact h.setCtx ..
  · exact h.blkGo ..

theorem finishHead (h : Calm p s) (n : Nat) (next : Word) : Calm p (s.finishHead n next).2 := by
  unfold State.finishHead
  split
  · exact h
  · dsimp only
    split <;> next he => exact (((h.modCtx n _).runLong n _).of_eq he).modCtx n _

theorem settleAll (h : Calm p s) (n : Nat) (next : Word) : Calm p (s.settleAll n next).2 := by
  unfold State.settleAll
  split
  · next he => exact (h.finishHead ..).of_eq he
  · next he => exact ((h.finishHead ..).of_eq he).finishHead ..

/-! ### Exceptions and their frames (R255, R269, R288) -/

theorem returnHeld (h : Calm p s) (n : Nat) : Calm p (s.returnHeld n) := by
  unfold State.returnHeld State.setSrc
  split
  · exact h
  · dsimp only
    split <;> exact h

theorem wedge (h : Calm p s) (n reason cause : Nat) (addr : Word) (eret : Bool) : Calm p (s.wedge n reason cause addr eret) :=
  ((h.returnHeld n).modCtx n _).raise 16

theorem frameLine (h : Calm p s) (n : Nat) (own : Bool) (va : Nat) : Calm p (s.frameLine n own va).2 := by
  unfold State.frameLine
  dsimp only
  split
  · exact h
  split
  · exact h
  split
  · exact h
  split
  · next he => exact (h.physOf ..).of_eq he
  · next he =>
    have hphys := (h.physOf ..).of_eq he
    split
    · exact hphys.errorResponse ..
    · split <;> (dsimp only; exact hphys.access ..)

theorem frameLines (h : Calm p s) (n : Nat) (own : Bool) (l : List Nat) : Calm p (s.frameLines n own l).2 := by
  induction l generalizing s with
  | nil => exact h
  | cons va l ih =>
    have hrest := ih (h.frameLine n own va)
    unfold State.frameLines
    dsimp only
    split <;> exact hrest

theorem frameAt (h : Calm p s) (n : Nat) (own : Bool) (lo : Int) : Calm p (s.frameAt n own lo).2 := by
  unfold State.frameAt
  split
  · exact h
  · exact h.frameLines ..

theorem pushFrame (h : Calm p s) (n : Nat) (lines : List (Nat × Bool)) (bs : List Byte) (tags : List Nat) (va : Nat) (why : Nat × Word) :
    Calm p (s.pushFrame n lines bs tags va why) :=
  h.foldl fun _ _ _ ht => ht.bufferStore ..

theorem enter (h : Calm p s) (n : Nat) (e : Exc) : Calm p (s.enter n e) := by
  have hframe := ((h.makeEligible n).modCtx n fun c => { c with pendAsync := if e.async then c.pendAsync.drop 1 else c.pendAsync }).frameAt n true
    (((s.ctx n).esc.cursor.toNat : Int) - 144)
  unfold State.enter
  rw [if_neg (by simp [h.stopping])]
  dsimp only
  split
  · exact hframe.wedge ..
  split
  · exact hframe.wedge ..
  · exact (hframe.pushFrame ..).congr rfl rfl

theorem takeExc (h : Calm p s) (n : Nat) (e : Exc) : Calm p (s.takeExc n e) := by
  unfold State.takeExc
  split <;> next he => exact ((h.settleAll ..).of_eq he).enter ..

/-! ### The stop of a cluster (R606) -/

theorem emberCtx (h : Calm p s) (n : Nat) : Calm p (s.emberCtx n) := by
  have hleft : Calm p (s.leaveWaiting n) := h
  unfold State.emberCtx
  dsimp only
  split
  · exact hleft
  split
  · split
    · exact hleft.takeExc ..
    · exact hleft
  · split
    · next he => exact ((hleft.settleAll ..).of_eq he).enter ..
    · next he => exact (hleft.settleAll ..).of_eq he

/-- No core of a calm state is to be offlined. -/
theorem stopCores (h : Calm p s) : s.stopCores = s :=
  if_pos (List.all_eq_true.mpr fun e he => by rw [(h.2 e he).1]; rfl)

theorem emberSteps (h : Calm p s) (k : Nat) : Calm p (s.emberSteps k) := by
  have hstop : Calm p ((s.each (ctxsOf k) State.emberCtx).each (coresOf k) State.drainCore) :=
    (h.foldl fun _ n _ ht => ht.emberCtx n).foldl fun _ j _ ht => ht.drainCore j
  rw [State.emberSteps, hstop.stopCores]
  exact hstop

end Calm

end Sys2Proof.Machine
end

section
/-!
PROOFS. The thermal hold (R606, R607, R665) and the crossings (R620, R622): what a change of a cluster's power state leaves of the PMU, the
trip cluster by cluster, the end of the hold, and the commands.
-/

namespace Sys2Proof.Machine

open Sys2Proof Sys2Proof.Safety

/-! ### A cluster changes its power state (R619, R624) -/

/-- The thermal hold, the trip, and the alert pin. -/
def Pmu.thermal (p : Pmu) : Tbl (Option CluPower) × Bool × Bool := (p.hold, p.tripHold, p.alert)

theorem State.elapse_counters (s : State) :
    ∃ fr dev clu, s.elapse = { s with free := fr, pmu := { s.pmu with resDev := dev, resCl := clu } } := by
  unfold State.elapse
  dsimp only
  split
  · exact ⟨_, _, _, rfl⟩
  · exact ⟨_, _, _, rfl⟩

/-- A cluster that changes state moves, of the PMU, its own state and the residency counters. -/
theorem State.setClu_changes {s : State} {k : Nat} {p : CluPower} (h : s.cluPower k ≠ some p) : ∃ dev clu,
    (s.setClu k p).pmu = { s.pmu with resDev := dev, resCl := clu, clus := tset none s.pmu.clus k (some p) } ∧
      (s.setClu k p).cores = s.cores := by
  obtain ⟨fr, dev, clu, he⟩ := s.elapse_counters
  refine ⟨dev, clu, ?_⟩
  unfold State.setClu
  rw [if_neg h, he]
  dsimp only
  rw [State.pmu_of_still (State.raise_still _ 401), State.raise_cores]
  split <;> exact ⟨rfl, rfl⟩

theorem State.setClu_same {s : State} {k : Nat} {p : CluPower} (h : s.cluPower k = some p) : s.setClu k p = s := if_pos h

theorem State.setClu_cores (s : State) (k : Nat) (p : CluPower) : (s.setClu k p).cores = s.cores := by
  by_cases h : s.cluPower k = some p
  · rw [State.setClu_same h]
  · obtain ⟨_, _, _, hcores⟩ := State.setClu_changes h
    exact hcores

theorem State.setClu_thermal (s : State) (k : Nat) (p : CluPower) : (s.setClu k p).pmu.thermal = s.pmu.thermal := by
  by_cases h : s.cluPower k = some p
  · rw [State.setClu_same h]
  · obtain ⟨_, _, hpmu, _⟩ := State.setClu_changes h
    rw [hpmu]
    rfl

theorem State.setClu_cluPower (s : State) (k : Nat) (p : CluPower) (i : Nat) :
    (s.setClu k p).cluPower i = if i = k then some p else s.cluPower i := by
  by_cases h : s.cluPower k = some p
  · rw [State.setClu_same h]
    split
    · next hi => rw [hi, h]
    · rfl
  · obtain ⟨_, _, hpmu, _⟩ := State.setClu_changes h
    rw [State.cluPower, hpmu]
    exact tget_tset none s.pmu.clus k (some p) i

theorem State.cluPower_congr {s t : State} (h : t.pmu = s.pmu) (k : Nat) : t.cluPower k = s.cluPower k := by
  rw [State.cluPower, State.cluPower, h]

/-! ### A cluster that runs again (R607): of the PMU its power state alone changes -/

theorem State.each_pmu {f : State → Nat → State} (hf : ∀ t a, (f t a).pmu = t.pmu) (l : List Nat) (s : State) : (s.each l f).pmu = s.pmu :=
  State.each_keeps (P := fun u => u.pmu = s.pmu) rfl fun u a _ hu => (hf u a).trans hu

theorem State.setSrc_pmu (s : State) (n : Nat) (e : Src_) : (s.setSrc n e).pmu = s.pmu := State.pmu_of_still (s.setSrc_still n e)

theorem State.returnHeld_pmu (s : State) (n : Nat) : (s.returnHeld n).pmu = s.pmu := by
  unfold State.returnHeld
  split
  · rfl
  · exact State.setSrc_pmu ..

theorem State.clearStack_pmu (s : State) (n : Nat) : (s.clearStack n).pmu = s.pmu :=
  List.foldlRecOn (s.ctx n).stack _ (motive := fun u : State => u.pmu = s.pmu) rfl fun _ hu _ _ => (State.setSrc_pmu ..).trans hu

theorem State.freeCoaches_pmu (s : State) (n : Nat) : (s.freeCoaches n).pmu = s.pmu :=
  List.foldlRecOn (s.ctx n).coaches _ (motive := fun u : State => u.pmu = s.pmu) rfl fun _ hu _ _ => hu

theorem State.restartNow_pmu (s : State) (n : Nat) : (s.restartNow n).pmu = s.pmu :=
  (State.freeCoaches_pmu ..).trans ((State.clearStack_pmu ..).trans (s.returnHeld_pmu n))

theorem State.alarmEnds_pmu (s : State) (n : Nat) : (s.alarmEnds n).pmu = s.pmu := by
  unfold State.alarmEnds
  dsimp only
  split
  · rfl
  · split <;> rfl

theorem State.cluRun_pmu (s : State) (k : Nat) : (s.cluRun k).pmu = (s.setClu k .run).pmu :=
  (State.each_pmu State.alarmEnds_pmu ..).trans (State.each_pmu State.restartNow_pmu ..)

theorem State.cluRun_thermal (s : State) (k : Nat) : (s.cluRun k).pmu.thermal = s.pmu.thermal := by
  rw [State.cluRun_pmu, State.setClu_thermal]

theorem State.cluRun_cluPower (s : State) (k i : Nat) : (s.cluRun k).cluPower i = if i = k then some .run else s.cluPower i := by
  rw [State.cluPower_congr (s.cluRun_pmu k), State.setClu_cluPower]

/-- The end of the hold releases hold, trip and pin, and the clusters that were running when they were held run again. -/
theorem State.holdEnd_releases (s : State) : s.holdEnd.pmu.thermal = ([], false, false) ∧
    ∀ k, (k, some .run) ∈ s.pmu.hold → s.holdEnd.cluPower k = some .run := by
  unfold State.holdEnd
  dsimp only
  refine ⟨State.each_keeps (P := fun u => u.pmu.thermal = ([], false, false)) rfl fun u k _ hu => (u.cluRun_thermal k).trans hu, fun k hk => ?_⟩
  have hmem : k ∈ (s.pmu.hold.filter fun e => decide (e.2 = some .run)).map (·.1) :=
    List.mem_map_of_mem (List.mem_filter.mpr ⟨hk, by simp⟩)
  refine State.each_reaches (I := fun _ => True) (P := fun k u => u.cluPower k = some .run) (fun _ _ _ => trivial)
    (fun u a _ => by rw [State.cluRun_cluPower, if_pos rfl]) (fun u a i _ hi => ?_) trivial (.inl hmem)
  rw [State.cluRun_cluPower, hi, ite_self]

/-! ### The trip (R665) -/

/-- A running cluster of calm cores enters EMBER (R606): from a state with the same PMU its power state changes. -/
theorem Calm.cluEmber {s : State} {k : Nat} (h : Calm s.pmu s) (hrun : s.cluPower k = some .run) :
    ∃ t : State, t.pmu = s.pmu ∧ Calm t.pmu t ∧ s.cluEmber k = t.setClu k .ember := by
  obtain ⟨hpmu, hcores⟩ := h.emberSteps k
  refine ⟨s.emberSteps k, hpmu, ⟨rfl, hcores⟩, ?_⟩
  unfold State.cluEmber
  dsimp only
  rw [if_pos ((State.cluPower_congr hpmu k).trans hrun)]

/-- A cluster enters the hold of a trip, as the trip does it cluster by cluster. -/
def State.tripCluster (s : State) (k : Nat) : State :=
  let was := s.cluPower k
  let s2 := if was = some .run then s.cluEmber k else s
  if s2.cluPower k = some .ember then { s2 with pmu := { s2.pmu with hold := tset none s2.pmu.hold k was } } else s2

/-- The clusters that a trip holds: those in RUN and EMBER. -/
def State.tripped (s : State) : List Nat :=
  (List.range (Config.clusters s.hw.variant)).filter fun k => decide (s.cluPower k = some .run) || decide (s.cluPower k = some .ember)

theorem State.trip_eq (s : State) (tj : Nat) : s.trip tj = State.record
    { s.each s.tripped State.tripCluster with pmu := { (s.each s.tripped State.tripCluster).pmu with tripHold := true } }
    10 2 unitPmu none none none (tj % 256) := rfl

theorem State.mem_tripped {s : State} {k : Nat} : k ∈ s.tripped ↔
    k < Config.clusters s.hw.variant ∧ (s.cluPower k = some .run ∨ s.cluPower k = some .ember) := by
  simp [State.tripped]

/-- A cluster in RUN or EMBER is in EMBER, held in the state it had; every other cluster stays as it was. -/
theorem Calm.tripCluster {s : State} {k : Nat} (h : Calm s.pmu s) (hk : s.cluPower k = some .run ∨ s.cluPower k = some .ember) :
    Calm (s.tripCluster k).pmu (s.tripCluster k) ∧
    (∀ i, (s.tripCluster k).cluPower i = if i = k then some .ember else s.cluPower i) ∧
    ∀ i, tget none (s.tripCluster k).pmu.hold i = if i = k then s.cluPower k else tget none s.pmu.hold i := by
  obtain ⟨t, hcalm, hpower, hhold, he⟩ : ∃ t : State, Calm t.pmu t ∧ (∀ i, t.cluPower i = if i = k then some .ember else s.cluPower i) ∧
      t.pmu.hold = s.pmu.hold ∧ s.tripCluster k = { t with pmu := { t.pmu with hold := tset none t.pmu.hold k (s.cluPower k) } } := by
    rcases hk with hrun | hember
    · obtain ⟨t, hpmu, hcalm, ht⟩ := h.cluEmber hrun
      refine ⟨s.cluEmber k, ?_, fun i => ?_, ?_, ?_⟩
      · rw [ht]
        exact ⟨rfl, (t.setClu_cores k .ember).symm ▸ hcalm.2⟩
      · rw [ht, State.setClu_cluPower, State.cluPower_congr hpmu]
      · rw [ht]
        exact (congrArg Prod.fst (t.setClu_thermal k .ember)).trans (by rw [hpmu]; rfl)
      · have hnow : (s.cluEmber k).cluPower k = some .ember := by rw [ht, State.setClu_cluPower, if_pos rfl]
        simp only [State.tripCluster, hrun, if_true, hnow]
    · refine ⟨s, h, fun i => ?_, rfl, ?_⟩
      · split
        · next hi => rw [hi, hember]
        · rfl
      · simp only [State.tripCluster, hember, reduceCtorEq, Option.some.injEq, if_false, if_true]
  rw [he]
  refine ⟨⟨rfl, hcalm.2⟩, hpower, fun i => ?_⟩
  rw [← hhold]
  exact tget_tset ..

theorem Calm.tripClusters {l : List Nat} (hl : l.Nodup) {s : State} (h : Calm s.pmu s)
    (hall : ∀ k ∈ l, s.cluPower k = some .run ∨ s.cluPower k = some .ember) :
    (∀ i ∈ l, (s.each l State.tripCluster).cluPower i = some .ember ∧ tget none (s.each l State.tripCluster).pmu.hold i = s.cluPower i) ∧
    ∀ i, i ∉ l → (s.each l State.tripCluster).cluPower i = s.cluPower i ∧
      tget none (s.each l State.tripCluster).pmu.hold i = tget none s.pmu.hold i := by
  induction l generalizing s with
  | nil => exact ⟨nofun, fun i _ => ⟨rfl, rfl⟩⟩
  | cons k l ih =>
    obtain ⟨hk, hl⟩ := List.nodup_cons.mp hl
    obtain ⟨hcalm, hpower, hhold⟩ := h.tripCluster (hall k List.mem_cons_self)
    have hother {i : Nat} (hi : i ≠ k) : (s.tripCluster k).cluPower i = s.cluPower i ∧
        tget none (s.tripCluster k).pmu.hold i = tget none s.pmu.hold i := by
      rw [hpower, hhold, if_neg hi, if_neg hi]
      exact ⟨rfl, rfl⟩
    have hne {i : Nat} (hi : i ∈ l) : i ≠ k := fun e => hk (e ▸ hi)
    obtain ⟨hin, hout⟩ := ih hl hcalm fun i hi => by
      rw [(hother (hne hi)).1]
      exact hall i (List.mem_cons_of_mem k hi)
    refine ⟨fun i hi => ?_, fun i hi => ?_⟩
    · rcases List.mem_cons.mp hi with rfl | hi
      · have hlast := hout i hk
        rw [hpower, hhold, if_pos rfl, if_pos rfl] at hlast
        exact hlast
      · have hlast := hin i hi
        rw [(hother (hne hi)).1] at hlast
        exact hlast
    · obtain ⟨hik, hil⟩ := not_or.mp (mt List.mem_cons.mpr hi)
      have hlast := hout i hil
      rw [(hother hik).1, (hother hik).2] at hlast
      exact hlast

theorem State.trip_holds {s : State} (h : Unharmed s) (tj : Nat) : (s.trip tj).pmu.tripHold = true ∧
    ∀ i, i < Config.clusters s.hw.variant → s.cluPower i = some .run ∨ s.cluPower i = some .ember →
      (s.trip tj).cluPower i = some .ember ∧ tget none (s.trip tj).pmu.hold i = s.cluPower i := by
  have hpmu : (s.trip tj).pmu = { (s.each s.tripped State.tripCluster).pmu with tripHold := true } := by
    rw [State.trip_eq]
    exact State.pmu_of_still (State.record_still ..)
  obtain ⟨hin, -⟩ := (Calm.of_unharmed h).tripClusters (List.nodup_range.filter _) (l := s.tripped) fun k hk => (State.mem_tripped.mp hk).2
  refine ⟨by rw [hpmu], fun i hi hp => ?_⟩
  rw [State.cluPower, hpmu]
  exact hin i (State.mem_tripped.mpr ⟨hi, hp⟩)

/-! ### Crossings (R620, R622) -/

theorem State.fabTimeout_glb (s : State) (g : Nat) : (s.fabTimeout g).glb = { s.glb with
    cdcTimeouts := tset 0 s.glb.cdcTimeouts g (satInc 511 (tget 0 s.glb.cdcTimeouts g)), cdcWedged := tset false s.glb.cdcWedged g true } := by
  unfold State.fabTimeout
  dsimp only
  split
  · exact State.glb_of_still (State.record_still ..)
  · exact (State.glb_of_still (State.record_still ..)).trans (State.glb_of_still (State.record_still ..))

/-! ### The commands -/

theorem exec_thermalAlert_ignored {s : State} {tj : Nat} (h : s.pmu.alert = true ∨ tj < s.lk.talert) : Ignored (.thermalAlert tj) s := by
  refine congrArg Host.Outcome.next (if_pos ?_)
  rcases h with h | h <;> simp [h]

theorem exec_thermalAlert {s : State} {tj : Nat} (hdev : s.pmu.dev = .run) (hoff : s.pmu.alert = false) (hhot : s.lk.talert ≤ tj) :
    exec (.thermalAlert tj) s =
      .next (({ s with pmu := { s.pmu with alert := true } } : State).record 10 0 unitPmu none none none (tj % 256)) :=
  congrArg Host.Outcome.next (if_neg (by simp [hdev, hoff, hhot]))

theorem exec_thermalTrip_ignored {s : State} {tj : Nat} (h : tj < 115 ∨ s.pmu.tripHold = true) : Ignored (.thermalTrip tj) s := by
  refine congrArg Host.Outcome.next (if_pos ?_)
  rcases h with h | h <;> simp [h]

theorem exec_thermalTrip {s : State} {tj : Nat} (hdev : s.pmu.dev = .run) (hhot : 115 ≤ tj) (hfree : s.pmu.tripHold = false) :
    exec (.thermalTrip tj) s = .next (s.trip tj) :=
  congrArg Host.Outcome.next (if_neg (by simp [hdev, hfree, hhot]))

theorem exec_fabricTimeout {s : State} {g : Nat} (hg : g < 45) (hdev : s.pmu.dev = .run) :
    exec (.fabricTimeout g) s = .next (s.fabTimeout g) :=
  congrArg Host.Outcome.next (if_pos ⟨hg, hdev⟩)

theorem exec_crossingFlush {s : State} {g : Nat} (hg : g < 45) (hdev : s.pmu.dev = .run) : exec (.crossingFlush g) s =
    .next { s with glb := { s.glb with cdcResets := tset 0 s.glb.cdcResets g (satInc 511 (tget 0 s.glb.cdcResets g)) } } :=
  congrArg Host.Outcome.next (if_pos ⟨hg, hdev⟩)

end Sys2Proof.Machine
end

section
/-!
PROOFS. The change of a scratch bank (R383): in a memory in which no error waits, what is read from homes and written to them leaves every
word as it is, and the DRAM requests that remain record nothing.
-/

namespace Sys2Proof.Machine

open Sys2Proof Sys2Proof.Safety

/-! ### A memory in which no error waits -/

/-- The note tells of a request of DRAM, and of no error. -/
def MemNote.Request (n : MemNote) : Prop := ∃ l, n = .read l ∨ n = .write l

/-- No error waits in a copy of a line, no channel is offlined, no copy and no home is poisoned, and what waits to be counted is requests. -/
structure Mem.Clear (m : Mem) : Prop where
  upsets : m.upsets = []
  gone : m.gone = []
  poison : ∀ l, m.poisoned l = false
  stale : ∀ l h, tget none m.stale l = some h → h.bad = false
  mid : ∀ l h, tget none m.mid l = some h → h.bad = false
  notes : ∀ n ∈ m.notes, n.Request

theorem Mem.Clear.of_noErrors {s : State} (h : NoErrors s) : s.mem.Clear := by
  obtain ⟨⟨hups, -⟩, hgone, hnotes, hpoison, hstale, hmid⟩ := h
  exact ⟨hups, hgone, hpoison, hstale, hmid, by simp [hnotes]⟩

/-- From `m` to `n` no error comes to wait, and the words and the scratch banks stay. -/
structure Mem.Unseen (m n : Mem) : Prop where
  clear : n.Clear
  word : ∀ w, n.word w = m.word w
  banks : n.scBank = m.scBank

namespace Mem.Unseen

theorem refl {m : Mem} (h : m.Clear) : Mem.Unseen m m := ⟨h, fun _ => rfl, rfl⟩

theorem trans {m n o : Mem} (h : Mem.Unseen m n) (k : Mem.Unseen n o) : Mem.Unseen m o :=
  ⟨k.clear, fun w => (k.word w).trans (h.word w), k.banks.trans h.banks⟩

theorem foldl {α : Type} {f : Mem → α → Mem} (hf : ∀ n a, n.Clear → Mem.Unseen n (f n a)) (l : List α) {m : Mem} (h : m.Clear) :
    Mem.Unseen m (l.foldl f m) :=
  List.foldlRecOn l f (motive := Mem.Unseen m) (refl h) fun n hn a _ => hn.trans (hf n a hn.clear)

end Mem.Unseen

/-- The words of a line that are written as they stand stay. -/
theorem Mem.putLine_line (m : Mem) (l : Nat) :
    ∃ t, m.putLine l (m.line l) = { m with mem := t } ∧ ∀ w, tget {} t w = m.word w := by
  refine List.foldlRecOn (m.line l).zipIdx _ (motive := fun n : Mem => ∃ t, n = { m with mem := t } ∧ ∀ w, tget {} t w = m.word w)
    ⟨m.mem, rfl, fun _ => rfl⟩ fun n hn e he => ?_
  obtain ⟨t, rfl, ht⟩ := hn
  refine ⟨tset {} t (12 * l + e.2) e.1, rfl, fun w => ?_⟩
  rw [tget_tset]
  split
  · next hw =>
    obtain ⟨hlt, hword⟩ := List.mem_zipIdx' he
    rw [hw, hword]
    simp [Mem.line]
  · exact ht w

namespace Mem.Clear

variable {m : Mem}

theorem note (h : m.Clear) {n : MemNote} (hn : n.Request) : Mem.Unseen m (m.note n) := by
  refine ⟨{ h with notes := fun x hx => ?_ }, fun _ => rfl, rfl⟩
  rcases List.mem_append.mp hx with hx | hx
  · exact h.notes x hx
  · rwa [List.mem_singleton.mp hx]

theorem dropUps (h : m.Clear) (l : Nat) (p : Upset → Bool) : m.dropUps l p = m := by
  rw [Mem.dropUps, h.upsets, List.filter_nil, ← h.upsets]

theorem sysCheck (h : m.Clear) (a : Asker) (l : Nat) : m.sysCheck a l = (false, m) := by
  simp [Mem.sysCheck, Mem.sysUp, h.upsets]

theorem isGone (h : m.Clear) (l : Nat) : m.isGone l = false := by
  simp [Mem.isGone, h.gone]

theorem tidy (h : m.Clear) (l : Nat) : m.tidy l = m := by
  simp [Mem.tidy, h.poison l]

/-- A home that is kept beside the copies is poisoned no more than the others. -/
theorem setStale (h : m.Clear) (l : Nat) {x : Option Home} (hx : ∀ y, x = some y → y.bad = false) :
    Mem.Unseen m { m with stale := tset none m.stale l x } := by
  refine ⟨{ h with stale := fun i y hy => ?_ }, fun _ => rfl, rfl⟩
  rw [tget_tset] at hy
  split at hy
  · exact hx y hy
  · exact h.stale i y hy

theorem clearMid (h : m.Clear) (l : Nat) : Mem.Unseen m { m with mid := tset none m.mid l none } := by
  refine ⟨{ h with mid := fun i y hy => ?_ }, fun _ => rfl, rfl⟩
  rw [tget_tset] at hy
  split at hy
  · exact nomatch hy
  · exact h.mid i y hy

/-! ### Homes (R367, R373) -/

theorem home (h : m.Clear) (l : Nat) : (m.home l).bad = false := by
  unfold Mem.home
  split
  · cases hs : tget none m.stale l with
    | none => exact h.poison l
    | some x => exact h.stale l x hs
  · exact h.poison l

theorem setNow_now (h : m.Clear) (l : Nat) : ∃ t q, m.setNow l (m.now l) = { m with mem := t, poison := q } ∧
    Mem.Unseen m { m with mem := t, poison := q } := by
  obtain ⟨t, ht, hword⟩ := m.putLine_line l
  refine ⟨t, tset false m.poison l (m.poisoned l), ?_, { h with poison := fun i => ?_ }, hword, rfl⟩
  · rw [Mem.setNow, Mem.now, ht]
    rfl
  · rw [Mem.poisoned, tget_tset]
    split
    · exact h.poison l
    · exact h.poison i

/-- The home of a line becomes what is no poison, and what the line holds when no cache holds it. -/
theorem setHome (h : m.Clear) {l : Nat} {x : Home} (hx : x.bad = false) (hnow : m.held l = false → x = m.now l) :
    Mem.Unseen m (m.setHome l x) := by
  unfold Mem.setHome
  split
  · exact h.setStale l fun y hy => Option.some.inj hy ▸ hx
  · next hheld =>
    obtain ⟨t, q, hset, hsame⟩ := h.setNow_now l
    rw [hnow (Bool.eq_false_iff.mpr hheld), hset]
    exact hsame.trans (hsame.clear.setStale l nofun)

theorem writeHome (h : m.Clear) {l : Nat} {x : Home} (hx : x.bad = false) (hnow : m.held l = false → x = m.now l) :
    Mem.Unseen m (m.writeHome l x) := by
  have hset := h.setHome hx hnow
  unfold Mem.writeHome
  rw [h.dropUps, h.dropUps, h.isGone, if_neg Bool.false_ne_true]
  split
  · exact hset
  · exact hset.trans (hset.clear.note ⟨l, .inr rfl⟩)

theorem writeHome_home (h : m.Clear) (l : Nat) : Mem.Unseen m (m.writeHome l (m.home l)) :=
  h.writeHome (h.home l) fun hheld => by simp [Mem.home, hheld]

theorem writeBack (h : m.Clear) (l : Nat) : Mem.Unseen m (m.writeBack l) :=
  have hwrite := h.writeHome (h.poison l) fun _ => rfl
  have hhome := hwrite.trans (hwrite.clear.setStale l (x := none) nofun)
  hhome.trans (hhome.clear.clearMid l)

theorem readHome (h : m.Clear) (a : Asker) (l : Nat) : Mem.Unseen m (m.readHome a l).2 := by
  have hread := h.note (n := .read l) ⟨l, .inl rfl⟩
  have hlink : m.hasUp l .link = false := by simp [Mem.hasUp, h.upsets]
  have hdram : (m.note (.read l)).dramUp l = none := by simp [Mem.dramUp, hread.clear.upsets]
  unfold Mem.readHome
  simp only [h.sysCheck, h.isGone, hlink, hdram, hread.clear.home, Bool.false_eq_true, if_false]
  split
  · exact .refl h
  · exact hread

/-! ### Ways of the system cache (R356, R373) -/

theorem wayHome (h : m.Clear) (a : Asker) (l : Nat) : Mem.Unseen m (m.wayHome a l) := by
  unfold Mem.wayHome
  rw [h.sysCheck]
  simp only [Bool.false_eq_true, if_false]
  split
  · next x hx =>
    cases hl2 : (m.l2Holders l).isEmpty with
    | true => rw [hl2] at hx; exact nomatch hx
    | false =>
      rw [hl2, if_neg Bool.false_ne_true] at hx
      have hheld : m.held l = true := by simp [Mem.held, hl2]
      have hwrite := h.writeHome (h.mid l x hx) fun hfree => absurd (hheld.symm.trans hfree) Bool.true_eq_false.mp
      exact hwrite.trans (hwrite.clear.clearMid l)
  · exact h.writeBack l

theorem sysEvict (h : m.Clear) (a : Asker) (w : Way) : Mem.Unseen m (m.sysEvict a w) := by
  unfold Mem.sysEvict
  split
  · have hhome := h.wayHome a w.line
    rw [hhome.clear.tidy]
    exact hhome
  · rw [h.dropUps, h.tidy]
    exact .refl h

theorem setSysWay (h : m.Clear) (k j : Nat) (w : Option Way) : Mem.Unseen m (m.setSysWay k j w) :=
  ⟨{ h with }, fun _ => rfl, rfl⟩

theorem bankEmpty (h : m.Clear) (a : Asker) (b : Nat) : Mem.Unseen m (m.bankEmpty a b) :=
  Mem.Unseen.foldl (fun _ _ hn => (hn.setSysWay ..).trans ((hn.setSysWay ..).clear.sysEvict a _)) _ h

end Mem.Clear

/-! ### A change of a bank (R383) -/

/-- `v` is bank `k` when its change has ended: the home of its range, or of none. -/
def ScBank.Ended (k v : ScBank) : Prop :=
  v.busy = false ∧ v.en = k.en ∧ v.base = k.base ∧ v.live = k.en ∧ (k.en = true → v.range = k.base)

/-- From `m` to `n` bank `b` alone changes, to `k`; no error comes to wait, and the words stay. -/
structure Mem.Rebanked (b : Nat) (k : ScBank) (m n : Mem) : Prop where
  clear : n.Clear
  word : ∀ w, n.word w = m.word w
  same : tget {} n.scBank b = k
  others : ∀ i, i ≠ b → tget {} n.scBank i = tget {} m.scBank i

namespace Mem.Rebanked

variable {m n o : Mem} {b : Nat} {j k : ScBank}

theorem refl (h : m.Clear) : Mem.Rebanked b (tget {} m.scBank b) m m := ⟨h, fun _ => rfl, rfl, fun _ _ => rfl⟩

theorem trans (h : Mem.Rebanked b j m n) (g : Mem.Rebanked b k n o) : Mem.Rebanked b k m o :=
  ⟨g.clear, fun w => (g.word w).trans (h.word w), g.same, fun i hi => (g.others i hi).trans (h.others i hi)⟩

theorem of_unseen (h : Mem.Unseen m n) : Mem.Rebanked b (tget {} m.scBank b) m n :=
  ⟨h.clear, h.word, by rw [h.banks], fun _ _ => by rw [h.banks]⟩

theorem set (h : m.Clear) (b : Nat) (k : ScBank) : Mem.Rebanked b k m { m with scBank := tset {} m.scBank b k } :=
  ⟨{ h with }, fun _ => rfl, tget_tset_same .., fun _ hi => tget_tset_other _ _ _ hi⟩

end Mem.Rebanked

namespace Mem.Clear

variable {m : Mem}

theorem bankRelease (h : m.Clear) (a : Asker) (b : Nat) :
    Mem.Rebanked b { tget {} m.scBank b with live := false, range := 0, snap := [], snapBad := [] } m (m.bankRelease a b) := by
  have hread := Mem.Unseen.foldl (fun n l hn => hn.readHome a l) (rangeLines (tget {} m.scBank b).range) h
  have hset := (Mem.Rebanked.of_unseen (b := b) hread).trans
    (.set hread.clear b { tget {} m.scBank b with live := false, range := 0, snap := [], snapBad := [] })
  have hwrite := Mem.Unseen.foldl (fun n l hn => hn.writeHome_home l) (rangeLines (tget {} m.scBank b).range) hset.clear
  have hlast := Mem.Rebanked.of_unseen (b := b) hwrite
  rw [hset.same] at hlast
  exact hset.trans hlast

theorem bankTake (h : m.Clear) (a : Asker) (b : Nat) : ∃ snap snapBad,
    Mem.Rebanked b { tget {} m.scBank b with live := true, range := (tget {} m.scBank b).base, snap := snap, snapBad := snapBad } m
      (m.bankTake a b) := by
  have hempty := h.bankEmpty a b
  have hread := hempty.trans (Mem.Unseen.foldl (fun n l hn => hn.readHome a l) (rangeLines (tget {} m.scBank b).base) hempty.clear)
  exact ⟨_, _, (Mem.Rebanked.of_unseen (b := b) hread).trans (.set hread.clear b _)⟩

/-- The change of a busy bank ends. -/
theorem bankDone (h : m.Clear) (a : Asker) {b : Nat} (hbusy : (tget {} m.scBank b).busy = true) :
    ∃ k, Mem.Rebanked b k m (m.bankDone a b) ∧ (tget {} m.scBank b).Ended k := by
  obtain ⟨j, n, hn, hj, hen, hbase, hlive⟩ : ∃ j n, n = (if (tget {} m.scBank b).live then m.bankRelease a b else m) ∧
      Mem.Rebanked b j m n ∧ j.en = (tget {} m.scBank b).en ∧ j.base = (tget {} m.scBank b).base ∧ j.live = false := by
    split
    · exact ⟨_, _, rfl, h.bankRelease a b, rfl, rfl, rfl⟩
    · next hl => exact ⟨_, _, rfl, .refl h, rfl, rfl, Bool.eq_false_iff.mpr hl⟩
  obtain ⟨k, o, ho, hk, ken, kbase, klive, krange⟩ : ∃ k o, o = (if (tget {} n.scBank b).en then n.bankTake a b else n) ∧
      Mem.Rebanked b k m o ∧ k.en = j.en ∧ k.base = j.base ∧ k.live = j.en ∧ (j.en = true → k.range = j.base) := by
    rw [hj.same]
    split
    · next he =>
      obtain ⟨snap, snapBad, htake⟩ := hj.clear.bankTake a b
      rw [hj.same] at htake
      exact ⟨_, _, rfl, hj.trans htake, rfl, rfl, he.symm, fun _ => rfl⟩
    · next he => exact ⟨_, _, rfl, hj, rfl, rfl, hlive.trans (Bool.eq_false_iff.mpr he).symm, fun hon => absurd hon he⟩
  have hdone : m.bankDone a b = { o with scBank := tset {} o.scBank b { k with busy := false } } := by
    unfold Mem.bankDone
    rw [hbusy, ho, hn, ← hk.same, ho, hn]
    rfl
  rw [hdone]
  exact ⟨_, hk.trans (.set hk.clear b _), rfl, ken.trans hen, kbase.trans hbase, klive.trans hen,
    fun hon => (krange (hen.trans hon)).trans hbase⟩

end Mem.Clear

/-! ### What waits to be counted (R554 to R559) -/

theorem State.noteOne_mem {n : MemNote} (h : n.Request) (s : State) (who : Option Nat) : (s.noteOne who n).mem = s.mem := by
  obtain ⟨l, rfl | rfl⟩ := h
  · exact congrArg Prod.snd (s.dramRead_coresMem l)
  · exact congrArg Prod.snd (s.dramWrite_coresMem l)

theorem State.noteRound_mem {s : State} (h : ∀ n ∈ s.mem.notes, n.Request) (who : Option Nat) (l : Nat) :
    (s.noteRound who l).2.mem = { s.mem with notes := [] } :=
  List.foldlRecOn s.mem.notes _ (motive := fun r : Option Nat × State => r.2.mem = { s.mem with notes := [] }) rfl
    fun r hr n hn => (State.noteOne_mem (h n hn) r.2 who).trans hr

theorem State.noteRound_none {s : State} (h : s.mem.notes = []) (who : Option Nat) (l : Nat) : s.noteRound who l = (none, s) := by
  unfold State.noteRound
  rw [h, List.foldl_nil, ← h]

theorem State.onMem_mem {s : State} {f : Mem → Mem} (h : ∀ n ∈ (f s.mem).notes, n.Request) :
    (s.onMem f).mem = { f s.mem with notes := [] } :=
  List.foldlRecOn (List.range 4) _ (motive := fun u : State => u.mem = { f s.mem with notes := [] })
    (State.noteRound_mem (s := { s with mem := f s.mem }) h none 0)
    fun u hu _ _ => by rw [State.noteRound_none (by rw [hu])]; exact hu

/-- Nothing waits to be counted when the memory stays as it is. -/
theorem State.onMem_same {s : State} {f : Mem → Mem} (hf : f s.mem = s.mem) (h : s.mem.notes = []) : s.onMem f = s := by
  have hround (who : Option Nat) : s.noteRound who 0 = (none, s) := State.noteRound_none h who 0
  unfold State.onMem State.noteAll
  rw [hf]
  dsimp only
  rw [hround]
  exact List.foldlRecOn (List.range 4) _ (motive := fun u : State => u = s) rfl fun u hu _ _ => by rw [hu, hround]

/-! ### The command -/

theorem exec_scbankChangeDone_idle {s : State} {b : Nat} (h : NoErrors s) (hidle : (tget {} s.mem.scBank b).busy = false) :
    Ignored (.scbankChangeDone b) s := by
  obtain ⟨-, -, hnotes, -⟩ := h
  refine congrArg Host.Outcome.next (State.onMem_same ?_ hnotes)
  unfold Mem.bankDone
  rw [hidle]
  rfl

theorem exec_scbankChangeDone_busy {s : State} (h : NoErrors s) {b : Nat} (hbusy : (tget {} s.mem.scBank b).busy = true) :
    ∃ u k, exec (.scbankChangeDone b) s = .next u ∧ Mem.Rebanked b k s.mem u.mem ∧ (tget {} s.mem.scBank b).Ended k := by
  obtain ⟨k, hbank, hk⟩ := (Mem.Clear.of_noErrors h).bankDone ⟨s.mem.scAgentService, unitBsu⟩ hbusy
  refine ⟨_, k, rfl, ?_, hk⟩
  rw [State.onMem_mem hbank.clear.notes]
  exact ⟨{ hbank.clear with notes := nofun }, hbank.word, hbank.same, hbank.others⟩

/-! ### Obligation -/

/-- Settles O55: each clause reads what its command leaves of the PMU, of the crossings, or of the memory. A trip keeps each cluster's state in
the hold because nothing that a context finishes on its way to EMBER reaches a register; a crossing reset changes only its counter because an
access is one command here, so that none is in flight to be discarded (log entries 63 and 64). -/
theorem thermalCrossingsAndScratchBanks : Obligations.ThermalCrossingsAndScratchBanks := by
  refine ⟨fun s tj k hdev => ⟨fun hoff hhot => ?_, exec_thermalAlert_ignored, fun hhot hfree hsafe => ?_, exec_thermalTrip_ignored, ?_⟩,
    fun s g hg hdev => ⟨?_, ?_⟩, fun s b h => ⟨exec_scbankChangeDone_idle h, fun hbusy => ?_⟩⟩
  · exact ⟨_, exec_thermalAlert hdev hoff hhot, State.pmu_of_still (State.record_still ..)⟩
  · exact ⟨_, exec_thermalTrip hdev hhot hfree, State.trip_holds hsafe tj⟩
  · obtain ⟨hthermal, hrun⟩ := s.holdEnd_releases
    simp only [Pmu.thermal, Prod.mk.injEq] at hthermal
    obtain ⟨hhold, htrip, halert⟩ := hthermal
    exact ⟨_, rfl, hhold, htrip, halert, hrun k⟩
  · refine ⟨_, exec_fabricTimeout hg hdev, ?_⟩
    rw [State.fabTimeout_glb]
    dsimp only
    exact ⟨tget_tset_same .., tget_tset_same .., fun i hi => ⟨tget_tset_other _ _ _ hi, tget_tset_other _ _ _ hi⟩⟩
  · exact ⟨_, exec_crossingFlush hg hdev, rfl, tget_tset_same .., fun i hi => tget_tset_other _ _ _ hi⟩
  · obtain ⟨u, k, hu, hbank, hended⟩ := exec_scbankChangeDone_busy h hbusy
    refine ⟨u, hu, ?_, hbank.others, hbank.word⟩
    rw [hbank.same]
    exact hended

end Sys2Proof.Machine
end

section
/-!
PROOFS. How a carriage of a submission ring is answered: its record goes out as it completes (R418 to R423), and the service core's unit and the
cores stay.
-/

namespace Sys2Proof.Machine

open Sys2Proof Sys2Proof.Safety

/-! ### The octets of a record (R418) -/

theorem octetsLe_length (n x : Nat) : (octetsLe n x).length = n := by
  induction n generalizing x with
  | zero => rfl
  | succ n ih => rw [octetsLe, List.length_cons, ih]

/-- STATUS, OPCODE, SEQ and INFO of a record: its first fifteen octets. -/
def recordFront (h : List Octet) (status : Nat) (info : List Octet) : List Octet :=
  [BitVec.ofNat 8 status, BitVec.ofNat 8 (hOpcode h)] ++ octetsLe 6 (hSeq h) ++ (info ++ List.replicate 7 0).take 7

theorem recordFront_length (h : List Octet) (status : Nat) (info : List Octet) : (recordFront h status info).length = 15 := by
  simp [recordFront, octetsLe_length]

theorem getD_append_last {α : Type} {l : List α} {n : Nat} (hl : l.length = n) (x d : α) : (l ++ [x]).getD n d = x := by
  subst hl
  rw [List.getD_eq_getElem?_getD, List.getElem?_concat_length, Option.getD_some]

/-- SOURCE is the last octet of a record; PHASE is its top bit, and `phased` is the record with PHASE as it is written. -/
theorem recordOf_phased {h : List Octet} {n status b : Nat} {info phased : List Octet} (hn : n < 4) (hb : b = 0 ∨ b = 0x80)
    (hp : phased = (recordOf (some h) (.ring n) status info).take 15 ++
      [BitVec.ofNat 8 (((recordOf (some h) (.ring n) status info).getD 15 0).toNat % 128 + b)]) :
    phased.take 15 = recordFront h status info ∧ (phased.getD 15 0).toNat % 128 = n := by
  have hlen := recordFront_length h status info
  have hrec : recordOf (some h) (.ring n) status info = recordFront h status info ++ [BitVec.ofNat 8 n] := rfl
  rw [hrec, List.take_left' hlen, getD_append_last hlen] at hp
  subst hp
  rw [List.take_left' hlen, getD_append_last hlen]
  refine ⟨rfl, ?_⟩
  simp only [BitVec.toNat_ofNat]
  omega

/-! ### The record goes out -/

theorem State.linkTlp_outbox (s : State) (p : Nat) : (s.linkTlp p).outbox = s.outbox := by rw [s.linkTlp_ports p]

theorem State.msixDue_outbox (s : State) (t v : Nat) : s.outbox <+: (s.msixDue t v).outbox := by
  unfold State.msixDue
  split
  · exact List.prefix_rfl
  · split
    · exact List.prefix_rfl
    · exact ⟨_, congrArg (· ++ _) (State.linkTlp_outbox (s.modFn t _) (portOf t)).symm⟩

theorem State.putRecord_outbox (s : State) (t c : Nat) (os : List Octet) (msg : Bool) : ∃ after i b, (b = 0 ∨ b = 0x80) ∧
    (s.putRecord t c os msg).outbox =
      s.outbox ++ [.record t c i (os.take 15 ++ [BitVec.ofNat 8 ((os.getD 15 0).toNat % 128 + b)])] ++ after := by
  unfold State.putRecord
  extract_lets r cf w phase full s1 s2
  have hs2 : s2.outbox = s.outbox ++ [.record t c (cf.slotAddr w 16) full] := congrArg (· ++ _) (State.linkTlp_outbox s1 (portOf t))
  have hphase : phase = 0 ∨ phase = 0x80 := by
    unfold phase
    split
    · exact .inr rfl
    · exact .inl rfl
  have hmsg : s2.outbox <+: (if msg then s2.msixDue t cf.vector else s2).outbox := by
    split
    · exact s2.msixDue_outbox t cf.vector
    · exact List.prefix_rfl
  obtain ⟨after, hafter⟩ := hmsg
  exact ⟨after, _, phase, hphase, by rw [← hafter, hs2]⟩

/-- Of a ring with one record that is not yet written, the carriage of that record ends, and its record is written. -/
theorem State.fillRecord_only {s : State} {t n id q : Nat} (hslots : (s.rings t).slots n = [⟨id, q, none⟩]) (hsends : s.fnSends t = true)
    (hfrozen : (s.port (portOf t)).frozen = false) (os : List Octet) (msg : Bool) :
    ∃ v : State, v.outbox = s.outbox ∧ s.fillRecord t n id (some (os, msg)) = v.putRecord t q os msg := by
  have hfilled (f : Rings → Rings) (hf : (f (s.rings t)).slots n = [⟨id, q, some (some (os, msg))⟩]) :
      (s.modRings t f).drainRing t n ((((s.modRings t f).rings t).slots n).length) =
        ((s.modRings t f).modRings t fun r => r.setSlots n []).putRecord t q os msg := by
    have hslot : ((s.modRings t f).rings t).slots n = [⟨id, q, some (some (os, msg))⟩] := by rw [State.modRings_rings, if_pos rfl, hf]
    have hwrites : (!((s.modRings t f).port (portOf t)).frozen && !(s.modRings t f).fnSends t) = false := by
      rw [show (s.modRings t f).fnSends t = true from hsends, Bool.not_true, Bool.and_false]
    rw [hslot]
    simp only [List.length_cons, List.length_nil, State.drainRing, hslot, hwrites, Bool.false_eq_true, if_false]
    exact if_neg (Bool.eq_false_iff.mp hfrozen)
  refine ⟨_, ?_, hfilled _ ?_⟩
  · rfl
  · simp [Rings.slots, Rings.setSlots, show tget [] (s.rings t).order n = _ from hslots]

/-- A carriage that ends is answered (R418 to R423). -/
theorem State.endCarriage_answered (s : State) (c : Carriage) (status : Nat) (info : List Octet) :
    Answered s (s.endCarriage c status info) c status info := by
  intro n q hn horigin hslots hsends hfrozen hneed
  have hwant : (decide (status ≠ 0) || bit (hFlags c.header) 1) = true := by simpa [bit] using hneed
  have hend : s.endCarriage c status info = s.fillRecord c.tenant n c.id
      (some (recordOf (some c.header) (.ring n) status info, bit (hFlags c.header) 2 || decide (status ≠ 0))) := by
    unfold State.endCarriage
    simp only [horigin, hwant, if_true]
  obtain ⟨v, hv, hfill⟩ := State.fillRecord_only hslots hsends hfrozen (recordOf (some c.header) (.ring n) status info)
    (bit (hFlags c.header) 2 || decide (status ≠ 0))
  obtain ⟨after, i, b, hb, hout⟩ := v.putRecord_outbox c.tenant q (recordOf (some c.header) (.ring n) status info)
    (bit (hFlags c.header) 2 || decide (status ≠ 0))
  refine ⟨[], after, i, _, ?_, recordOf_phased hn hb rfl⟩
  rw [hend, hfill, hout, hv, List.append_nil]

theorem State.complete_answered (s : State) (c : Carriage) (status : Nat) (info : List Octet) :
    Answered s (s.complete c status info) c status info := by
  unfold State.complete
  dsimp only
  split
  · exact State.endCarriage_answered { s with rng := { s.rng with busyT := s.rng.busyT.erase c.tenant } } c status info
  · exact s.endCarriage_answered c status info

/-- What happens before a carriage completes does not matter to its answer, while its record, its function and its port stay. -/
theorem answered_since {s t u : State} {c : Carriage} {status : Nat} {info : List Octet} (h : Answered t u c status info)
    (hrings : t.rings c.tenant = s.rings c.tenant) (hsends : t.fnSends c.tenant = s.fnSends c.tenant)
    (hfrozen : (t.port (portOf c.tenant)).frozen = (s.port (portOf c.tenant)).frozen) (hout : s.outbox <+: t.outbox) :
    Answered s u c status info := by
  intro n q hn horigin hslots hs hf hneed
  obtain ⟨mid, hmid⟩ := hout
  obtain ⟨before, after, i, o, hu, ho⟩ := h n q hn horigin (hrings ▸ hslots) (hsends ▸ hs) (hfrozen ▸ hf) hneed
  exact ⟨mid ++ before, after, i, o, by rw [hu, ← hmid, List.append_assoc s.outbox], ho⟩

/-! ### What the record leaves as it was -/

/-- The service core's unit, and the cores. -/
def State.bsuCores (s : State) : Bsu × Tbl Core := (s.bsu, s.cores)

theorem State.linkTlp_bsuCores (s : State) (p : Nat) : (s.linkTlp p).bsuCores = s.bsuCores := by
  rw [s.linkTlp_ports p]
  rfl

theorem State.raise_bsuCores (s : State) (n : Nat) : (s.raise n).bsuCores = s.bsuCores := by
  obtain ⟨-, -, -, -, hbsu⟩ := State.units_of_still (s.raise_still n)
  rw [State.bsuCores, hbsu, State.raise_cores, ← State.bsuCores]

theorem State.record_bsuCores (s : State) (cls sev unit : Nat) (ctx tenant addr : Option Nat) (detail : Nat) :
    (s.record cls sev unit ctx tenant addr detail).bsuCores = s.bsuCores := by
  obtain ⟨-, -, -, -, hbsu⟩ := State.units_of_still (State.record_still s cls sev unit ctx tenant addr detail)
  rw [State.bsuCores, hbsu, State.record_cores, ← State.bsuCores]

theorem State.msixDue_bsuCores (s : State) (t v : Nat) : (s.msixDue t v).bsuCores = s.bsuCores := by
  unfold State.msixDue
  split
  · rfl
  · split
    · rfl
    · exact State.linkTlp_bsuCores (s.modFn t _) (portOf t)

theorem State.putRecord_bsuCores (s : State) (t c : Nat) (os : List Octet) (msg : Bool) : (s.putRecord t c os msg).bsuCores = s.bsuCores := by
  unfold State.putRecord
  extract_lets r cf w phase full s1 s2
  have hs2 : s2.bsuCores = s.bsuCores := State.linkTlp_bsuCores s1 (portOf t)
  split
  · exact (s2.msixDue_bsuCores t cf.vector).trans hs2
  · exact hs2

theorem State.postRecord_bsuCores (s : State) (t c : Nat) (os : List Octet) (msg : Bool) : (s.postRecord t c os msg).bsuCores = s.bsuCores := by
  unfold State.postRecord
  dsimp only
  split
  · split <;> rfl
  · exact s.putRecord_bsuCores t c os msg

theorem State.drainRing_bsuCores (s : State) (t n k : Nat) : (s.drainRing t n k).bsuCores = s.bsuCores := by
  induction k generalizing s with
  | zero => rfl
  | succ k ih =>
    unfold State.drainRing
    split
    · rfl
    · split
      · rfl
      · exact ih _
      · split
        · rfl
        · exact (ih _).trans (State.postRecord_bsuCores ..)

theorem State.fillRecord_bsuCores (s : State) (t n id : Nat) (o : Option (List Octet × Bool)) : (s.fillRecord t n id o).bsuCores = s.bsuCores :=
  State.drainRing_bsuCores (s.modRings t _) t n _

theorem State.rngCdrop_bsuCores (s : State) : s.rngCdrop.bsuCores = s.bsuCores := by
  unfold State.rngCdrop
  dsimp only
  split
  · exact State.raise_bsuCores _ 256
  · rfl

theorem State.endCarriage_bsuCores (s : State) (c : Carriage) (status : Nat) (info : List Octet) :
    (s.endCarriage c status info).bsuCores = s.bsuCores := by
  unfold State.endCarriage
  dsimp only
  split
  · exact State.fillRecord_bsuCores ..
  · split
    · rfl
    · split
      · exact s.rngCdrop_bsuCores
      · exact State.drainRing_bsuCores (s.modRings c.tenant _) c.tenant 4 _

theorem State.complete_bsuCores (s : State) (c : Carriage) (status : Nat) (info : List Octet) :
    (s.complete c status info).bsuCores = s.bsuCores := by
  unfold State.complete
  dsimp only
  split
  · exact State.endCarriage_bsuCores { s with rng := { s.rng with busyT := s.rng.busyT.erase c.tenant } } c status info
  · exact s.endCarriage_bsuCores c status info

end Sys2Proof.Machine
end

section
/-!
PROOFS. Microcode loads (R394, R402, R404): the read of an image and its checks, what a load begins in the cores that take part, the flip of a
core and the end of the load.
-/

namespace Sys2Proof.Machine

open Sys2Proof Sys2Proof.Safety

/-! ### The critical carriage that is next (R414, R438) -/

/-- `s` without the carriage at the head of the service core's queue. -/
def State.svcPop (s : State) : State := { s with rng := { s.rng with svcQ := s.rng.svcQ.tail } }

theorem State.svcRow_of_serves {s : State} {c : Carriage} {op : Nat} (h : Serves s c op) (hop : 0x12 < op) (f : State → Carriage → State) :
    s.svcRow (fun c => decide (c.op = op)) f = f s.svcPop c := by
  obtain ⟨hidle, -, hhead, rfl⟩ := h
  obtain ⟨rest, hq⟩ : ∃ rest, s.rng.svcQ = c :: rest := List.head?_eq_some_iff.mp hhead
  have hstays : s.handOver = s := by
    unfold State.handOver
    simp only [hidle, hq, Bool.not_true, Bool.false_eq_true, if_false, List.takeWhile_cons, List.dropWhile_cons, decide_eq_true_eq,
      Nat.not_le.mpr hop, List.append_nil]
    rw [← hq]
  unfold State.svcRow State.svcPop
  simp only [hstays, hq, hidle, decide_true, Bool.and_true, if_true, List.tail_cons]

theorem exec_patchLoad_of_serves {s : State} {c : Carriage} (h : Serves s c 0x21) (image : ImageRead) :
    exec (.patchLoad image) s = .next (s.svcPop.loadCarriage true image c) :=
  congrArg Host.Outcome.next (State.svcRow_of_serves h (by decide) _)

theorem exec_decodeLoad_of_serves {s : State} {c : Carriage} (h : Serves s c 0x22) (image : ImageRead) :
    exec (.decodeLoad image) s = .next (s.svcPop.loadCarriage false image c) :=
  congrArg Host.Outcome.next (State.svcRow_of_serves h (by decide) _)

/-! ### The read of an image (R537) -/

/-- The host reads of an image: one at a time, so that each takes the same lowest free tag `g`. -/
def State.imageReads (s : State) (c : Carriage) (g : Nat) : List Out :=
  (readSizes (128 * 2 ^ (s.fn c.tenant).mrrs) (c.body 32 4 / 64 + 2) (c.body 24 8) (c.body 32 4)).map
    fun r => Out.read (portOf c.tenant) g c.tenant r.1 r.2

theorem State.foldl_emit {α : Type} (s : State) (f : α → Out) (l : List α) :
    l.foldl (fun s a => s.emit (f a)) s = { s with outbox := s.outbox ++ l.map f } := by
  induction l generalizing s with
  | nil => simp only [List.foldl_nil, List.map_nil, List.append_nil]
  | cons a l ih =>
    rw [List.foldl_cons, ih, List.map_cons, List.append_cons]
    rfl

theorem State.readImage_octets (s : State) (c : Carriage) (d : List Octet) : ∃ g, s.readImage c (.octets d) =
    { s with ports := (s.linkTlp (portOf c.tenant)).ports, outbox := s.outbox ++ s.imageReads c g } := by
  refine ⟨(s.freeTag (portOf c.tenant)).getD 0, ?_⟩
  unfold State.readImage
  dsimp only
  rw [State.foldl_emit, s.linkTlp_ports]
  rfl

/-! ### What the read of an image leaves (R537, R538) -/

theorem State.modFn_fnSends (s : State) (k : Nat) {f : Fn → Fn}
    (hf : ∀ x, ((f x).vfEn, (f x).numVfs, (f x).bme, (f x).d3) = (x.vfEn, x.numVfs, x.bme, x.d3)) (t : Nat) :
    (s.modFn k f).fnSends t = s.fnSends t := by
  have hfn (j : Nat) : (((s.modFn k f).fn j).vfEn, ((s.modFn k f).fn j).numVfs, ((s.modFn k f).fn j).bme, ((s.modFn k f).fn j).d3) =
      ((s.fn j).vfEn, (s.fn j).numVfs, (s.fn j).bme, (s.fn j).d3) := by
    rw [State.modFn_fn]
    split
    · next h => rw [hf, h]
    · rfl
  simp only [Prod.mk.injEq] at hfn
  unfold State.fnSends State.fnExists
  obtain ⟨-, -, hbme, hd3⟩ := hfn t
  obtain ⟨hvf, hnum, -, -⟩ := hfn (pfOf t)
  rw [hbme, hd3, hvf, hnum]
  rfl

/-- From `s` to `u` nothing changes that the answer to carriage `c` depends on; the service core's unit and the cores stay. -/
structure OnlyAsks (c : Carriage) (s u : State) : Prop where
  rings : u.rings c.tenant = s.rings c.tenant
  sends : u.fnSends c.tenant = s.fnSends c.tenant
  frozen : (u.port (portOf c.tenant)).frozen = (s.port (portOf c.tenant)).frozen
  outbox : s.outbox <+: u.outbox
  bsuCores : u.bsuCores = s.bsuCores

namespace OnlyAsks

variable {c : Carriage} {s t u : State}

theorem trans (h : OnlyAsks c s t) (k : OnlyAsks c t u) : OnlyAsks c s u :=
  ⟨k.rings.trans h.rings, k.sends.trans h.sends, k.frozen.trans h.frozen, h.outbox.trans k.outbox, k.bsuCores.trans h.bsuCores⟩

theorem of_still (h : u.still = s.still) (hout : s.outbox <+: u.outbox) (hkept : u.bsuCores = s.bsuCores) : OnlyAsks c s u := by
  obtain ⟨-, hrng, hfns, -, -⟩ := State.units_of_still h
  have hhw : u.hw = s.hw := congrArg (fun x => x.2.1) h
  refine ⟨by rw [State.rings, State.rings, hrng], ?_, by rw [State.port_of_still h], hout, hkept⟩
  change ({ s with hw := u.hw, fns := u.fns } : State).fnSends c.tenant = _
  rw [hhw, hfns]

theorem emits (c : Carriage) (s : State) (p : Nat) (l : List Out) :
    OnlyAsks c s { s with ports := (s.linkTlp p).ports, outbox := s.outbox ++ l } :=
  ⟨rfl, rfl, congrArg (fun x => x.2.1) ((OnlyFns.linkTlp (S := fun _ => False) s p).link (portOf c.tenant)), List.prefix_append .., rfl⟩

theorem aerError (c : Carriage) (s : State) (t b : Nat) : OnlyAsks c s (s.aerError t b) := by
  have hbit (k : Nat) : OnlyAsks c s (s.modFn k fun f => { f with aerUnc := putBit f.aerUnc b true }) :=
    ⟨rfl, State.modFn_fnSends (hf := by exact fun _ => rfl) .., rfl, List.prefix_rfl, rfl⟩
  have hlog : OnlyAsks c s (s.aerLog t b) :=
    (hbit _).trans (of_still (State.raise_still ..) (State.raise_outbox ..) (State.raise_bsuCores ..))
  unfold State.aerError
  exact hlog.trans (of_still (State.record_still ..) (State.record_outbox ..) (State.record_bsuCores ..))

theorem readImage (c : Carriage) (s : State) (image : ImageRead) : OnlyAsks c s (s.readImage c image) := by
  cases image with
  | octets d =>
    obtain ⟨g, hread⟩ := s.readImage_octets c d
    rw [hread]
    exact emits ..
  | timeout =>
    unfold State.readImage
    dsimp only
    rw [State.foldl_emit, s.linkTlp_ports]
    exact (emits ..).trans (aerError ..)

end OnlyAsks

/-- Carriage `c` ends with `status`, and nothing is loaded. -/
def NotLoaded (s u : State) (c : Carriage) (status : Nat) (info : List Octet) : Prop :=
  Answered s u c status info ∧ u.bsu = s.bsu ∧ u.cores = s.cores

theorem OnlyAsks.complete_notLoaded {c : Carriage} {s t : State} (h : OnlyAsks c s t) (status : Nat) (info : List Octet) :
    NotLoaded s (t.complete c status info) c status info := by
  obtain ⟨hbsu, hcores⟩ := Prod.mk.inj ((t.complete_bsuCores c status info).trans h.bsuCores)
  exact ⟨answered_since (t.complete_answered c status info) h.rings h.sends h.frozen h.outbox, hbsu, hcores⟩

/-! ### The halves of a core (R394, R404) -/

theorem Core.pair_setPair (c : Core) (patch : Bool) (a b : Half) : (c.setPair patch a b).pair patch = (a, b) := by
  cases patch <;> rfl

theorem Core.loadStart_eq (patch : Bool) (c : Core) : c.loadStart patch =
    { (if (c.pair patch).1.st = .active then c.setPair patch (c.pair patch).1 { (c.pair patch).2 with st := .closed }
      else c.setPair patch { (c.pair patch).1 with st := .closed } (c.pair patch).2) with loadPend := true } := by
  unfold Core.loadStart Core.spare
  by_cases h : (c.pair patch).1.st = .active <;> simp only [h, if_true, if_false, Nat.one_ne_zero]

theorem Core.flip_pair (patch : Bool) (ver : Nat) (words table : List Nat) (c : Core) : (c.flip patch ver words table).pair patch =
    if (c.pair patch).1.st = .active then ({ (c.pair patch).1 with st := .retired }, (c.pair patch).2.write ver words table)
    else ((c.pair patch).1.write ver words table, { (c.pair patch).2 with st := .retired }) := by
  have hpend (k : Core) : ({ k with loadPend := false } : Core).pair patch = k.pair patch := rfl
  unfold Core.flip Core.spare
  by_cases h : (c.pair patch).1.st = .active <;> simp only [h, if_true, if_false, Nat.one_ne_zero, hpend, Core.pair_setPair]

/-! ### The cores that take part (R404) -/

/-- The cores of table `t` in which a load of the given kind has begun, for those of the list. -/
def coresBegun (patch : Bool) (ks : List Nat) (t : Tbl Core) : Tbl Core :=
  ks.foldl (fun t k => tset {} t k (Core.loadStart patch (tget {} t k))) t

theorem State.each_loadStart (s : State) (patch : Bool) (ks : List Nat) :
    s.each ks (fun s k => s.modCore k (Core.loadStart patch)) = { s with cores := coresBegun patch ks s.cores } := by
  induction ks generalizing s with
  | nil => rfl
  | cons a ks ih => exact ih (s.modCore a (Core.loadStart patch))

theorem coresBegun_core (patch : Bool) {ks : List Nat} (hks : ks.Nodup) (t : Tbl Core) (k : Nat) :
    tget {} (coresBegun patch ks t) k = if k ∈ ks then Core.loadStart patch (tget {} t k) else tget {} t k := by
  induction ks generalizing t with
  | nil => rfl
  | cons a ks ih =>
    obtain ⟨ha, hnodup⟩ := List.nodup_cons.mp hks
    rw [show coresBegun patch (a :: ks) t = coresBegun patch ks (tset {} t a (Core.loadStart patch (tget {} t a))) from rfl, ih hnodup,
      tget_tset]
    by_cases hk : k = a
    · subst hk
      simp [ha]
    · simp [hk]

theorem State.loadCores_nodup (s : State) : s.loadCores.Nodup := List.nodup_range.filter _

/-! ### A load begins, and ends (R402, R404) -/

/-- The load of image `x`, to which carriage `c` has led. -/
def State.newLoad (s : State) (patch : Bool) (c : Carriage) (x : Xarex) : LoadJob :=
  ⟨c, patch, x.ver, x.words, x.table, s.loadCores, s.loadCores.map fun k => (k, (s.core k).pair patch)⟩

/-- `s` with image `x` read under tag `g` and found good, and its load begun. -/
def State.loadBegun (s : State) (patch : Bool) (c : Carriage) (x : Xarex) (g : Nat) : State :=
  { s with ports := (s.linkTlp (portOf c.tenant)).ports, outbox := s.outbox ++ s.imageReads c g
           cores := coresBegun patch s.loadCores s.cores, bsu := { s.bsu with job := some (s.newLoad patch c x) } }

section

variable {s : State} {patch : Bool} {c : Carriage} {d : List Octet}

theorem loadCarriage_timeout (s : State) (patch : Bool) (c : Carriage) : NotLoaded s (s.loadCarriage patch .timeout c) c 10 [] :=
  (OnlyAsks.readImage c s .timeout).complete_notLoaded 10 []

theorem loadCarriage_unannounced (h : d.length ≠ c.body 32 4 ∨ d.take 96 ≠ c.data) :
    NotLoaded s (s.loadCarriage patch (.octets d) c) c 2 [] := by
  have hload : s.loadCarriage patch (.octets d) c = (s.readImage c (.octets d)).complete c 2 [] := if_pos h
  rw [hload]
  exact (OnlyAsks.readImage c s _).complete_notLoaded 2 []

/-- An image of which the announced octets have come is checked. -/
theorem loadCarriage_announced (hlen : d.length = c.body 32 4) (hhead : d.take 96 = c.data) : ∃ g,
    s.loadCarriage patch (.octets d) c = match s.checkImage patch d with
      | .error st => (s.readImage c (.octets d)).complete c st (s.endInfo c st)
      | .ok x => (s.loadBegun patch c x g).loadFinish := by
  obtain ⟨g, hread⟩ := s.readImage_octets c d
  refine ⟨g, ?_⟩
  unfold State.loadCarriage
  rw [hread]
  dsimp only
  rw [if_neg (by simp [hlen, hhead])]
  simp only [State.each_loadStart]
  rfl

theorem loadCarriage_rejected {st : Nat} (hlen : d.length = c.body 32 4) (hhead : d.take 96 = c.data) (h : s.checkImage patch d = .error st) :
    NotLoaded s (s.loadCarriage patch (.octets d) c) c st (s.endInfo c st) := by
  obtain ⟨g, hload⟩ := loadCarriage_announced (s := s) (patch := patch) hlen hhead
  rw [hload, h]
  exact (OnlyAsks.readImage c s _).complete_notLoaded st _

theorem loadCarriage_passes {x : Xarex} (hlen : d.length = c.body 32 4) (hhead : d.take 96 = c.data) (h : s.checkImage patch d = .ok x) :
    ∃ g, s.loadCarriage patch (.octets d) c = (s.loadBegun patch c x g).loadFinish := by
  obtain ⟨g, hload⟩ := loadCarriage_announced (s := s) (patch := patch) hlen hhead
  exact ⟨g, by rw [hload, h]⟩

end

theorem State.breakDue_none {s : State} (h : s.bsu.brk = none) : s.breakDue = s := by
  unfold State.breakDue
  rw [h]

theorem State.loadFinish_waits {s : State} {j : LoadJob} (hjob : s.bsu.job = some j) (hleft : j.left ≠ []) : s.loadFinish = s := by
  unfold State.loadFinish
  simp [hjob, hleft]

/-- The secure flash with the image of a load in it. -/
def LoadJob.flash (j : LoadJob) (f : Flash) : Flash :=
  if j.patch then { f with patch := some (j.ver, j.words, j.table) } else { f with custom := some (j.ver, j.words, j.table) }

theorem LoadJob.flash_image (j : LoadJob) (f : Flash) :
    (if j.patch then (j.flash f).patch else (j.flash f).custom) = some (j.ver, j.words, j.table) := by
  unfold LoadJob.flash
  cases j.patch <;> rfl

/-- The last core has flipped: the load ends. -/
theorem State.loadFinish_ends {s : State} {j : LoadJob} (hjob : s.bsu.job = some j) (hleft : j.left = []) (hbrk : s.bsu.brk = none) :
    Answered s s.loadFinish j.c 0 (octetsLe 2 j.ver) ∧ s.loadFinish.bsu = { s.bsu with job := none, flash := j.flash s.bsu.flash } ∧
      s.loadFinish.cores = s.cores := by
  let t : State := { s with bsu := { s.bsu with job := none, flash := j.flash s.bsu.flash } }
  obtain ⟨hbsu, hcores⟩ := Prod.mk.inj (t.complete_bsuCores j.c 0 (octetsLe 2 j.ver))
  have hend : s.loadFinish = t.complete j.c 0 (octetsLe 2 j.ver) := by
    unfold State.loadFinish
    simp only [hjob, hleft, List.isEmpty_nil, Bool.not_true, Bool.false_eq_true, if_false]
    exact State.breakDue_none (hbsu ▸ hbrk)
  rw [hend]
  exact ⟨t.complete_answered j.c 0 _, hbsu, hcores⟩

/-! ### A core flips (R394, R404) -/

theorem exec_microcodeFlip_busy {s : State} {j : LoadJob} {k : Nat} (hjob : s.bsu.job = some j) (hbusy : s.halfBusy k j.patch = true) :
    Ignored (.microcodeFlip k) s := by
  change execMicrocodeFlip k s = _
  unfold execMicrocodeFlip
  simp only [hjob, hbusy, Bool.or_true, if_true]

/-- Core `k` has flipped under load `j`, and takes no further part in it. -/
def State.flipped (s : State) (j : LoadJob) (k : Nat) : State :=
  { s.modCore k (Core.flip j.patch j.ver j.words j.table) with bsu := { s.bsu with job := some { j with left := j.left.filter (· ≠ k) } } }

theorem exec_microcodeFlip_flips {s : State} {j : LoadJob} {k : Nat} (hjob : s.bsu.job = some j) (hk : k ∈ j.left)
    (hidle : s.halfBusy k j.patch = false) : exec (.microcodeFlip k) s = .next (s.flipped j k).loadFinish := by
  change execMicrocodeFlip k s = _
  unfold execMicrocodeFlip State.loadLeave
  simp only [hjob, hidle, List.contains_iff_mem.mpr hk, Bool.not_true, Bool.or_false, Bool.false_eq_true, if_false, State.modCore_bsu]
  rfl

theorem State.flipped_core (s : State) (j : LoadJob) (k i : Nat) :
    (s.flipped j k).core i = if i = k then Core.flip j.patch j.ver j.words j.table (s.core k) else s.core i :=
  s.modCore_core k _ i

theorem State.core_of_cores {s u : State} (h : u.cores = s.cores) (k : Nat) : u.core k = s.core k := by
  rw [State.core, State.core, h]

/-- A flip ends the load or leaves it; the cores stay. -/
theorem State.flipped_finish {s : State} {j : LoadJob} {k : Nat} (hbrk : s.bsu.brk = none) :
    let u := (s.flipped j k).loadFinish
    u.cores = (s.flipped j k).cores ∧
    ((∃ i ∈ j.left, i ≠ k) → u.bsu.job = some { j with left := j.left.filter (· ≠ k) } ∧ u.outbox = s.outbox) ∧
    ((∀ i ∈ j.left, i = k) → u.bsu.job = none ∧ Answered s u j.c 0 (octetsLe 2 j.ver) ∧
      (if j.patch then u.bsu.flash.patch else u.bsu.flash.custom) = some (j.ver, j.words, j.table)) := by
  intro u
  by_cases hlast : ∀ i ∈ j.left, i = k
  · obtain ⟨hans, hbsu, hcores⟩ := State.loadFinish_ends (s := s.flipped j k) rfl (by simpa using hlast) hbrk
    refine ⟨hcores, fun ⟨i, hi, hne⟩ => absurd (hlast i hi) hne, fun _ => ⟨by rw [hbsu], hans, ?_⟩⟩
    rw [hbsu]
    exact j.flash_image s.bsu.flash
  · have hsame : u = s.flipped j k := State.loadFinish_waits rfl (by simpa using hlast)
    rw [hsame]
    exact ⟨rfl, fun _ => ⟨rfl, rfl⟩, fun h => absurd h hlast⟩

/-! ### Obligation -/

section

variable {s : State} {patch : Bool} {c : Carriage} {d : List Octet}

/-- The loads that end with an error, for the instruction `i` of either kind of image. -/
theorem load_refused {i : ImageRead → Instr} (hexec : ∀ image, exec (i image) s = .next (s.svcPop.loadCarriage patch image c)) :
    (∃ u, exec (i .timeout) s = .next u ∧ NotLoaded s u c 10 []) ∧
    (d.length ≠ c.body 32 4 ∨ d.take 96 ≠ c.data → ∃ u, exec (i (.octets d)) s = .next u ∧ NotLoaded s u c 2 []) ∧
    (d.length = c.body 32 4 → d.take 96 = c.data → ∀ st, s.checkImage patch d = .error st →
      ∃ u, exec (i (.octets d)) s = .next u ∧ NotLoaded s u c st (s.endInfo c st)) :=
  ⟨⟨_, hexec _, loadCarriage_timeout s.svcPop patch c⟩, fun hbad => ⟨_, hexec _, loadCarriage_unannounced (s := s.svcPop) hbad⟩,
    fun hlen hhead _ hst => ⟨_, hexec _, loadCarriage_rejected (s := s.svcPop) hlen hhead hst⟩⟩

/-- What a load does with an image that passes: it is complete at once with no core ready, and else begins in the cores. -/
theorem loadCarriage_checked (hbrk : s.bsu.brk = none) (hlen : d.length = c.body 32 4) (hhead : d.take 96 = c.data) {x : Xarex}
    (hok : s.checkImage patch d = .ok x) : ∃ g, let u := s.loadCarriage patch (.octets d) c
    (s.loadCores = [] → Answered s u c 0 (octetsLe 2 x.ver) ∧ (if patch then u.bsu.flash.patch else u.bsu.flash.custom) = some (x.ver, x.words, x.table) ∧
      u.cores = s.cores) ∧
    (s.loadCores ≠ [] → u.outbox = s.outbox ++ s.imageReads c g ∧ u.bsu = { s.bsu with job := some (s.newLoad patch c x) } ∧
      ∀ k, u.core k = if k ∈ s.loadCores then Core.loadStart patch (s.core k) else s.core k) := by
  obtain ⟨g, hload⟩ := loadCarriage_passes hlen hhead hok
  refine ⟨g, ?_⟩
  rw [hload]
  refine ⟨fun hnone => ?_, fun hsome => ?_⟩
  · obtain ⟨hans, hbsu, hcores⟩ := State.loadFinish_ends (s := s.loadBegun patch c x g) rfl hnone hbrk
    refine ⟨answered_since hans rfl rfl (OnlyAsks.emits c s _ []).frozen (List.prefix_append ..), ?_, hcores.trans ?_⟩
    · rw [hbsu]
      exact (s.newLoad patch c x).flash_image s.bsu.flash
    · rw [State.loadBegun, hnone]
      rfl
  · dsimp only
    rw [State.loadFinish_waits (s := s.loadBegun patch c x g) rfl hsome]
    exact ⟨rfl, rfl, coresBegun_core patch s.loadCores_nodup s.cores⟩

end

/-- Settles O48: an image that is refused ends its carriage and leaves the service core's unit and the cores; one that passes begins the load in
each core that takes part once, as none is named twice; each flip writes the half that is not active, and the last one ends the load. All reads
of an image carry one tag because each is answered within the command: what the host supplies is an operand (log entry 65). -/
theorem microcodeLoads : Obligations.MicrocodeLoads := by
  refine ⟨fun s c d h => ?_, fun s c d h => ?_, fun s j k hjob hk hbrk => ⟨exec_microcodeFlip_busy hjob, fun hidle => ?_⟩⟩
  · have hexec := exec_patchLoad_of_serves h
    obtain ⟨-, hbrk, -, -⟩ := h
    obtain ⟨htimeout, hbad, hrejected⟩ := load_refused (d := d) hexec
    refine ⟨htimeout, hbad, fun hlen hhead => ⟨hrejected hlen hhead, fun x hok hnone => ?_, fun x hok hsome => ?_⟩⟩
    · obtain ⟨g, hdone, -⟩ := loadCarriage_checked (s := s.svcPop) hbrk hlen hhead hok
      exact ⟨_, hexec _, hdone hnone⟩
    · obtain ⟨g, -, hbegun⟩ := loadCarriage_checked (s := s.svcPop) hbrk hlen hhead hok
      obtain ⟨hout, hbsu, hcore⟩ := hbegun hsome
      exact ⟨_, g, hexec _, hout, hbsu, fun k => by rw [hcore, Core.loadStart_eq]; rfl⟩
  · have hexec := exec_decodeLoad_of_serves h
    obtain ⟨-, hbrk, -, -⟩ := h
    obtain ⟨htimeout, hbad, hrejected⟩ := load_refused (d := d) hexec
    refine ⟨htimeout, hbad, fun hlen hhead => ⟨hrejected hlen hhead, fun x hok hsome => ?_⟩⟩
    obtain ⟨g, -, hbegun⟩ := loadCarriage_checked (s := s.svcPop) hbrk hlen hhead hok
    obtain ⟨-, hbsu, hcore⟩ := hbegun hsome
    exact ⟨_, hexec _, hbsu, fun k => by rw [hcore, Core.loadStart_eq]; rfl⟩
  · obtain ⟨hcores, hrest⟩ := State.flipped_finish (j := j) (k := k) hbrk
    have hcore (i : Nat) := (State.core_of_cores hcores i).trans (s.flipped_core j k i)
    refine ⟨_, exec_microcodeFlip_flips hjob hk hidle, fun i hi => by rw [hcore, if_neg hi], ?_, ?_, hrest⟩
    · rw [hcore, if_pos rfl]
      rfl
    · rw [hcore, if_pos rfl, Core.flip_pair]
      rfl

end Sys2Proof.Machine
end

section
/-!
PROOFS. The queue of the commands that wait, the state of power-on reset, and what the records of carriages leave as they were (R418 to R424,
R582).
-/

namespace Sys2Proof.Machine

open Sys2Proof Sys2Proof.Safety

/-! ### The queue of commands, and reset -/

/-- Settles O1. -/
theorem stepRunsTheFrontCommand : Obligations.StepRunsTheFrontCommand := fun _ _ _ => rfl

/-- Settles O2: the queue is the first of what every command keeps. -/
theorem commandsLeaveTheQueue : Obligations.CommandsLeaveTheQueue := fun _ _ _ h => (exec_keeps h).1

theorem reset_sealed : Sealed {} {} 0 State.reset := ⟨rfl, rfl, rfl, rfl, Nat.le_refl _, fun i h => absurd h (by simp)⟩

/-- Settles O60: every table is empty at reset, so that each of its entries reads as its default. -/
theorem resetHoldsItsValues : Obligations.ResetHoldsItsValues := by
  refine ⟨⟨rfl, rfl, rfl, rfl, rfl, fun n => ⟨rfl, rfl, rfl, rfl, rfl, rfl, rfl, ?_, rfl, rfl⟩, rfl, rfl, rfl, rfl, rfl, rfl, rfl, rfl, rfl, rfl⟩,
    reset_sealed⟩
  unfold Rings.cfg
  split <;> rfl

/-! ### What the ring engine changes when it writes records and passes carriages on -/

/-- From `s` to `u` records are written and ready carriages passed on: the ring engine, the functions, the ports, the interrupt controller
and the numbers given to carriages move, and nothing else; no carriage is fetched, no ring stops, and what was sent before stays sent. -/
structure Sends (s u : State) : Prop where
  units : ∃ rng fns ports icu serial outbox,
    u = { s with rng := rng, fns := fns, ports := ports, icu := icu, serial := serial, outbox := outbox }
  rings : ∀ t, (u.rings t).fetch = (s.rings t).fetch ∧ (u.rings t).sqHead = (s.rings t).sqHead ∧ (u.rings t).stopped = (s.rings t).stopped
  stop : u.rng.stop = s.rng.stop
  outbox : s.outbox <+: u.outbox

namespace Sends

theorem refl (s : State) : Sends s s := ⟨⟨_, _, _, _, _, _, rfl⟩, fun _ => ⟨rfl, rfl, rfl⟩, rfl, List.prefix_rfl⟩

theorem trans {s t u : State} (h : Sends s t) (k : Sends t u) : Sends s u := by
  obtain ⟨⟨_, _, _, _, _, _, ht⟩, hr, hs, ho⟩ := h
  obtain ⟨⟨_, _, _, _, _, _, hu⟩, kr, ks, ko⟩ := k
  refine ⟨⟨_, _, _, _, _, _, by rw [hu, ht]⟩, fun t => ?_, ks.trans hs, ho.trans ko⟩
  obtain ⟨hf, hh, hst⟩ := hr t
  obtain ⟨kf, kh, kst⟩ := kr t
  exact ⟨kf.trans hf, kh.trans hh, kst.trans hst⟩

variable (s : State)

theorem raise (n : Nat) : Sends s (s.raise n) := by
  have hrng : (s.raise n).rng = s.rng := (State.units_of_still (s.raise_still n)).2.1
  refine ⟨?_, fun t => by simp only [State.rings, hrng, and_self], by rw [hrng], s.raise_outbox n⟩
  obtain ⟨_, _, _, h⟩ := SourcesOnly.lineEdge (s.signal n) n
  refine ⟨s.rng, s.fns, s.ports, (s.raise n).icu, s.serial, (s.raise n).outbox, ?_⟩
  unfold State.raise
  rw [h]
  unfold State.signal
  split <;> rfl

/-- The ring engine but for its rings and the count of stopped ones. -/
theorem rng (r : Rng) (hf : r.fns = s.rng.fns) (hs : r.stop = s.rng.stop) : Sends s { s with rng := r } :=
  ⟨⟨_, _, _, _, _, _, rfl⟩, fun t => by simp only [State.rings, hf, and_self], hs, List.prefix_rfl⟩

theorem modRings (t : Nat) (f : Rings → Rings)
    (hf : ∀ r, (f r).fetch = r.fetch ∧ (f r).sqHead = r.sqHead ∧ (f r).stopped = r.stopped) : Sends s (s.modRings t f) := by
  refine ⟨⟨_, _, _, _, _, _, rfl⟩, fun x => ?_, rfl, List.prefix_rfl⟩
  rw [State.modRings_rings]
  split
  · next hx => subst hx; exact hf _
  · exact ⟨rfl, rfl, rfl⟩

theorem modPort (p : Nat) (f : Port → Port) : Sends s (s.modPort p f) :=
  ⟨⟨_, _, _, _, _, _, rfl⟩, fun _ => ⟨rfl, rfl, rfl⟩, rfl, List.prefix_rfl⟩

theorem linkTlp (p : Nat) : Sends s (s.linkTlp p) := by
  rw [s.linkTlp_ports p]
  exact ⟨⟨_, _, _, _, _, _, rfl⟩, fun _ => ⟨rfl, rfl, rfl⟩, rfl, List.prefix_rfl⟩

theorem emit (o : Out) : Sends s (s.emit o) := ⟨⟨_, _, _, _, _, _, rfl⟩, fun _ => ⟨rfl, rfl, rfl⟩, rfl, List.prefix_append _ _⟩

theorem modFn (t : Nat) (f : Fn → Fn) : Sends s (s.modFn t f) :=
  ⟨⟨_, _, _, _, _, _, rfl⟩, fun _ => ⟨rfl, rfl, rfl⟩, rfl, List.prefix_rfl⟩

theorem msixDue (t v : Nat) : Sends s (s.msixDue t v) := by
  unfold State.msixDue
  split
  · exact refl s
  · split
    · exact modFn s t _
    · exact ((modFn s t _).trans (linkTlp _ _)).trans (emit _ _)

theorem putRecord (t c : Nat) (os : List Octet) (msg : Bool) : Sends s (s.putRecord t c os msg) := by
  unfold State.putRecord
  extract_lets r cf w phase full s1 s2
  have h1 : Sends s s1 := modRings s t (fun r => ({ r with written := tset 0 r.written c ((w + 1) % idx32) } : Rings).unreserve c)
    fun _ => ⟨rfl, rfl, rfl⟩
  have h2 : Sends s s2 := (h1.trans (linkTlp s1 _)).trans (emit _ _)
  split
  · exact h2.trans (msixDue s2 t _)
  · exact h2

theorem postRecord (t c : Nat) (os : List Octet) (msg : Bool) : Sends s (s.postRecord t c os msg) := by
  unfold State.postRecord
  dsimp only
  split
  · split
    · exact modPort s _ _
    · exact (modRings s t (fun r => r.unreserve c) fun _ => ⟨rfl, rfl, rfl⟩).trans (modPort _ _ _)
  · exact putRecord s t c os msg

theorem setSlots (t n : Nat) (l : List RecSlot) : Sends s (s.modRings t fun r => r.setSlots n l) := modRings s t _ fun _ => ⟨rfl, rfl, rfl⟩

theorem drainRing (t n k : Nat) : Sends s (s.drainRing t n k) := by
  induction k generalizing s with
  | zero => exact refl s
  | succ k ih =>
    unfold State.drainRing
    split
    · exact refl s
    · split
      · exact refl s
      · exact (setSlots s t n _).trans (ih _)
      · split
        · exact refl s
        · exact ((setSlots s t n _).trans (postRecord _ _ _ _ _)).trans (ih _)

theorem freeSlot_rings (r : Rings) (n id : Nat) :
    (r.freeSlot n id).fetch = r.fetch ∧ (r.freeSlot n id).sqHead = r.sqHead ∧ (r.freeSlot n id).stopped = r.stopped := by
  unfold Rings.freeSlot
  split <;> exact ⟨rfl, rfl, rfl⟩

theorem fillRecord (t n id : Nat) (o : Option (List Octet × Bool)) : Sends s (s.fillRecord t n id o) := by
  refine (modRings s t _ fun r => ?_).trans (drainRing _ t n _)
  split
  · exact freeSlot_rings r n id
  · exact ⟨rfl, rfl, rfl⟩

theorem rngCdrop : Sends s s.rngCdrop := by
  have h := rng s { s.rng with cdrop := (bump 511 s.rng.cdrop).1 } rfl rfl
  unfold State.rngCdrop
  dsimp only
  split
  · exact h.trans (raise _ 256)
  · exact h

theorem rngCrit : Sends s s.rngCrit := by
  have h := rng s { s.rng with crit := (bump 511 s.rng.crit).1 } rfl rfl
  unfold State.rngCrit
  dsimp only
  split
  · exact h.trans (raise _ 256)
  · exact h

theorem endCarriage (c : Carriage) (status : Nat) (info : List Octet) : Sends s (s.endCarriage c status info) := by
  unfold State.endCarriage
  dsimp only
  split
  · exact fillRecord s _ _ _ _
  · split
    · exact refl s
    · split
      · exact rngCdrop s
      · refine Sends.trans ?_ (drainRing _ _ _ _)
        exact modRings s c.tenant _ fun _ => ⟨rfl, rfl, rfl⟩

theorem complete (c : Carriage) (status : Nat) (info : List Octet) : Sends s (s.complete c status info) := by
  unfold State.complete
  dsimp only
  split
  · exact (rng s { s.rng with busyT := s.rng.busyT.erase c.tenant } rfl rfl).trans (endCarriage _ _ _ _)
  · exact endCarriage s c status info

theorem setReady (p : Nat) (l : List Carriage) : Sends s (s.setReady p l) := rng s _ rfl rfl

theorem setCrit (p : Nat) (l : List Crit) : Sends s (s.setCrit p l) := rng s _ rfl rfl

theorem setStaging (p b : Nat) (l : List Carriage) : Sends s (s.setStaging p b l) := rng s _ rfl rfl

theorem fresh : Sends s s.fresh.2 := ⟨⟨_, _, _, _, _, _, rfl⟩, fun _ => ⟨rfl, rfl, rfl⟩, rfl, List.prefix_rfl⟩

variable {s} in
theorem intakeHead {u : State} {p : Nat} {c : Carriage} (h : s.intakeHead p c = some u) : Sends s u := by
  unfold State.intakeHead at h
  split at h
  · split at h
    · cases h
    · cases h
      split
      · exact (rngCrit s).trans (endCarriage _ _ _ _)
      · exact endCarriage s _ _ _
  · split at h
    · split at h
      · cases h; exact complete s _ _ _
      · split at h
        · cases h; exact rng s _ rfl rfl
        · cases h; exact complete s _ _ _
    · split at h
      · split at h
        · cases h
        · cases h; exact (fresh s).trans (setCrit _ _ _)
      · split at h
        · cases h; exact complete s _ _ _
        · split at h
          · dsimp only at h
            split at h
            · cases h
            · cases h; exact setStaging s _ _ _
          · cases h

theorem pumpN (p k : Nat) : Sends s (s.pumpN p k) := by
  induction k generalizing s with
  | zero => exact refl s
  | succ k ih =>
    unfold State.pumpN
    split
    · exact refl s
    · split
      · exact refl s
      · next hs => exact ((intakeHead hs).trans (setReady _ _ _)).trans (ih _)

theorem pump (p : Nat) : Sends s (s.pump p) := pumpN s p _

theorem nowReady (c : Carriage) : Sends s (s.nowReady c) := (setReady s _ _).trans (pump _ _)

variable {s} {u : State}

theorem eau (h : Sends s u) : u.eau = s.eau := by obtain ⟨⟨_, _, _, _, _, _, rfl⟩, -, -, -⟩ := h; rfl
theorem mem (h : Sends s u) : u.mem = s.mem := by obtain ⟨⟨_, _, _, _, _, _, rfl⟩, -, -, -⟩ := h; rfl
theorem pmu (h : Sends s u) : u.pmu = s.pmu := by obtain ⟨⟨_, _, _, _, _, _, rfl⟩, -, -, -⟩ := h; rfl
theorem bsu (h : Sends s u) : u.bsu = s.bsu := by obtain ⟨⟨_, _, _, _, _, _, rfl⟩, -, -, -⟩ := h; rfl
theorem glb (h : Sends s u) : u.glb = s.glb := by obtain ⟨⟨_, _, _, _, _, _, rfl⟩, -, -, -⟩ := h; rfl
theorem ctxs (h : Sends s u) : u.ctxs = s.ctxs := by obtain ⟨⟨_, _, _, _, _, _, rfl⟩, -, -, -⟩ := h; rfl
theorem hw (h : Sends s u) : u.hw = s.hw := by obtain ⟨⟨_, _, _, _, _, _, rfl⟩, -, -, -⟩ := h; rfl

end Sends

/-- What goes out after the record of a carriage does not matter to its answer. -/
theorem answered_then {s t u : State} {c : Carriage} {status : Nat} {info : List Octet} (h : Answered s t c status info)
    (hout : t.outbox <+: u.outbox) : Answered s u c status info := by
  intro n q hn horigin hslots hsends hfrozen hneed
  obtain ⟨more, hmore⟩ := hout
  obtain ⟨before, after, i, o, ht, ho⟩ := h n q hn horigin hslots hsends hfrozen hneed
  exact ⟨before, after ++ more, i, o, by rw [← hmore, ht, List.append_assoc], ho⟩

end Sys2Proof.Machine
end

section
/-!
PROOFS. The index registers and the ring lease of a function (R425, R429, R430, R545).
-/

namespace Sys2Proof.Machine

open Sys2Proof Sys2Proof.Safety

/-! ### The arrival of a request on a link (R524) -/

theorem State.linkTlp_port (s : State) (p q : Nat) : ∃ l, (s.linkTlp p).port q = { s.port q with lpower := l } := by
  refine State.each_keeps (P := fun u => ∃ l, u.port q = { s.port q with lpower := l }) ⟨_, rfl⟩ fun u a _ hu => ?_
  split
  · rw [State.modPort_port]
    split
    · next hq =>
      obtain ⟨l, hl⟩ := hu
      subst hq
      exact ⟨_, by rw [hl]⟩
    · exact hu
  · exact hu

theorem State.linkTlp_rings (s : State) (p t : Nat) : (s.linkTlp p).rings t = s.rings t := by rw [s.linkTlp_ports p]; rfl

theorem State.linkTlp_rng (s : State) (p : Nat) : (s.linkTlp p).rng = s.rng := by rw [s.linkTlp_ports p]

theorem State.linkTlp_fnExists (s : State) (p t : Nat) : (s.linkTlp p).fnExists t = s.fnExists t := by rw [s.linkTlp_ports p]; rfl

theorem State.linkTlp_pageOpen (s : State) (p t : Nat) : (s.linkTlp p).pageOpen t = s.pageOpen t := by
  obtain ⟨l, hl⟩ := s.linkTlp_port p (portOf t)
  unfold State.pageOpen
  rw [hl, s.linkTlp_fnExists, s.linkTlp_ports p]
  rfl

theorem State.linkTlp_frzHeld (s : State) (p q : Nat) : (s.linkTlp p).frzHeld q = s.frzHeld q := by
  obtain ⟨l, hl⟩ := s.linkTlp_port p q
  unfold State.frzHeld
  rw [hl]

theorem State.setRings_rings_other (s : State) {t x : Nat} (r : Rings) (h : x ≠ t) : (s.setRings t r).rings x = s.rings x := by
  rw [State.setRings_rings, if_neg h]

theorem State.setRings_rings_same (s : State) (t : Nat) (r : Rings) : (s.setRings t r).rings t = r := by
  rw [State.setRings_rings, if_pos rfl]

/-! ### The index registers (R430) -/

theorem State.rngBadidx_rng (s : State) : s.rngBadidx.rng = { s.rng with badidx := satInc 511 s.rng.badidx } := by
  unfold State.rngBadidx
  dsimp only
  split
  · exact (State.units_of_still (State.raise_still _ 256)).2.1
  · rfl

theorem exec_sqTailWrite {s : State} {t n : Nat} (v : BitVec 32) (hn : n < 4) (hopen : s.pageOpen t = true) :
    exec (.sqTailWrite t n v) s = .next ((s.linkTlp (portOf t)).sqTail t n v.toNat) :=
  congrArg Host.Outcome.next ((if_pos hn).trans (if_pos ((s.linkTlp_pageOpen _ t).trans hopen)))

theorem exec_cqHeadWrite {s : State} {t n : Nat} (v : BitVec 32) (hn : n < 4) (hopen : s.pageOpen t = true) :
    exec (.cqHeadWrite t n v) s = .next ((s.linkTlp (portOf t)).cqHead t n v.toNat) :=
  congrArg Host.Outcome.next ((if_pos hn).trans (if_pos ((s.linkTlp_pageOpen _ t).trans hopen)))

/-- An index that is refused is counted alone. -/
theorem State.rngBadidx_refuses (s : State) : (∀ x, s.rngBadidx.rings x = s.rings x) ∧ s.rngBadidx.rng.badidx = satInc 511 s.rng.badidx :=
  ⟨fun x => by unfold State.rings; rw [s.rngBadidx_rng], by rw [s.rngBadidx_rng]⟩

/-! ### The configuration of a ring -/

theorem Rings.cfg_setCfg (r : Rings) (k : Nat) (c : RingCfg) {m : Nat} (hk : k < 8) (hm : m < 8) :
    (r.setCfg k c).cfg m = if m = k then c else r.cfg m := by
  unfold Rings.setCfg Rings.cfg
  by_cases h4 : k < 4 <;> by_cases m4 : m < 4 <;> simp only [h4, m4, if_true, if_false, tget_tset]
  · rw [if_neg (by omega)]
  · rw [if_neg (by omega)]
  · by_cases hmk : m = k
    · rw [if_pos hmk, if_pos (by omega)]
    · rw [if_neg hmk, if_neg (by omega)]

/-- The shadow as COMMIT takes it (R429). -/
theorem commitCfg_eq (t k : Nat) (c : RingCfg) : commitCfg t k c =
    if c.size < 4 ∨ 16 < c.size ∨ c.lo % 4096 ≠ 0 ∨ (k < 4 ∧ c.weight = 0) ∨ (4 ≤ k ∧ (if t % 1024 = 0 then 2048 else 64) ≤ c.vector)
    then { c with en := false } else c := by
  unfold commitCfg
  unfold msixSize
  generalize (if t % 1024 = 0 then 2048 else 64) = n
  split
  · next h =>
    refine congrArg (fun e => { c with en := e }) ((congrArg (c.en && !·) (a₂ := true) ?_).trans (Bool.and_false _))
    simpa [or_assoc] using h
  · next h =>
    refine congrArg (fun e => { c with en := e }) ((congrArg (c.en && !·) (a₂ := false) ?_).trans (Bool.and_true _))
    simpa [and_assoc] using h

/-! ### COMMIT (R429) -/

/-- What a function's rings hold but for what is fetched, recorded and reserved. -/
def Rings.fixed (r : Rings) : Tbl Nat × Tbl Nat × Tbl Nat × Tbl Nat × Tbl RingCfg × Tbl RingCfg × Tbl Bool × Option RingLease :=
  (r.tail, r.sqHead, r.cqHead, r.written, r.sq, r.cqc, r.stopped, r.lease)

theorem Rings.of_fixed {q r : Rings} (h : q.fixed = r.fixed) : q.tail = r.tail ∧ q.sqHead = r.sqHead ∧ q.cqHead = r.cqHead ∧
    q.written = r.written ∧ (∀ m, q.cfg m = r.cfg m) ∧ q.stopped = r.stopped ∧ q.lease = r.lease := by
  simp only [Rings.fixed, Prod.mk.injEq] at h
  obtain ⟨htail, hsq, hcq, hwritten, hcfg, hcqc, hstopped, hlease⟩ := h
  exact ⟨htail, hsq, hcq, hwritten, fun m => by rw [Rings.cfg, hcfg, hcqc, ← Rings.cfg], hstopped, hlease⟩

theorem Rings.freeSlot_fixed (r : Rings) (n id : Nat) : (r.freeSlot n id).fixed = r.fixed := by
  unfold Rings.freeSlot
  split <;> rfl

theorem State.dropFetch_rings (s : State) (t n : Nat) (late : Bool) :
    ((s.dropFetch t n late).rings t).fixed = (s.rings t).fixed ∧ tget none ((s.dropFetch t n late).rings t).fetch n = none := by
  unfold State.dropFetch
  split
  · next h => exact ⟨rfl, h⟩
  · next f _ =>
    have hslot := Rings.freeSlot_fixed { s.rings t with fetch := tset none (s.rings t).fetch n none } n f.id
    have hfetch := (Sends.freeSlot_rings { s.rings t with fetch := tset none (s.rings t).fetch n none } n f.id).1
    dsimp only
    rw [show ∀ (u : State) p g, (u.modPort p g).rings t = u.rings t from fun _ _ _ => rfl, State.modRings_rings, if_pos rfl]
    refine ⟨hslot, ?_⟩
    rw [show ∀ (r : Rings) l, (r.setSlots n l).fetch = r.fetch from fun _ _ => rfl, hfetch, tget_tset_same]

theorem Rings.keepSlots_fixed (c : Nat) (l : List Nat) (r : Rings) :
    (l.foldl (fun (r : Rings) n => r.setSlots n ((r.slots n).filter (fun e => decide (e.cq ≠ c)))) r).fixed = r.fixed := by
  induction l generalizing r with
  | nil => rfl
  | cons a l ih => rw [List.foldl_cons, ih]; rfl

theorem State.cqDisable_rings (s : State) (t c : Nat) :
    ((s.cqDisable t c).rings t).fixed = (s.rings t).fixed ∧ tget 0 ((s.cqDisable t c).rings t).reserved c = 0 := by
  unfold State.cqDisable
  dsimp only
  rw [show ∀ (u : State) p g, (u.modPort p g).rings t = u.rings t from fun _ _ _ => rfl, State.setRings_rings_same]
  exact ⟨Rings.keepSlots_fixed c [0, 1, 2, 3, 4] (s.rings t), show tget 0 (tset 0 _ c 0) c = 0 from tget_tset_same ..⟩

section

variable {s : State} {t : Nat} {l : RingLease}

/-- COMMIT of a submission ring. -/
theorem State.ringCommit_sq (hl : (s.rings t).lease = some l) (hk : l.ring < 4) :
    let c := commitCfg t l.ring l.shadow
    let d := (s.ringCommit t).rings t
    d.lease = none ∧ (∀ m, m < 8 → d.cfg m = if m = l.ring then c else (s.rings t).cfg m) ∧ tget false d.stopped l.ring = false ∧
      (c.en = true → ((s.rings t).cfg l.ring).en = false →
        tget 0 d.tail l.ring = 0 ∧ tget 0 d.sqHead l.ring = 0 ∧ tget none d.fetch l.ring = none) := by
  intro c
  have hcfg (m : Nat) (hm : m < 8) : _ = if m = l.ring then c else (s.rings t).cfg m :=
    Rings.cfg_setCfg { s.rings t with lease := none } l.ring c (m := m) (by omega) hm
  have hlease : (({ s.rings t with lease := none } : Rings).setCfg l.ring c).lease = none := by rw [Rings.setCfg, if_pos hk]
  unfold State.ringCommit
  simp only [hl, if_pos hk]
  generalize hr : (_ : Rings).setCfg l.ring (commitCfg t l.ring l.shadow) = r1 at hcfg hlease ⊢
  generalize hrise : (c.en && !((s.rings t).cfg l.ring).en) = rise
  generalize hv : s.setRings t (if rise = true then _ else _) = v
  have hfixed : ((if (rise || !c.en) = true then v.dropFetch t l.ring false else v).rings t).fixed = (v.rings t).fixed := by
    split
    · exact (v.dropFetch_rings t l.ring false).1
    · rfl
  obtain ⟨htail, hsq, -, -, hc, hstopped, hle⟩ := Rings.of_fixed hfixed
  subst hv
  rw [State.setRings_rings_same] at htail hsq hc hstopped hle
  refine ⟨?_, fun m hm => ?_, ?_, fun hen hold => ?_⟩
  · rw [hle]; split <;> exact hlease
  · rw [hc, ← hcfg m hm]; split <;> rfl
  · rw [hstopped]; split <;> simp only [tget_tset_same]
  · obtain rfl : rise = true := by rw [← hrise, hen, hold]; rfl
    refine ⟨?_, ?_, ?_⟩
    · rw [htail, if_pos rfl]; simp only [tget_tset_same]
    · rw [hsq, if_pos rfl]; simp only [tget_tset_same]
    · exact (State.dropFetch_rings _ t l.ring false).2

/-- COMMIT of a completion ring. -/
theorem State.ringCommit_cq (hl : (s.rings t).lease = some l) (hk : 4 ≤ l.ring) (hk8 : l.ring < 8) :
    let c := commitCfg t l.ring l.shadow
    let d := (s.ringCommit t).rings t
    d.lease = none ∧ (∀ m, m < 8 → d.cfg m = if m = l.ring then c else (s.rings t).cfg m) ∧
      (c.en = true → ((s.rings t).cfg l.ring).en = false → tget 0 d.cqHead (l.ring - 4) = 0 ∧ tget 0 d.written (l.ring - 4) = 0) ∧
      (c.en = false → tget 0 d.reserved (l.ring - 4) = 0) := by
  intro c
  have hk4 : ¬ l.ring < 4 := by omega
  have hcfg (m : Nat) (hm : m < 8) : _ = if m = l.ring then c else (s.rings t).cfg m :=
    Rings.cfg_setCfg { s.rings t with lease := none } l.ring c (m := m) hk8 hm
  have hlease : (({ s.rings t with lease := none } : Rings).setCfg l.ring c).lease = none := by rw [Rings.setCfg, if_neg hk4]
  unfold State.ringCommit
  simp only [hl, if_neg hk4]
  generalize hr : (_ : Rings).setCfg l.ring (commitCfg t l.ring l.shadow) = r1 at hcfg hlease ⊢
  generalize hrise : (c.en && !((s.rings t).cfg l.ring).en) = rise
  generalize hv : s.setRings t (if rise = true then _ else _) = v
  have hfixed : ((if c.en = true then v else v.cqDisable t (l.ring - 4)).rings t).fixed = (v.rings t).fixed := by
    split
    · rfl
    · exact (v.cqDisable_rings t _).1
  obtain ⟨-, -, hcq, hwritten, hc, -, hle⟩ := Rings.of_fixed hfixed
  subst hv
  rw [State.setRings_rings_same] at hcq hwritten hc hle
  refine ⟨?_, fun m hm => ?_, fun hen hold => ?_, fun hen => ?_⟩
  · rw [hle]; split <;> exact hlease
  · rw [hc, ← hcfg m hm]; split <;> rfl
  · obtain rfl : rise = true := by rw [← hrise, hen, hold]; rfl
    exact ⟨by rw [hcq, if_pos rfl]; simp only [tget_tset_same], by rw [hwritten, if_pos rfl]; simp only [tget_tset_same]⟩
  · rw [if_neg (by rw [show (commitCfg t l.ring l.shadow).en = false from hen]; exact Bool.false_ne_true)]
    exact (State.cqDisable_rings _ t _).2

/-! ### The commands of the lease -/

theorem exec_ringLeaseAcquire {n : Nat} (hopen : s.pageOpen t = true) (hn : n < 8) :
    exec (.ringLeaseAcquire t n) s = .next ((s.linkTlp (portOf t)).ringAcquire t n) :=
  congrArg Host.Outcome.next ((if_pos hn).trans (if_pos ((s.linkTlp_pageOpen _ t).trans hopen)))

theorem exec_ringLeaseCommit (hopen : s.pageOpen t = true) : exec (.ringLeaseCommit t) s = .next ((s.linkTlp (portOf t)).ringCommit t) :=
  congrArg Host.Outcome.next (if_pos ((s.linkTlp_pageOpen _ t).trans hopen))

theorem exec_ringLeaseAbort (hopen : s.pageOpen t = true) : exec (.ringLeaseAbort t) s = .next ((s.linkTlp (portOf t)).ringAbort t) :=
  congrArg Host.Outcome.next (if_pos ((s.linkTlp_pageOpen _ t).trans hopen))

theorem State.ringBreak_leased (hl : (s.rings t).lease = some l) :
    s.ringBreak t = s.setRings t { s.rings t with lease := none, broken := true } := by
  unfold State.ringBreak
  simp only [hl]

theorem exec_ringLeaseExpiry (hl : (s.rings t).lease = some l) (hover : s.leaseOver l.until_ = true) :
    exec (.ringLeaseExpiry t) s = .next (s.setRings t { s.rings t with lease := none, broken := true }) := by
  rw [← State.ringBreak_leased hl]
  change execRingLeaseExpiry t s = _
  unfold execRingLeaseExpiry
  rw [hl]
  exact congrArg Host.Outcome.next (if_pos hover)

end

/-- Settles O37: the rings that each command leaves are read off the state that has heard the request. -/
theorem ringIndicesAndLeases : Obligations.RingIndicesAndLeases := by
  refine ⟨fun s t n v hn hopen => ⟨?_, ?_⟩, fun s t n hopen hn hfree hfrz => ?_, fun s t n hopen hn hheld => ?_, fun s t l hopen hl => ?_,
    fun s t l hl hover => ?_, fun s t l hopen hl h8 => ?_⟩
  · refine ⟨_, exec_sqTailWrite v hn hopen, ?_⟩
    unfold State.sqTail
    simp only [State.linkTlp_rings, show ∀ a b, idxDist a b = (b + 2 ^ 32 - a) % 2 ^ 32 from fun _ _ => rfl]
    by_cases h : (v.toNat + 2 ^ 32 - tget 0 (s.rings t).sqHead n) % 2 ^ 32 ≤ 2 ^ ((s.rings t).cfg n).size
    · rw [if_neg (Nat.not_lt.mpr h)]
      simp only [if_pos h, State.setRings_rings_same, tget_tset_same, true_and]
      exact ⟨fun x hx => (State.setRings_rings_other _ _ hx).trans (s.linkTlp_rings _ x), fun m hm => tget_tset_other _ _ _ hm,
        show (s.linkTlp (portOf t)).rng.badidx = _ from congrArg Rng.badidx (s.linkTlp_rng (portOf t))⟩
    · rw [if_pos (Nat.not_le.mp h)]
      obtain ⟨hr, hb⟩ := (s.linkTlp (portOf t)).rngBadidx_refuses
      simp only [if_neg h, hr, State.linkTlp_rings, hb, State.linkTlp_rng, implies_true, and_self]
  · refine ⟨_, exec_cqHeadWrite v hn hopen, ?_⟩
    unfold State.cqHead
    simp only [State.linkTlp_rings, show ∀ a b, idxDist a b = (b + 2 ^ 32 - a) % 2 ^ 32 from fun _ _ => rfl]
    by_cases h : (v.toNat + 2 ^ 32 - tget 0 (s.rings t).cqHead n) % 2 ^ 32 ≤
        (tget 0 (s.rings t).written n + 2 ^ 32 - tget 0 (s.rings t).cqHead n) % 2 ^ 32
    · rw [if_neg (Nat.not_lt.mpr h)]
      simp only [if_pos h, State.setRings_rings_same, tget_tset_same, true_and]
      exact ⟨fun x hx => (State.setRings_rings_other _ _ hx).trans (s.linkTlp_rings _ x), fun m hm => tget_tset_other _ _ _ hm,
        show (s.linkTlp (portOf t)).rng.badidx = _ from congrArg Rng.badidx (s.linkTlp_rng (portOf t))⟩
    · rw [if_pos (Nat.not_le.mp h)]
      obtain ⟨hr, hb⟩ := (s.linkTlp (portOf t)).rngBadidx_refuses
      simp only [if_neg h, hr, State.linkTlp_rings, hb, State.linkTlp_rng, implies_true, and_self]
  · have hfrzHeld : s.frzHeld (portOf t) = false := by unfold State.frzHeld; rcases hfrz with h | h <;> simp [h]
    refine ⟨_, (s.linkTlp (portOf t)).leaseFor (s.linkTlp (portOf t)).lk.rngLease, exec_ringLeaseAcquire hopen hn, ?_⟩
    unfold State.ringAcquire
    simp only [State.linkTlp_rings, hfree, State.linkTlp_frzHeld, hfrzHeld, Option.isSome_none, Bool.or_self, Bool.false_eq_true, if_false,
      State.setRings_rings_same]
  · refine ⟨_, exec_ringLeaseAcquire hopen hn, ?_⟩
    unfold State.ringAcquire
    simp only [State.linkTlp_rings, State.linkTlp_frzHeld]
    rw [if_pos, State.linkTlp_rng]
    simpa [State.frzHeld] using hheld
  · refine ⟨_, exec_ringLeaseAbort hopen, ?_⟩
    unfold State.ringAbort
    simp only [State.linkTlp_rings, hl, State.setRings_rings_same, true_and]
    refine ⟨fun h4 => by rw [if_pos h4, tget_tset_same], fun m hm => ?_⟩
    split
    · exact tget_tset_other _ _ _ hm
    · rfl
  · exact ⟨_, exec_ringLeaseExpiry hl hover, State.setRings_rings_same ..⟩
  · refine ⟨_, exec_ringLeaseCommit hopen, ?_⟩
    have hl' : ((s.linkTlp (portOf t)).rings t).lease = some l := (congrArg Rings.lease (s.linkTlp_rings _ t)).trans hl
    have hcommit := commitCfg_eq t l.ring l.shadow
    by_cases h4 : l.ring < 4
    · obtain ⟨hlease, hcfg, hstopped, hrise⟩ := State.ringCommit_sq hl' h4
      simp only [State.linkTlp_rings] at hcfg hrise
      have hk := (hcfg l.ring h8).trans (if_pos rfl)
      exact ⟨hlease, hk.trans hcommit, fun m hm hne => (hcfg m hm).trans (if_neg hne), fun _ => hstopped,
        fun hen hold => ⟨fun _ => hrise (hk ▸ hen) hold, fun h => absurd h (by omega)⟩, fun _ h => absurd h (by omega)⟩
    · obtain ⟨hlease, hcfg, hrise, hoff⟩ := State.ringCommit_cq hl' (by omega) h8
      simp only [State.linkTlp_rings] at hcfg hrise
      have hk := (hcfg l.ring h8).trans (if_pos rfl)
      exact ⟨hlease, hk.trans hcommit, fun m hm hne => (hcfg m hm).trans (if_neg hne), fun h => absurd h h4,
        fun hen hold => ⟨fun h => absurd h h4, fun _ => hrise (hk ▸ hen) hold⟩, fun hen _ => hoff (hk ▸ hen)⟩

end Sys2Proof.Machine
end

section
/-!
PROOFS. What the ring engine reads from a submission ring, and what the completions of its reads do (R409, R425 to R427, R537, R538, R542, R580).
-/

namespace Sys2Proof.Machine

open Sys2Proof Sys2Proof.Safety

/-! ### The ring that is read next (R580) -/

/-- From `s` to `u` the round moves, and of the rings which are eligible and the deficits; nothing else. -/
structure Turned (s u : State) : Prop where
  units : ∃ fns round, u = { s with rng := { s.rng with fns := fns, round := round } }
  rings : ∀ t, ∃ e d, u.rings t = { s.rings t with elig := e, df := d }

namespace Turned

theorem refl (s : State) : Turned s s := ⟨⟨_, _, rfl⟩, fun _ => ⟨_, _, rfl⟩⟩

theorem trans {s u v : State} (h : Turned s u) (k : Turned u v) : Turned s v := by
  obtain ⟨⟨_, _, hu⟩, hr⟩ := h
  obtain ⟨⟨_, _, hv⟩, kr⟩ := k
  refine ⟨⟨_, _, by rw [hv, hu]⟩, fun t => ?_⟩
  obtain ⟨_, _, ht⟩ := hr t
  obtain ⟨e, d, kt⟩ := kr t
  exact ⟨e, d, by rw [kt, ht]⟩

theorem modRings (s : State) (t : Nat) (f : Rings → Rings) (hf : ∀ r, ∃ e d, f r = { r with elig := e, df := d }) : Turned s (s.modRings t f) := by
  refine ⟨⟨_, _, rfl⟩, fun x => ?_⟩
  rw [State.modRings_rings]
  split
  · next hx => subst hx; exact hf _
  · exact ⟨_, _, rfl⟩

theorem endTurn (s : State) (cur : Option Nat) : Turned s (s.endTurn cur) := by
  unfold State.endTurn
  split
  · split
    · exact modRings s _ _ fun _ => ⟨_, _, rfl⟩
    · exact refl s
  · exact refl s

variable {s u : State}

theorem sqEligible (h : Turned s u) (t n : Nat) : u.sqEligible t n = s.sqEligible t n := by
  obtain ⟨⟨fns, round, hu⟩, hr⟩ := h
  obtain ⟨e, d, ht⟩ := hr t
  unfold State.sqEligible
  rw [ht, hu]
  rfl

theorem startRings (h : Turned s u) (t : Nat) : u.startRings t = s.startRings t := by
  obtain ⟨e, d, ht⟩ := h.rings t
  unfold State.startRings State.eligRings
  simp only [h.sqEligible, ht]

theorem freeTag (h : Turned s u) (p : Nat) : u.freeTag p = s.freeTag p := by
  obtain ⟨⟨fns, round, rfl⟩, -⟩ := h
  rfl

theorem awaitsHeader (h : Turned s u) (t : Nat) : (u.rings t).awaitsHeader = (s.rings t).awaitsHeader := by
  obtain ⟨e, d, ht⟩ := h.rings t
  rw [ht]
  rfl

theorem smallest (h : Turned s u) (t : Nat) (l : List Nat) : (u.rings t).smallest l = (s.rings t).smallest l := by
  obtain ⟨e, d, ht⟩ := h.rings t
  rw [ht]
  rfl

end Turned

/-- No pass moves where the eligible rings were eligible before. -/
theorem State.refreshPass_eq {s : State} {t : Nat} (h : ∀ m ∈ s.eligRings t, (s.rings t).elig.testBit m = true) :
    ∃ e, s.refreshPass t = s.modRings t fun r => { r with elig := e } := by
  refine ⟨_, congrArg (fun u : State => u.modRings t fun r => { r with elig := (s.eligRings t).foldl (fun e n => e + 2 ^ n) 0 }) ?_⟩
  exact List.foldlRecOn (motive := fun u => u = s) (s.eligRings t) _ rfl fun u hu m hm => by rw [hu]; exact if_pos (h m hm)

/-- The ring of the smallest pass, the lowest of those, is found. -/
theorem Rings.smallest_eq {r : Rings} {l : List Nat} {n : Nat} (hl : l.Pairwise (· < ·)) (hn : n ∈ l)
    (hmin : ∀ m ∈ l, m ≠ n → r.passOf n < r.passOf m ∨ (r.passOf n = r.passOf m ∧ n < m)) : r.smallest l = some n := by
  obtain ⟨before, after, rfl⟩ := List.append_of_mem hn
  obtain ⟨-, hafter, hbefore⟩ := List.pairwise_append.mp hl
  unfold Rings.smallest
  rw [List.foldl_append, List.foldl_cons]
  have hbest : ∀ k, before.foldl (fun m n => match m with
      | none => some n
      | some k => if r.passOf n < r.passOf k then some n else some k) none = some k → k ∈ before :=
    List.foldlRecOn (motive := fun o => ∀ k, o = some k → k ∈ before) before _ (fun _ h => nomatch h) fun o ho a ha k hk => by
      split at hk
      · exact (Option.some.inj hk) ▸ ha
      · split at hk
        · exact (Option.some.inj hk) ▸ ha
        · exact ho k hk
  refine List.foldlRecOn (motive := fun o => o = some n) after _ ?_ fun o ho a ha => ?_
  · split
    · rfl
    · next k hk =>
      have hlt : k < n := hbefore k (hbest k hk) n (List.mem_cons_self ..)
      rcases hmin k (List.mem_append_left _ (hbest k hk)) (by omega) with h | h
      · exact if_pos h
      · omega
  · subst ho
    have hlt : n < a := (List.pairwise_cons.mp hafter).1 a ha
    refine if_neg ?_
    rcases hmin a (List.mem_append_right _ (List.mem_cons_of_mem _ ha)) (by omega) with h | h <;> omega

theorem State.startRings_sorted (s : State) (t : Nat) : (s.startRings t).Pairwise (· < ·) :=
  List.Pairwise.filter _ (List.Pairwise.filter _ (by decide))

/-- With one function at the port the turn is its own. -/
theorem State.fetchNext_alone {s : State} {p t n g : Nat} (hfns : s.ringFns p = [t])
    (hround : tget 0 s.rng.round p = 0 ∨ tget 0 s.rng.round p = t + 1) (htag : s.freeTag p = some g)
    (hwait : (s.rings t).awaitsHeader = false) (helig : ∀ m ∈ s.eligRings t, (s.rings t).elig.testBit m = true) (hn : n ∈ s.startRings t)
    (hmin : ∀ m ∈ s.startRings t, m ≠ n →
      (s.rings t).passOf n < (s.rings t).passOf m ∨ ((s.rings t).passOf n = (s.rings t).passOf m ∧ n < m)) :
    ∃ u, Turned s u ∧ s.fetchNext p = u.startFetch t n g := by
  have hsmall := Rings.smallest_eq (s.startRings_sorted t) hn hmin
  have hstart : (s.startRings t).isEmpty = false := by
    cases h : s.startRings t with
    | nil => rw [h] at hn; cases hn
    | cons => rfl
  obtain ⟨e, href⟩ := State.refreshPass_eq helig
  have h0 : Turned s (s.refreshPass t) := href ▸ Turned.modRings s t _ fun _ => ⟨_, _, rfl⟩
  have hcode : tget 0 (s.refreshPass t).rng.round p = tget 0 s.rng.round p := by rw [href]; rfl
  unfold State.fetchNext
  rw [hfns]
  simp only [State.each, List.foldl_cons, List.foldl_nil, h0.freeTag, htag, hcode]
  have hcur : ∃ cur, (if tget 0 s.rng.round p = 0 then none else some (tget 0 s.rng.round p - 1)) = cur ∧ (cur = none ∨ cur = some t) := by
    refine ⟨_, rfl, ?_⟩
    rcases hround with h | h <;> simp [h]
  obtain ⟨cur, hcur, hwho⟩ := hcur
  rw [hcur]
  have h1 := h0.trans (Turned.endTurn (s.refreshPass t) cur)
  generalize (s.refreshPass t).endTurn cur = v at h1
  simp only [List.any_cons, List.any_nil, h1.awaitsHeader, hwait, Bool.or_self, Bool.false_eq_true, if_false]
  have hpick (stay : Bool) (hstay : stay = true → cur = some t) :
      ∃ w, Turned s w ∧ (if stay = true then (cur, v) else v.advanceRound p (roundFrom [t] cur)) = (some t, w) := by
    split
    · next h => exact ⟨v, h1, by rw [hstay h]⟩
    · have hround : roundFrom [t] cur = [t] := by rcases hwho with rfl | rfl <;> simp [roundFrom]
      rw [hround]
      unfold State.advanceRound
      rw [if_pos (by rw [h1.startRings, hstart]; rfl)]
      refine ⟨_, ?_, rfl⟩
      exact h1.trans (Turned.trans ⟨⟨_, tset 0 v.rng.round p (t + 1), rfl⟩, fun x => ⟨_, _, rfl⟩⟩ (Turned.modRings _ t _ fun r => ⟨r.elig, _, rfl⟩))
  obtain ⟨w, hw, hpick⟩ := hpick (match (generalizing := false) cur with
    | some t => decide (0 < (v.rings t).df) && !(v.startRings t).isEmpty
    | none => false) (by rcases hwho with rfl | rfl <;> simp)
  refine ⟨w, hw, (congrArg (fun r : Option Nat × State => match r.1 with
    | none => r.2
    | some t => match (r.2.rings t).smallest (r.2.startRings t) with
      | none => r.2
      | some n => r.2.startFetch t n g) hpick).trans ?_⟩
  simp only [hw.smallest, hw.startRings, hsmall]

/-! ### A slot is asked for -/

/-- What a request for a slot changes. -/
theorem State.askSlot_asks (s : State) (t n i g : Nat) : (s.askSlot t n i g).rng = s.rng ∧
    (s.askSlot t n i g).outbox = s.outbox ++ [.read (portOf t) g t (((s.rings t).cfg n).slotAddr i 64) 64] ∧
    ((s.askSlot t n i g).port (portOf t)).reads = (s.port (portOf t)).reads ++ [⟨g, t, n, true, true⟩] := by
  unfold State.askSlot
  dsimp only
  refine ⟨State.linkTlp_rng .., congrArg (· ++ _) (State.linkTlp_outbox ..), ?_⟩
  obtain ⟨l, hl⟩ := State.linkTlp_port (s.modPort (portOf t) fun x => { x with reads := x.reads ++ [⟨g, t, n, true, true⟩] }) (portOf t) (portOf t)
  refine (congrArg Port.reads hl).trans ?_
  rw [State.modPort_port, if_pos rfl]

theorem State.rings_of_rng {s u : State} (h : u.rng = s.rng) (t : Nat) : u.rings t = s.rings t := by unfold State.rings; rw [h]

/-- A carriage begins: a record slot is reserved for it and the slot at SQ_HEAD is asked for. -/
theorem State.startFetch_starts (s : State) (t n g : Nat) :
    let r := s.rings t
    let c := (s.rings t).cfg n
    let u := s.startFetch t n g
    tget none (u.rings t).fetch n = some ⟨s.serial, c.cq, none, []⟩ ∧ (u.rings t).slots n = r.slots n ++ [⟨s.serial, c.cq, none⟩] ∧
      tget 0 (u.rings t).reserved c.cq = tget 0 r.reserved c.cq + 1 ∧
      (u.port (portOf t)).reads = (s.port (portOf t)).reads ++ [⟨g, t, n, true, true⟩] ∧
      u.outbox = s.outbox ++ [.read (portOf t) g t (c.slotAddr (tget 0 r.sqHead n) 64) 64] := by
  intro r c u
  let f (q : Rings) : Rings := ({ (q.reserve c.cq) with fetch := tset none q.fetch n (some ⟨s.serial, c.cq, none, []⟩) } : Rings).setSlots n
    (q.slots n ++ [⟨s.serial, c.cq, none⟩])
  let v := s.fresh.2.modRings t f
  have hu : u = v.askSlot t n (tget 0 r.sqHead n) g := rfl
  obtain ⟨hrng, hout, hreads⟩ := State.askSlot_asks v t n (tget 0 r.sqHead n) g
  have hv : v.rings t = f r := (State.modRings_rings s.fresh.2 t f t).trans (if_pos rfl)
  have hrings : u.rings t = f r := by rw [hu, State.rings_of_rng hrng, hv]
  have hcfg : (f r).cfg n = c := rfl
  have hslots : (f r).slots n = tget [] (tset [] r.order n (r.slots n ++ [⟨s.serial, c.cq, none⟩])) n := rfl
  have hres : (f r).reserved = tset 0 r.reserved c.cq (tget 0 r.reserved c.cq + 1) := rfl
  have hfetch : (f r).fetch = tset none r.fetch n (some ⟨s.serial, c.cq, none, []⟩) := rfl
  rw [hrings, hslots, hres, hfetch, hu, hreads, hout, hv, hcfg]
  simp only [tget_tset_same, true_and]
  exact ⟨rfl, rfl⟩

/-! ### What a completion finds -/

theorem State.findRead_linkTlp (s : State) (p g : Nat) : (s.linkTlp p).findRead p g = s.findRead p g := by
  obtain ⟨l, hl⟩ := s.linkTlp_port p p
  have hports : (s.linkTlp p).linkPorts p = s.linkPorts p := by unfold State.linkPorts; rw [hl]
  unfold State.findRead
  rw [hports]
  congr 1
  funext q
  obtain ⟨l, hl⟩ := s.linkTlp_port p q
  rw [hl]

theorem State.findRead_link {s : State} {p g q : Nat} {r : HostRead} (h : s.findRead p g = some (q, r)) : q ∈ s.linkPorts q := by
  obtain ⟨a, ha, hr⟩ := List.exists_of_findSome?_eq_some h
  obtain ⟨x, -, hx⟩ := Option.map_eq_some_iff.mp hr
  obtain rfl : a = q := congrArg Prod.fst hx
  unfold State.linkPorts at ha ⊢
  split
  · simp; omega
  · simp

/-- The state in which the completion of read `r` acts: the link is awake and the read is no longer outstanding. -/
def State.readDone (s : State) (p q : Nat) (r : HostRead) : State := (s.linkTlp p).closeRead q r

theorem exec_readCompletion {s : State} {p g q : Nat} {r : HostRead} (hp : s.portPresent p = true) (hr : s.findRead p g = some (q, r)) (c : Cpl) :
    exec (.readCompletion p g c) s = .next (
      let v := s.readDone p q r
      if !r.live then (if r.late then v.cntLate q else v)
      else match c with
        | .ok os => v.slotArrived r.tenant r.ring g os
        | .ur => (v.stopRing r.tenant r.ring 10).aerError r.tenant aerTimeout
        | .ca => (v.stopRing r.tenant r.ring 10).aerError r.tenant aerTimeout
        | .poisoned => v.fatalAer q 5) := by
  refine congrArg Host.Outcome.next ((if_pos hp).trans ?_)
  unfold State.completion
  rw [s.findRead_linkTlp, hr]
  rfl

theorem State.aerError_still (s : State) (t b : Nat) : (s.aerError t b).rng = s.rng ∧ (s.aerError t b).ports = s.ports := by
  obtain ⟨-, hrng, -, hports, -⟩ := State.units_of_still (State.record_still (s.aerLog t b) 6 1 (unitHpc (portOf t)) none none none
    ((s.port (portOf t)).cause))
  let v := s.modFn (if s.fnExists t then t else pfOf t) fun f => { f with aerUnc := putBit f.aerUnc b true }
  obtain ⟨-, krng, -, kports, -⟩ := State.units_of_still (v.raise_still (321 + 4 * portOf t))
  exact ⟨hrng.trans krng, hports.trans kports⟩

/-- A ring stops. -/
theorem State.stopRing_stops {s : State} {t n : Nat} {f : Fetching} (hf : tget none (s.rings t).fetch n = some f) (status : Nat) :
    let u := s.stopRing t n status
    tget false (u.rings t).stopped n = true ∧ tget none (u.rings t).fetch n = none ∧
      tget 0 (u.rings t).sqHead n = tget 0 (s.rings t).sqHead n ∧ u.rng.stop = satInc 511 s.rng.stop := by
  let v := s.modRings t fun r => { r with fetch := tset none r.fetch n none, stopped := tset false r.stopped n true }
  let w : State := { v with rng := { v.rng with stop := satInc 511 v.rng.stop } }
  have hsends : Sends w (s.stopRing t n status) := by
    unfold State.stopRing
    rw [hf]
    refine Sends.trans ?_ ((Sends.raise _ 256).trans (Sends.fillRecord ..))
    change Sends w (if (bump 511 v.rng.stop).2 then w.raise 256 else w)
    split
    · exact Sends.raise w 256
    · exact Sends.refl w
  have hv : w.rings t = { s.rings t with fetch := tset none (s.rings t).fetch n none, stopped := tset false (s.rings t).stopped n true } := by
    change v.rings t = _
    rw [State.modRings_rings, if_pos rfl]
  obtain ⟨hfetch, hhead, hstopped⟩ := hsends.rings t
  intro u
  rw [hfetch, hhead, hstopped, hv]
  simp only [tget_tset_same, true_and]
  exact hsends.stop

/-! ### A slot that arrives -/

theorem State.charge_header (s : State) (t n slots : Nat) (f : Fetching) :
    ∃ v, (s.modRings t fun r => { r with fetch := tset none r.fetch n (some f) }).charge t n slots = v ∧ v.outbox = s.outbox ∧
      v.rng.stop = s.rng.stop ∧ ∃ d pass, v.rings t = { s.rings t with fetch := tset none (s.rings t).fetch n (some f), df := d, pass := pass } := by
  refine ⟨_, rfl, rfl, rfl, ?_⟩
  unfold State.charge
  simp only [State.modRings_rings, if_true]
  exact ⟨_, _, rfl⟩

section

variable {s : State} {t n g : Nat} {f : Fetching} {os : List Octet}

/-- The header of a carriage with payload asks for its first payload slot. -/
theorem State.slotArrived_header (hf : tget none (s.rings t).fetch n = some f) (hnone : f.header = none) (hpay : f.payload = [])
    (hlen : os.length = 64) (hlow : 1 ≤ hSlots os) (hhigh : hSlots os ≤ 63) :
    ∃ (v : State) (d : Int) (pass : Tbl Nat), s.slotArrived t n g os = v.askSlot t n (tget 0 (s.rings t).sqHead n + 1) g ∧ v.outbox = s.outbox ∧
      v.rings t = { s.rings t with fetch := tset none (s.rings t).fetch n (some { f with header := some os }), df := d, pass := pass } := by
  have hslot : (os ++ List.replicate 64 0).take 64 = os := List.take_left' hlen
  obtain ⟨v, hv, hout, -, d, pass, hrings⟩ := s.charge_header t n (hSlots os) { f with header := some os }
  refine ⟨v, d, pass, ?_, hout, hrings⟩
  unfold State.slotArrived
  simp only [hf, hslot, hnone, Option.getD_some, Option.isNone_none, if_true, if_neg (Nat.not_lt.mpr hhigh), hpay, List.length_nil,
    if_pos (show 0 < 64 * hSlots os by omega), Nat.zero_div, Nat.add_zero]
  rw [hpay] at hv
  rw [hv, hrings]

/-- A header that asks for too many payload slots stops the ring. -/
theorem State.slotArrived_tooLong (hf : tget none (s.rings t).fetch n = some f) (hnone : f.header = none)
    (hlen : os.length = 64) (hslots : 63 < hSlots os) :
    ∃ (v : State) (d : Int) (pass : Tbl Nat), s.slotArrived t n g os = v.stopRing t n 2 ∧ v.rng.stop = s.rng.stop ∧
      v.rings t = { s.rings t with fetch := tset none (s.rings t).fetch n (some { f with header := some os }), df := d, pass := pass } := by
  have hslot : (os ++ List.replicate 64 0).take 64 = os := List.take_left' hlen
  obtain ⟨v, hv, -, hstop, d, pass, hrings⟩ := s.charge_header t n 0 { f with header := some os }
  refine ⟨v, d, pass, ?_, hstop, hrings⟩
  unfold State.slotArrived
  simp only [hf, hslot, hnone, Option.getD_some, Option.isNone_none, if_true, if_pos hslots]
  rw [hv]

/-- The last slot makes the carriage ready, with SQ_HEAD past it. -/
theorem State.slotArrived_last {h : List Octet} (hf : tget none (s.rings t).fetch n = some f) (hsome : f.header = some h)
    (hslots : hSlots h ≤ 63) (hlast : f.payload.length + 64 = 64 * hSlots h) :
    ∃ (v : State) (c : Carriage), s.slotArrived t n g os = v.nowReady c ∧ tget none (v.rings t).fetch n = none ∧
      tget 0 (v.rings t).sqHead n = (tget 0 (s.rings t).sqHead n + 1 + hSlots h) % 2 ^ 32 := by
  have hlen : ((os ++ List.replicate 64 0).take 64).length = 64 := by simp
  unfold State.slotArrived
  simp only [hf, hsome, Option.getD_some, Option.isNone_some, Bool.false_eq_true, if_false, if_neg (Nat.not_lt.mpr hslots), List.length_append, hlen,
    if_neg (show ¬ f.payload.length + 64 < 64 * hSlots h by omega)]
  refine ⟨_, _, rfl, ?_, ?_⟩ <;> simp only [State.modRings_rings, if_true, tget_tset_same]
  rfl

end

/-! ### What a completion does -/

theorem State.readDone_keeps (s : State) (p q : Nat) (r : HostRead) : (s.readDone p q r).rng = s.rng ∧ (s.readDone p q r).outbox = s.outbox :=
  ⟨s.linkTlp_rng p, s.linkTlp_outbox p⟩

theorem State.readDone_port (s : State) (p q : Nat) (r : HostRead) :
    ((s.readDone p q r).port q).reads = (s.port q).reads.erase r ∧ ((s.readDone p q r).port q).latecpl = (s.port q).latecpl ∧
    ((s.readDone p q r).port q).merged = (s.port q).merged := by
  obtain ⟨l, hl⟩ := s.linkTlp_port p q
  unfold State.readDone State.closeRead
  rw [State.modPort_port, if_pos rfl, hl]
  exact ⟨rfl, rfl, rfl⟩

/-- A read that fails stops its ring. -/
theorem State.stopRing_failed {s v : State} {t n : Nat} {f : Fetching} (hv : v.rng = s.rng) (hf : tget none (s.rings t).fetch n = some f) (status : Nat) :
    let u := (v.stopRing t n status).aerError t aerTimeout
    tget false (u.rings t).stopped n = true ∧ tget none (u.rings t).fetch n = none ∧
      tget 0 (u.rings t).sqHead n = tget 0 (s.rings t).sqHead n ∧ u.rng.stop = satInc 511 s.rng.stop := by
  have hrings := State.rings_of_rng hv t
  obtain ⟨hrng, -⟩ := (v.stopRing t n status).aerError_still t aerTimeout
  have hstops := State.stopRing_stops (s := v) (hrings ▸ hf) status
  intro u
  rw [State.rings_of_rng hrng, hrng]
  rwa [hrings, hv] at hstops

/-- A freezing error freezes the port that it comes to. -/
theorem State.fatalAer_frozen {s : State} {q : Nat} (b : Nat) (h : q ∈ s.linkPorts q) :
    ((s.fatalAer q b).port q).frozen = true ∧ ((s.fatalAer q b).port q).cause.testBit b = true := by
  unfold State.fatalAer
  split
  · obtain ⟨-, hports⟩ := (s.freezeLink q b).aerError_still (1024 * q) (aerOfCause b)
    unfold State.port
    rw [hports]
    exact s.freezeLink_frozen b h
  · have hport : (s.aerLog (1024 * q) (aerOfCause b)).port q = s.port q := State.port_of_still (State.raise_still (s.modFn _ _) _) q
    refine State.freezeLink_frozen _ b ?_
    unfold State.linkPorts at h ⊢
    rwa [hport]

/-- Settles O38. -/
theorem carriagesAreFetched : Obligations.CarriagesAreFetched := by
  refine ⟨fun s p t n g hp hfns hround htag hwait helig hn hmin => ?_, fun s p g q r f os hp hr hlive hf => ⟨fun hnone hpay hlen hlow hhigh => ?_,
    fun h hsome hslots hlast => ?_⟩, fun s p g q r f os hp hr hlive hf hnone hlen hslots => ?_, fun s p g q r f c hp hr hlive hf hc => ?_,
    fun s p g q r f hr hlive hf => ?_, fun s p g q r hp hr => ⟨fun hlive => ?_, fun hlive c => ?_⟩, fun s p g c hp hr => ?_⟩
  · obtain ⟨v, hv, hnext⟩ := State.fetchNext_alone hfns hround htag hwait helig hn hmin
    obtain rfl : portOf t = p := by
      have ht : t ∈ s.ringFns p := hfns ▸ List.mem_singleton_self t
      simpa using (List.mem_filter.mp ht).2
    refine ⟨v.startFetch t n g, (congrArg Host.Outcome.next (if_pos hp)).trans (congrArg _ hnext), ?_⟩
    obtain ⟨hfetch, hslots, hres, hreads, hout⟩ := v.startFetch_starts t n g
    obtain ⟨⟨fns, round, hu⟩, hr⟩ := hv
    obtain ⟨e, d, ht⟩ := hr t
    rw [ht] at hfetch hslots hres hout
    have hserial : v.serial = s.serial := by rw [hu]
    rw [hserial] at hfetch hslots
    have hport : v.port (portOf t) = s.port (portOf t) := by rw [hu]; rfl
    have hbox : v.outbox = s.outbox := by rw [hu]
    rw [hport] at hreads
    rw [hbox] at hout
    exact ⟨hfetch, hslots, hres, hreads, hout⟩
  · have hexec := exec_readCompletion hp hr (.ok os)
    rw [hlive] at hexec
    obtain ⟨krng, kout⟩ := s.readDone_keeps p q r
    have hrings := State.rings_of_rng krng r.tenant
    obtain ⟨v, d, pass, hv, hout, hvr⟩ := State.slotArrived_header (s := s.readDone p q r) (g := g) (hrings ▸ hf) hnone hpay hlen hlow hhigh
    obtain ⟨arng, aout, -⟩ := v.askSlot_asks r.tenant r.ring (tget 0 ((s.readDone p q r).rings r.tenant).sqHead r.ring + 1) g
    refine ⟨_, hexec.trans (congrArg _ hv), ?_⟩
    rw [State.rings_of_rng arng, aout, hvr, hout, kout, hrings]
    simp only [tget_tset_same, true_and]
    rfl
  · have hexec := exec_readCompletion hp hr (.ok os)
    rw [hlive] at hexec
    obtain ⟨krng, -⟩ := s.readDone_keeps p q r
    have hrings := State.rings_of_rng krng r.tenant
    obtain ⟨v, c, hv, hfetch, hhead⟩ := State.slotArrived_last (s := s.readDone p q r) (g := g) (os := os) (hrings ▸ hf) hsome hslots hlast
    obtain ⟨nfetch, nhead, -⟩ := (Sends.nowReady v c).rings r.tenant
    refine ⟨_, hexec.trans (congrArg _ hv), ?_⟩
    rw [nfetch, nhead, hfetch, hhead, hrings]
    exact ⟨rfl, rfl⟩
  · have hexec := exec_readCompletion hp hr (.ok os)
    rw [hlive] at hexec
    obtain ⟨krng, -⟩ := s.readDone_keeps p q r
    have hrings := State.rings_of_rng krng r.tenant
    obtain ⟨v, d, pass, hv, hstop, hvr⟩ := State.slotArrived_tooLong (s := s.readDone p q r) (g := g) (hrings ▸ hf) hnone hlen hslots
    refine ⟨_, hexec.trans (congrArg _ hv), ?_⟩
    have hstops := State.stopRing_stops (s := v) (t := r.tenant) (n := r.ring) (f := { f with header := some os })
      (by rw [hvr]; simp only [tget_tset_same]) 2
    rw [hvr, hstop, hrings, krng] at hstops
    exact hstops
  · obtain ⟨krng, -⟩ := s.readDone_keeps p q r
    have hexec := exec_readCompletion hp hr c
    rw [hlive] at hexec
    refine ⟨_, hexec.trans ?_, State.stopRing_failed krng hf 10⟩
    rcases hc with rfl | rfl <;> rfl
  · refine ⟨_, ?_, State.stopRing_failed (s := s) (v := s.closeRead q r) rfl hf 10⟩
    refine congrArg Host.Outcome.next ?_
    rw [hr]
    exact if_pos hlive
  · have hexec := exec_readCompletion hp hr .poisoned
    rw [hlive] at hexec
    refine ⟨_, hexec, State.fatalAer_frozen 5 ?_⟩
    obtain ⟨-, -, hmerged⟩ := s.readDone_port p q r
    unfold State.linkPorts
    rw [hmerged]
    exact State.findRead_link hr
  · have hexec := exec_readCompletion hp hr c
    rw [hlive] at hexec
    obtain ⟨krng, -⟩ := s.readDone_keeps p q r
    obtain ⟨hreads, hlate, -⟩ := s.readDone_port p q r
    refine ⟨_, hexec, ?_⟩
    change (if r.late then (s.readDone p q r).cntLate q else s.readDone p q r).rng = _ ∧
      ((if r.late then (s.readDone p q r).cntLate q else s.readDone p q r).port q).reads = _ ∧
      ((if r.late then (s.readDone p q r).cntLate q else s.readDone p q r).port q).latecpl = _
    split
    · unfold State.cntLate
      rw [State.modPort_port, if_pos rfl, hlate]
      exact ⟨krng, hreads, rfl⟩
    · exact ⟨krng, hreads, hlate⟩
  · refine ⟨(s.linkTlp p).aerError (1024 * p) aerUnexpected, congrArg Host.Outcome.next ((if_pos hp).trans ?_),
      ((s.linkTlp p).aerError_still _ _).1.trans (s.linkTlp_rng p)⟩
    unfold State.completion
    rw [s.findRead_linkTlp, hr]

end Sys2Proof.Machine
end

section
/-!
PROOFS. How the edit leases of the event assembly end, and what BSU_LEASEBRK breaks (R448, R453, R590, R594, R595, R664).
-/

namespace Sys2Proof.Machine

open Sys2Proof Sys2Proof.Safety

/-! ### What must stay for a carriage to be answered -/

/-- From `s` to `u` the rings, the functions and the freezes of the ports stay, and what was sent before stays sent. -/
structure HostKept (s u : State) : Prop where
  hw : u.hw = s.hw
  rings : ∀ t, u.rings t = s.rings t
  fns : u.fns = s.fns
  frozen : ∀ q, (u.port q).frozen = (s.port q).frozen
  outbox : s.outbox <+: u.outbox

namespace HostKept

theorem refl (s : State) : HostKept s s := ⟨rfl, fun _ => rfl, rfl, fun _ => rfl, List.prefix_rfl⟩

theorem trans {s t u : State} (h : HostKept s t) (k : HostKept t u) : HostKept s u :=
  ⟨k.hw.trans h.hw, fun x => (k.rings x).trans (h.rings x), k.fns.trans h.fns, fun q => (k.frozen q).trans (h.frozen q),
    h.outbox.trans k.outbox⟩

theorem of_still {s u : State} (h : u.still = s.still) (hout : s.outbox <+: u.outbox) : HostKept s u := by
  obtain ⟨-, hrng, hfns, -, -⟩ := State.units_of_still h
  exact ⟨congrArg (fun x => x.2.1) h, fun t => State.rings_of_rng hrng t, hfns, fun q => by rw [State.port_of_still h q], hout⟩

theorem raise (s : State) (n : Nat) : HostKept s (s.raise n) := of_still (s.raise_still n) (s.raise_outbox n)

theorem record (s : State) (cls sev unit : Nat) (ctx tenant addr : Option Nat) (detail : Nat) :
    HostKept s (s.record cls sev unit ctx tenant addr detail) := of_still (State.record_still ..) (State.record_outbox ..)

theorem setLine (s : State) (n : Nat) (b : Bool) : HostKept s (s.setLine n b) := by
  refine of_still (s.setLine_still n b) ?_
  unfold State.setLine
  dsimp only
  split
  · rw [(SourcesOnly.lineEdge _ n).outbox, (SourcesOnly.levelCount _ n).outbox]
  · rw [(SourcesOnly.levelCount _ n).outbox]

theorem eau (s : State) (e : Eau) : HostKept s { s with eau := e } := ⟨rfl, fun _ => rfl, rfl, fun _ => rfl, List.prefix_rfl⟩

theorem bsu (s : State) (b : Bsu) : HostKept s { s with bsu := b } := ⟨rfl, fun _ => rfl, rfl, fun _ => rfl, List.prefix_rfl⟩

theorem eauEvent (s : State) (i : Nat) : HostKept s (s.eauEvent i) := (eau s _).trans (setLine _ _ _)

theorem eauCount (s : State) (k : Nat) : HostKept s (s.eauCount k) := by
  unfold State.eauCount
  dsimp only
  split
  · exact (eau s _).trans (eauEvent _ 0)
  · exact eau s _

theorem linkTlp (s : State) (p : Nat) : HostKept s (s.linkTlp p) := by
  refine ⟨by rw [s.linkTlp_ports p], s.linkTlp_rings p, by rw [s.linkTlp_ports p], fun q => ?_, by rw [s.linkTlp_outbox]⟩
  obtain ⟨l, hl⟩ := s.linkTlp_port p q
  rw [hl]

theorem heard (s : State) (r : Requester) : HostKept s (s.heard r) := by
  cases r with
  | host p => exact linkTlp s p
  | context n => exact refl s
  | service => exact refl s

/-- What happens before a carriage completes does not matter to its answer. -/
theorem answered {s t u : State} {c : Carriage} {status : Nat} {info : List Octet} (h : HostKept s t) (hu : Answered t u c status info) :
    Answered s u c status info := by
  refine answered_since hu (h.rings _) ?_ (h.frozen _) h.outbox
  unfold State.fnSends State.fnExists State.tenantExists State.portPresent State.fn
  rw [h.hw, h.fns]

theorem complete {s t : State} (h : HostKept s t) (c : Carriage) (status : Nat) (info : List Octet) :
    Answered s (t.complete c status info) c status info := h.answered (t.complete_answered c status info)

end HostKept

theorem Sends.dmc {s u : State} (h : Sends s u) : u.dmc = s.dmc := by obtain ⟨⟨_, _, _, _, _, _, rfl⟩, -, -, -⟩ := h; rfl

/-! ### Profiles and pools -/

theorem State.prof_of_eau {s u : State} (h : u.eau.profs = s.eau.profs) (n : Nat) : u.prof n = s.prof n := by unfold State.prof; rw [h]

theorem State.pool_of_eau {s u : State} (h : u.eau.pools = s.eau.pools) (n : Nat) : u.pool n = s.pool n := by unfold State.pool; rw [h]

theorem State.heard_eau (s : State) (r : Requester) : (s.heard r).eau = s.eau := by rw [s.heard_ports r]
theorem State.heard_dmc (s : State) (r : Requester) : (s.heard r).dmc = s.dmc := by rw [s.heard_ports r]
theorem State.heard_rings (s : State) (r : Requester) (t : Nat) : (s.heard r).rings t = s.rings t := State.rings_of_rng (s.heard_rng r) t

theorem State.heard_port (s : State) (r : Requester) (q : Nat) : ∃ l, (s.heard r).port q = { s.port q with lpower := l } := by
  cases r with
  | host p => exact s.linkTlp_port p q
  | context n => exact ⟨_, rfl⟩
  | service => exact ⟨_, rfl⟩

section

variable {s : State} {n : Nat} {c : Carriage} {l : LeaseEnd}

/-- The edit lease of a profile is broken or runs out: the release ends, the profile stays, and the carriage answers TIMEOUT. -/
theorem State.profBreak_ends (h : (s.prof n).release = some (c, l)) :
    let u := s.profBreak n
    Answered s u c 10 [] ∧ u.prof n = { s.prof n with release := none } ∧ u.eau.event.testBit 2 = true ∧ u.bsu = s.bsu := by
  let v := s.setProf n { s.prof n with release := none }
  have hbreak : s.profBreak n = (v.eauEvent 2).complete c 10 [] := by
    unfold State.profBreak
    simp only [h]
    rfl
  have hsends := Sends.complete (v.eauEvent 2) c 10 []
  have hprof : v.prof n = { s.prof n with release := none } := by simp [v]
  intro u
  refine ⟨?_, ?_, ?_, ?_⟩
  · rw [show u = _ from hbreak]
    exact ((HostKept.eau s v.eau).trans (HostKept.eauEvent v 2)).complete c 10 []
  · rw [← hprof]
    exact State.prof_of_eau (by rw [show u = _ from hbreak, hsends.eau, State.eauEvent_eau]) n
  · rw [show u = _ from hbreak, hsends.eau, State.eauEvent_eau, putBit_testBit]
    simp
  · rw [show u = _ from hbreak, hsends.bsu]
    exact (State.units_of_still (State.setLine_still ..)).2.2.2.2

/-- A release ends when no event of the profile is open. -/
theorem State.releaseDone_ends (h : (s.prof n).release = some (c, l)) (hopen : s.eau.table.any (fun e => match e.2 with
      | some e => decide (e.profile = n) && decide (e.st ≠ AsmState.spent)
      | none => false) = false) :
    let u := s.releaseDone n
    Answered s u c 0 [] ∧ u.prof n = {} ∧ (∀ k e, (k, some e) ∈ u.eau.table → e.profile ≠ n) ∧ ∀ j, j ≠ n → u.prof j = s.prof j := by
  let e : Eau := { s.eau with
    table := s.eau.table.filter fun e => match e.2 with | some e => decide (e.profile ≠ n) | none => true
    victims := tmap [] (fun _ l => l.filter fun v => decide (v.profile ≠ n)) s.eau.victims }
  let v := ({ s with eau := e }).setProf n {}
  have hdone : s.releaseDone n = v.complete c 0 [] := by
    unfold State.releaseDone
    simp only [h]
    exact if_neg fun hbusy => Bool.false_ne_true (hopen.symm.trans hbusy)
  have heau := (Sends.complete v c 0 []).eau
  have hprof (j : Nat) : (v.complete c 0 []).prof j = if j = n then {} else s.prof j :=
    (State.prof_of_eau (by rw [heau]; rfl) j).trans (State.setProf_prof ..)
  intro u
  rw [show u = _ from hdone]
  refine ⟨((HostKept.eau s e).trans (HostKept.eau _ v.eau)).complete c 0 [], by rw [hprof, if_pos rfl], fun k x hx => ?_,
    fun j hj => by rw [hprof, if_neg hj]⟩
  rw [heau] at hx
  simpa using (List.mem_filter.mp hx).2

variable {d : PoolRec}

/-- The edit lease of a pool is broken or runs out: the drain ends, the pool stays, and the carriage answers TIMEOUT. -/
theorem State.poolBreak_ends (h : (s.pool n).drain = some (c, d, l)) :
    let u := s.poolBreak n
    Answered s u c 10 [] ∧ u.pool n = { s.pool n with drain := none } ∧ u.eau.event.testBit 2 = true ∧ u.bsu = s.bsu := by
  let v := s.setPool n { s.pool n with drain := none }
  have hbreak : s.poolBreak n = (v.eauEvent 2).complete c 10 [] := by
    unfold State.poolBreak
    simp only [h]
    rfl
  have hsends := Sends.complete (v.eauEvent 2) c 10 []
  have hpool : v.pool n = { s.pool n with drain := none } := by simp [v]
  intro u
  refine ⟨?_, ?_, ?_, ?_⟩
  · rw [show u = _ from hbreak]
    exact ((HostKept.eau s v.eau).trans (HostKept.eauEvent v 2)).complete c 10 []
  · rw [← hpool]
    exact State.pool_of_eau (by rw [show u = _ from hbreak, hsends.eau, State.eauEvent_eau]) n
  · rw [show u = _ from hbreak, hsends.eau, State.eauEvent_eau, putBit_testBit]
    simp
  · rw [show u = _ from hbreak, hsends.bsu]
    exact (State.units_of_still (State.setLine_still ..)).2.2.2.2

/-- A drain ends when no slot of the pool is in use. -/
theorem State.drainDone_ends (h : (s.pool n).drain = some (c, d, l)) (hused : (s.pool n).used = 0) :
    let u := s.drainDone n
    Answered s u c 0 [] ∧ u.pool n = (if d.en then { owned := true, owner := (s.pool n).owner, rec_ := d } else {}) ∧
      u.charged (s.pool n).owner = ((s.charged (s.pool n).owner).1, (s.charged (s.pool n).owner).2 - (s.pool n).lost) ∧
      ∀ j, j ≠ n → u.pool j = s.pool j := by
  let v := (s.setPool n (poolWith (s.pool n).owner d)).modCharge (s.pool n).owner fun k => (k.1, k.2 - (s.pool n).lost)
  have hdone : s.drainDone n = v.complete c 0 [] := by
    unfold State.drainDone
    simp only [h, hused, ne_eq, not_true_eq_false, if_false]
    rfl
  have heau := (Sends.complete v c 0 []).eau
  have hpool (j : Nat) : (v.complete c 0 []).pool j = if j = n then poolWith (s.pool n).owner d else s.pool j :=
    (State.pool_of_eau (by rw [heau]; rfl) j).trans (State.setPool_pool ..)
  intro u
  rw [show u = _ from hdone]
  refine ⟨(HostKept.eau s v.eau).complete c 0 [], by rw [hpool, if_pos rfl]; rfl, ?_, fun j hj => by rw [hpool, if_neg hj]⟩
  unfold State.charged
  rw [heau]
  exact tget_tset_same (0, 0) _ _ _

end

/-! ### A break that is requested (R594, R595) -/

/-- The state in which a break is made at once: KIND and INDEX as written. -/
def State.breakAsked (s : State) (kind index : Nat) : State := { s with bsu := { s.bsu with brkKind := kind, brkIndex := index } }

theorem State.leaseGo_free {s : State} (h : BreakFree s) (kind index : Nat) :
    s.leaseGo kind index = (s.breakAsked kind index).leaseBreak kind index := by
  obtain ⟨hbrk, hjob, hpower⟩ := h
  simp [State.leaseGo, State.breakDue, State.breakAsked, hbrk, hjob, hpower]

section

variable {s : State} {r : Requester}

theorem breakFree_heard (h : BreakFree s) (r : Requester) : BreakFree (s.heard r) := by
  unfold BreakFree
  rwa [State.heard_bsu, State.heard_pmu]

theorem State.breakAsked_kept (s : State) (r : Requester) (kind index : Nat) : HostKept s ((s.heard r).breakAsked kind index) :=
  (HostKept.heard s r).trans (HostKept.bsu ..)

theorem State.breakAsked_bsu (s : State) (r : Requester) (kind index : Nat) :
    ((s.heard r).breakAsked kind index).bsu = { s.bsu with brkKind := kind, brkIndex := index } := by
  rw [State.breakAsked, State.heard_bsu]

theorem State.breakAsked_eau (s : State) (r : Requester) (kind index : Nat) : ((s.heard r).breakAsked kind index).eau = s.eau := s.heard_eau r

theorem exec_leaseBreakRing {t : Nat} (hopen : RegOpen s r 0x14028) (ht : t < 8192) :
    exec (.leaseBreakRing r t) s = .next ((s.heard r).leaseGo 1 t) := by
  refine congrArg Host.Outcome.next ((State.writing_open hopen _).trans ?_)
  rw [Nat.mod_eq_of_lt ht]

theorem exec_leaseBreakProfile {n : Nat} (hopen : RegOpen s r 0x14028) (hn : n < 8192) :
    exec (.leaseBreakProfile r n) s = .next ((s.heard r).leaseGo 2 n) := by
  refine congrArg Host.Outcome.next ((State.writing_open hopen _).trans ?_)
  rw [Nat.mod_eq_of_lt hn]

theorem exec_leaseBreakPool {n : Nat} (hopen : RegOpen s r 0x14028) (hn : n < 8192) :
    exec (.leaseBreakPool r n) s = .next ((s.heard r).leaseGo 3 n) := by
  refine congrArg Host.Outcome.next ((State.writing_open hopen _).trans ?_)
  rw [Nat.mod_eq_of_lt hn]

theorem exec_leaseBreakFreeze {p : Nat} (hopen : RegOpen s r 0x14028) (hp : p < 8192) :
    exec (.leaseBreakFreeze r p) s = .next ((s.heard r).leaseGo 5 p) := by
  refine congrArg Host.Outcome.next ((State.writing_open hopen _).trans ?_)
  rw [Nat.mod_eq_of_lt hp]

theorem exec_leaseBreakDram (hopen : RegOpen s r 0x14028) :
    exec (.leaseBreakDram r) s = .next ((s.heard r).leaseGo 4 s.bsu.brkIndex) := by
  refine congrArg Host.Outcome.next ((State.writing_open hopen _).trans ?_)
  rw [State.heard_bsu]

end

/-! ### The maintenance lease of the DRAM (R567) -/

theorem State.tsetRestore_chans (s : State) (saved : List (Nat × List Word × List Word)) :
    ∃ chans, s.tsetRestore saved = { s with dmc := { s.dmc with chans := chans } } :=
  List.foldlRecOn (motive := fun u => ∃ chans, u = { s with dmc := { s.dmc with chans := chans } }) saved _ ⟨_, rfl⟩
    fun u hu e _ => by obtain ⟨chans, rfl⟩ := hu; exact ⟨_, rfl⟩

/-- A lease that is broken before its COMMIT restores TARGET and QUIET. -/
theorem State.dmcBreak_restores {s : State} {l : MaintLease} (h : s.dmc.lease = some l) (hopen : l.committed = false) :
    ∃ chans, s.dmcBreak.dmc = { s.dmc with chans := chans, lease := none, broken := true, target := l.target, quiet := l.quiet } := by
  obtain ⟨chans, hchans⟩ := s.tsetRestore_chans l.saved
  refine ⟨chans, ?_⟩
  unfold State.dmcBreak
  simp only [h, hopen, Bool.false_eq_true, if_false]
  rw [(Sends.raise _ 339).dmc, hchans]

/-- Settles O44. -/
theorem leasesEnd : Obligations.LeasesEnd := by
  refine ⟨fun s n c l h => ⟨fun hopen => ?_, fun hopen => ?_⟩, fun s n c l h hover => ?_, fun s r n c l h hn hopen hfree => ?_,
    fun s n c d l h => ⟨fun hused => ?_, fun hused => ?_⟩, fun s n c d l h hover => ?_, fun s r n c d l h hn hopen hfree => ?_,
    fun s r t l hopen hfree ht h => ?_, fun s r l hopen hfree h hc => ?_, fun s r p l hopen hfree hp h => ?_,
    fun s r t hopen ht hbusy => ⟨fun hbrk => ?_, fun hbrk => ?_⟩, fun s => rfl⟩
  · refine congrArg Host.Outcome.next ?_
    unfold State.releaseDone
    simp only [h]
    exact if_pos hopen
  · obtain ⟨hans, hprof, htable, hother⟩ := State.releaseDone_ends h hopen
    exact ⟨_, rfl, hans, hprof, htable, hother⟩
  · obtain ⟨hans, hprof, hevent, -⟩ := State.profBreak_ends h
    refine ⟨s.profBreak n, congrArg Host.Outcome.next ?_, hans, hprof, hevent⟩
    rw [h]
    exact if_pos hover
  · have hn' : ((s.heard r).breakAsked 2 n).prof n = s.prof n := State.prof_of_eau (by rw [s.breakAsked_eau r]) n
    obtain ⟨hans, hprof, -, hbsu⟩ := State.profBreak_ends ((congrArg Profile.release hn').trans h)
    rw [hn'] at hprof
    rw [s.breakAsked_bsu r] at hbsu
    exact ⟨_, (exec_leaseBreakProfile hopen hn).trans (congrArg _ (State.leaseGo_free (breakFree_heard hfree r) 2 n)),
      (s.breakAsked_kept r 2 n).answered hans, hprof, congrArg Bsu.brkKind hbsu, congrArg Bsu.brkIndex hbsu⟩
  · refine congrArg Host.Outcome.next ?_
    unfold State.drainDone
    simp only [h]
    exact if_pos hused
  · obtain ⟨hans, hpool, hcharge, hother⟩ := State.drainDone_ends h hused
    exact ⟨_, rfl, hans, hpool, hcharge, hother⟩
  · obtain ⟨hans, hpool, hevent, -⟩ := State.poolBreak_ends h
    refine ⟨s.poolBreak n, congrArg Host.Outcome.next ?_, hans, hpool, hevent⟩
    rw [h]
    exact if_pos hover
  · have hn' : ((s.heard r).breakAsked 3 n).pool n = s.pool n := State.pool_of_eau (by rw [s.breakAsked_eau r]) n
    obtain ⟨hans, hpool, -, hbsu⟩ := State.poolBreak_ends ((congrArg Pool.drain hn').trans h)
    rw [hn'] at hpool
    rw [s.breakAsked_bsu r] at hbsu
    exact ⟨_, (exec_leaseBreakPool hopen hn).trans (congrArg _ (State.leaseGo_free (breakFree_heard hfree r) 3 n)),
      (s.breakAsked_kept r 3 n).answered hans, hpool, congrArg Bsu.brkKind hbsu, congrArg Bsu.brkIndex hbsu⟩
  · have hr := s.heard_rings r
    refine ⟨_, (exec_leaseBreakRing hopen ht).trans (congrArg _ (State.leaseGo_free (breakFree_heard hfree r) 1 t)), ?_⟩
    have hl : (((s.heard r).breakAsked 1 t).rings t).lease = some l := (congrArg Rings.lease (hr t)).trans h
    rw [show ∀ v : State, v.leaseBreak 1 t = v.ringBreak t from fun _ => rfl, State.ringBreak_leased hl]
    refine ⟨?_, fun x hx => ?_, ?_⟩
    · rw [State.setRings_rings_same]
      exact congrArg (fun q : Rings => { q with lease := none, broken := true }) (hr t)
    · rw [State.setRings_rings_other _ _ hx]
      exact hr x
    · exact s.breakAsked_bsu r 1 t
  · have hd : ((s.heard r).breakAsked 4 s.bsu.brkIndex).dmc = s.dmc := s.heard_dmc r
    obtain ⟨chans, hbroken⟩ := State.dmcBreak_restores ((congrArg Dmc.lease hd).trans h) hc
    refine ⟨_, (exec_leaseBreakDram hopen).trans (congrArg _ (State.leaseGo_free (breakFree_heard hfree r) 4 _)), ?_, ?_⟩
    · rw [hd] at hbroken
      rw [show ∀ v : State, v.leaseBreak 4 s.bsu.brkIndex = v.dmcBreak from fun _ => rfl, hbroken]
    · exact (State.units_of_still (State.dmcBreak_still _)).2.2.2.2.trans (s.breakAsked_bsu r 4 _)
  · obtain ⟨k, hk⟩ := s.heard_port r p
    have hp' : ((s.heard r).breakAsked 5 p).port p = { s.port p with lpower := k } := hk
    have hlapse : ((s.heard r).breakAsked 5 p).leaseBreak 5 p =
        ((s.heard r).breakAsked 5 p).modPort p fun x => { x with frzLease := none, lapsed := true } := by
      change State.frzLapse _ p = _
      unfold State.frzLapse
      rw [hp']
      simp only [h]
    refine ⟨_, (exec_leaseBreakFreeze hopen (by omega)).trans (congrArg _ ((State.leaseGo_free (breakFree_heard hfree r) 5 p).trans hlapse)), ?_⟩
    rw [State.modPort_port, if_pos rfl, hp']
    exact ⟨rfl, rfl, rfl, s.breakAsked_bsu r 5 p⟩
  · have hwait : (s.heard r).leaseGo 1 t = { s.heard r with bsu := { s.bsu with brkKind := 1, brkIndex := t, brk := some (1, t) } } := by
      unfold State.leaseGo State.breakDue
      simp only [State.heard_bsu, State.heard_pmu, hbrk, Option.isSome_none, Bool.false_eq_true, if_false]
      refine if_neg ?_
      rcases hbusy with hj | hj
      · cases hjob : s.bsu.job with
        | none => exact absurd hjob hj
        | some _ => simp
      · cases hjob : s.pmu.job with
        | none => exact absurd hjob hj
        | some _ => simp
    refine ⟨_, (exec_leaseBreakRing hopen ht).trans (congrArg _ hwait), rfl, s.heard_rng r, rfl⟩
  · refine (exec_leaseBreakRing hopen ht).trans (congrArg _ ?_)
    unfold State.leaseGo
    rw [State.heard_bsu]
    exact if_pos (Option.isSome_iff_ne_none.mpr hbrk)

end Sys2Proof.Machine
end

section
/-!
PROOFS. What the accesses of memory and the records of errors leave as it was (R64, R370, R553 to R576, R655 to R661).
-/

namespace Sys2Proof.Machine

open Sys2Proof Sys2Proof.Safety

/-- What the controller has set up of a channel: its devices, its state, its rate and its timing. -/
def Chan.setup (x : Chan) : (Bool × Nat × Bool × Nat × Nat) × ChanState × Bool × Nat × List Word × List Word :=
  ((x.active, x.nch, x.lecc, x.ranks, x.density), x.st, x.tset, x.rate, x.tsa, x.tsb)

/-- From `s` to `u` lines are read and written, and what that finds is counted and recorded: the memory, the queues and counters of the
channels, the records, the interrupt controller and the free values move, and nothing else; what was sent before stays sent. -/
structure Served (s u : State) : Prop where
  still : u.still = s.still
  outbox : s.outbox <+: u.outbox
  dmc : ∃ chans, u.dmc = { s.dmc with chans := chans }
  setup : ∀ c, (u.chan c).setup = (s.chan c).setup

namespace Served

theorem refl (s : State) : Served s s := ⟨rfl, List.prefix_rfl, ⟨_, rfl⟩, fun _ => rfl⟩

theorem trans {s t u : State} (h : Served s t) (k : Served t u) : Served s u := by
  obtain ⟨a, ha⟩ := h.dmc
  obtain ⟨b, hb⟩ := k.dmc
  exact ⟨k.still.trans h.still, h.outbox.trans k.outbox, ⟨b, by rw [hb, ha]⟩, fun c => (k.setup c).trans (h.setup c)⟩

theorem hostKept {s u : State} (h : Served s u) : HostKept s u := HostKept.of_still h.still h.outbox

theorem foldl {α : Type} {f : State → α → State} (hf : ∀ s a, Served s (f s a)) (l : List α) (s : State) : Served s (l.foldl f s) :=
  List.foldlRecOn l f (motive := fun u => Served s u) (refl s) fun u hu a _ => hu.trans (hf u a)

section

variable (s : State)

theorem mem (m : Mem) (r : Ras) : Served s { s with mem := m, ras := r } := ⟨rfl, List.prefix_rfl, ⟨_, rfl⟩, fun _ => rfl⟩

theorem draw (m : Nat) : Served s (s.draw m).2 := ⟨rfl, List.prefix_rfl, ⟨_, rfl⟩, fun _ => rfl⟩

theorem raise (n : Nat) : Served s (s.raise n) :=
  ⟨s.raise_still n, s.raise_outbox n, ⟨s.dmc.chans, by rw [(Sends.raise s n).dmc]⟩, fun c => by
    unfold State.chan
    rw [(Sends.raise s n).dmc]⟩

theorem modChan (c : Nat) {f : Chan → Chan} (hf : ∀ x, (f x).setup = x.setup) : Served s (s.modChan c f) := by
  refine ⟨rfl, List.prefix_rfl, ⟨_, rfl⟩, fun k => ?_⟩
  rw [State.modChan_chan]
  split
  · next h => subst h; exact hf _
  · rfl

/-- A counter of a channel, whose saturation is signalled. -/
theorem count (c n : Nat) (b : Bool) {f : Chan → Chan} (hf : ∀ x, (f x).setup = x.setup) :
    Served s (if b then (s.modChan c f).raise n else s.modChan c f) := by
  split
  · exact (modChan s c hf).trans (raise _ n)
  · exact modChan s c hf

theorem rhSchedule (c b r : Nat) : Served s (s.rhSchedule c b r) := by
  unfold State.rhSchedule
  dsimp only
  split
  · exact modChan s c fun _ => rfl
  · exact count s c _ _ fun _ => rfl

theorem rhDraw (c b r : Nat) : Served s (s.rhDraw c b r) := by
  unfold State.rhDraw
  dsimp only
  have hseed (n : Nat) : Served s ((s.draw (2 ^ 32)).2.modChan c fun x => { x with seed := n }) :=
    (draw s _).trans (modChan _ c fun _ => rfl)
  split
  · exact refl s
  · split
    · exact (hseed _).trans (rhSchedule _ c b r)
    · exact hseed _

theorem rhPerform (c b : Nat) : Served s (s.rhPerform c b) := by
  unfold State.rhPerform
  split
  · exact refl s
  · next r rest _ =>
    extract_lets d s1 s2 s3
    have h2 : Served s s2 := count s c _ _ fun _ => rfl
    have h3 : Served s s3 := by
      unfold s3
      split
      · exact h2
      · exact h2.trans (rhDraw _ c b _)
    split
    · exact h3.trans (rhDraw _ c b _)
    · exact h3

theorem dramOpen (c b r : Nat) : Served s (s.dramOpen c b r) := by
  unfold State.dramOpen
  split
  · exact refl s
  · extract_lets s1 s2
    have h1 : Served s s1 := foldl (fun s _ => rhPerform s c b) _ s
    have h2 : Served s1 s2 := modChan s1 c fun _ => rfl
    exact (h1.trans h2).trans (rhDraw s2 c b r)

theorem performWrite (c l : Nat) : Served s (s.performWrite c l) := by
  unfold State.performWrite
  extract_lets p
  refine (dramOpen s c p.bank p.row).trans ?_
  exact modChan _ c fun _ => rfl

theorem chanServe (c : Nat) : Served s (s.chanServe c) := by
  unfold State.chanServe
  split
  · exact performWrite s c _
  · exact refl s

theorem serveWhile (p : Chan → Bool) (c n : Nat) : Served s (State.serveWhile p c n s) := by
  fun_induction State.serveWhile with
  | case1 s => exact refl s
  | case2 n s _ ih => exact (chanServe s c).trans ih
  | case3 n s => exact refl s

theorem serveAll (c : Nat) : Served s (s.serveAll c) := serveWhile s _ c _

theorem inOrder (c b r n : Nat) : Served s (s.inOrder c b r n) := by
  fun_induction State.inOrder with
  | case1 s => exact refl s
  | case2 s n _ x _ ih => exact (performWrite s c x).trans ih
  | case3 s => exact refl s
  | case4 s => exact refl s

theorem startDrain_setup (x : Chan) : x.startDrain.setup = x.setup := by
  unfold Chan.startDrain
  split <;> rfl

theorem dramWrite (l : Nat) : Served s (s.dramWrite l) := by
  unfold State.dramWrite
  extract_lets c s1
  have h1 : Served s s1 := serveWhile s _ c 64
  refine h1.trans (modChan s1 c fun x => ?_)
  dsimp only
  split
  · exact startDrain_setup _
  · rfl

theorem dramRead (l : Nat) : Served s (s.dramRead l) := by
  unfold State.dramRead
  extract_lets p c n s1 s2
  have h1 : Served s s1 := by
    unfold s1
    split
    · exact serveWhile s _ _ _
    · exact inOrder s _ _ _ _
  refine (h1.trans (serveWhile s1 _ c n)).trans ((dramOpen s2 c p.bank p.row).trans ?_)
  exact modChan _ c fun _ => rfl

theorem chanUncorr (c : Nat) : Served s (s.chanUncorr c) := by
  unfold State.chanUncorr
  extract_lets r s1 s2
  have h2 : Served s s2 := count s c _ _ fun _ => rfl
  exact h2.trans (raise s2 _)

theorem chanPoison (c : Nat) : Served s (s.chanPoison c) := by
  unfold State.chanPoison
  extract_lets r s1 s2
  have h2 : Served s s2 := count s c _ _ fun _ => rfl
  exact h2.trans (raise s2 _)

theorem chanCorr (c : Nat) : Served s (s.chanCorr c) := by
  unfold State.chanCorr
  exact count s c _ _ fun _ => rfl

theorem chanLink (c : Nat) : Served s (s.chanLink c) := by
  unfold State.chanLink
  exact count s c _ _ fun _ => rfl

theorem rasPut (r : ErrRec) : Served s (s.rasPut r) := by
  unfold State.rasPut
  dsimp only
  split
  · exact mem s _ _
  · split <;> exact mem s _ _

theorem rasNew (cls sev unit : Nat) (ctx tenant addr : Option Nat) (detail : Nat) :
    Served s (s.rasNew cls sev unit ctx tenant addr detail) := by
  unfold State.rasNew
  extract_lets r q s1
  have h1 : Served s s1 := mem s s.mem _
  exact (h1.trans (rasPut s1 r)).trans (raise _ cls)

theorem record (cls sev unit : Nat) (ctx tenant addr : Option Nat) (detail : Nat) :
    Served s (s.record cls sev unit ctx tenant addr detail) := by
  have hfresh : Served s (State.record.fresh cls sev unit ctx tenant addr detail s) := by
    unfold State.record.fresh
    dsimp only
    split
    · exact (rasNew s ..).trans ((rasNew _ ..).trans (mem _ _ _))
    · exact rasNew s ..
  unfold State.record
  split
  · split
    · refine Served.trans ?_ (raise _ cls)
      split <;> exact mem s _ _
    · exact hfresh
  · exact hfresh

theorem noteOne (who : Option Nat) (n : MemNote) : Served s (s.noteOne who n) := by
  unfold State.noteOne
  extract_lets at_
  cases n with
  | read l => exact dramRead s l
  | write l => exact dramWrite s l
  | dramCorrected l y =>
    dsimp only
    refine Served.trans ?_ (record _ ..)
    exact (chanCorr s _).trans (modChan _ _ fun _ => rfl)
  | dramLost l => exact (chanUncorr s _).trans (record _ ..)
  | poisonRead l => exact (chanPoison s _).trans (record _ ..)
  | link l => exact chanLink s _
  | _ => exact record s ..

theorem noteRound (who : Option Nat) (l : Nat) : Served s (s.noteRound who l).2 := by
  unfold State.noteRound
  refine List.foldlRecOn (motive := fun r : Option Nat × State => Served s r.2) s.mem.notes _ ?_ fun r hr n _ => ?_
  · exact mem s _ s.ras
  · exact hr.trans (noteOne r.2 who n)

theorem noteAll (who : Option Nat) (l : Nat) : Served s (s.noteAll who l).2 := by
  unfold State.noteAll
  extract_lets r
  have hr : Served s r.2 := noteRound s who l
  exact hr.trans (foldl (fun s _ => noteRound s none l) (List.range 4) r.2)

theorem onMem (f : Mem → Mem) : Served s (s.onMem f) := by
  unfold State.onMem
  exact (mem s (f s.mem) s.ras).trans (noteAll _ none 0)

theorem access (who : Option Nat) (unit l pa : Nat) (f : Mem → Mem) : Served s (s.access who unit l pa f).2 := by
  unfold State.access
  have h : Served s (({ s with mem := f s.mem } : State).noteAll who l).2 :=
    (mem s (f s.mem) s.ras).trans (noteAll { s with mem := f s.mem } who l)
  generalize ({ s with mem := f s.mem } : State).noteAll who l = r at h
  dsimp only
  split
  · exact h
  · split
    · exact h.trans (mem r.2 r.2.mem _)
    · exact h.trans (record r.2 ..)

theorem agentWrite (i unit k w : Nat) (ws : List Word) : Served s (s.agentWrite i unit k w ws) := by
  induction k generalizing s w ws with
  | zero => exact refl s
  | succ k ih =>
    unfold State.agentWrite
    split
    · exact refl s
    · refine Served.trans ?_ (ih _ _ _)
      split
      · exact record s ..
      · exact onMem s _

theorem writeRun (i unit w : Nat) (ws : List Word) : Served s (s.writeRun i unit w ws) := agentWrite s i unit (ws.length + 1) w ws

theorem agentRead (i unit l : Nat) : Served s (s.agentRead i unit l).2 := by
  unfold State.agentRead
  split
  · exact record s ..
  · have h := access s none unit l (48 * l) fun m => m.sliceRead ⟨i, unit⟩ l
    generalize s.access none unit l (48 * l) (fun m => m.sliceRead ⟨i, unit⟩ l) = r at h
    dsimp only
    split <;> exact h

theorem coachWrite (pool slot w : Nat) (ws : List Word) : Served s (s.coachWrite pool slot w ws) := by
  unfold State.coachWrite
  split
  · exact writeRun s ..
  · exact refl s

end

end Served

end Sys2Proof.Machine
end

section
/-!
PROOFS. The maintenance lease of the DRAM controller and the frequency change (R567 to R569, R590).
-/

namespace Sys2Proof.Machine

open Sys2Proof Sys2Proof.Safety

/-! ### The maintenance lease -/

section

variable {s : State} {r : Requester} {l : MaintLease}

theorem exec_dmcMaintAcquire (h : RegOpen s r 0x10008) : exec (.dmcMaintAcquire r) s = .next ((s.heard r).dmcAcquire r) :=
  congrArg Host.Outcome.next (State.writing_open h _)

theorem exec_dmcMaintCommit (h : RegOpen s r 0x10008) : exec (.dmcMaintCommit r) s = .next ((s.heard r).dmcCommit r) :=
  congrArg Host.Outcome.next (State.writing_open h _)

theorem exec_dmcMaintAbort (h : RegOpen s r 0x10008) : exec (.dmcMaintAbort r) s = .next ((s.heard r).dmcAbort r) :=
  congrArg Host.Outcome.next (State.writing_open h _)

/-- ACQUIRE keeps what a break must restore. -/
theorem State.dmcAcquire_free (h : s.dmc.lease = none) : ∃ k : MaintLease, (s.dmcAcquire r).dmc = { s.dmc with lease := some k } ∧
    k.owner = reqCode r ∧ k.target = s.dmc.target ∧ k.quiet = s.dmc.quiet ∧ k.committed = false ∧
    k.saved = s.activeChans.map fun c => (c, (s.chan c).tsa, (s.chan c).tsb) := by
  unfold State.dmcAcquire
  simp only [h]
  exact ⟨_, rfl, rfl, rfl, rfl, rfl, rfl⟩

theorem State.dmcAcquire_held (h : s.dmc.lease = some l) : s.dmcAcquire r = s := by
  unfold State.dmcAcquire
  simp only [h]

theorem State.dmcCommit_holder (h : s.dmc.lease = some l) (howner : l.owner = reqCode r) (hopen : l.committed = false) :
    s.dmcCommit r = { s with dmc := { s.dmc with lease := some { l with committed := true }, busy := true } } := by
  unfold State.dmcCommit
  simp only [h, howner, hopen, and_self, if_true]

theorem State.dmcCommit_other (h : s.dmc.lease = some l) (hnot : ¬ (l.owner = reqCode r ∧ l.committed = false)) : s.dmcCommit r = s := by
  unfold State.dmcCommit
  simp only [h, if_neg hnot]

theorem State.dmcAbort_holder (h : s.dmc.lease = some l) (howner : l.owner = reqCode r) (hopen : l.committed = false) :
    s.dmcAbort r = { s.tsetRestore l.saved with
      dmc := { (s.tsetRestore l.saved).dmc with lease := none, target := l.target, quiet := l.quiet } } := by
  unfold State.dmcAbort
  simp only [h, howner, hopen, and_self, if_true]

theorem State.dmcAbort_other (h : s.dmc.lease = some l) (hnot : ¬ (l.owner = reqCode r ∧ l.committed = false)) : s.dmcAbort r = s := by
  unfold State.dmcAbort
  simp only [h, if_neg hnot]

end

/-! ### The channels of a change -/

/-- The state, timing set and rate of a channel. -/
def Chan.mode (x : Chan) : ChanState × Bool × Nat := (x.st, x.tset, x.rate)

theorem Served.mode {s u : State} (h : Served s u) (c : Nat) : (u.chan c).mode = (s.chan c).mode :=
  congrArg (fun x : (Bool × Nat × Bool × Nat × Nat) × ChanState × Bool × Nat × List Word × List Word => (x.2.1, x.2.2.1, x.2.2.2.1)) (h.setup c)

theorem Served.chanRefresh (s : State) (c : Nat) : Served s (s.chanRefresh c) := by
  unfold State.chanRefresh
  extract_lets v w
  have hw : Served v w := Served.foldl (fun u b => Served.foldl (fun u _ => Served.rhPerform u c b) _ u) _ v
  exact ((Served.serveAll s c).trans hw).trans (Served.modChan w c fun _ => rfl)

theorem Served.pauseTaken (s : State) (c : Nat) : Served s (s.pauseTaken c) := Served.modChan s c fun _ => rfl

/-- The running channels, in their order, each once. -/
theorem State.activeChans_nodup (s : State) : s.activeChans.Nodup := List.Nodup.filter _ List.nodup_range

/-- Each listed channel goes to its other timing set and to the target rate. -/
theorem State.each_rateTaken {l : List Nat} (hl : l.Nodup) (s : State) :
    let u := s.each l fun s c => s.modChan c fun x => { x with tset := !x.tset, rate := s.dmc.target }
    (∃ chans, u.dmc = { s.dmc with chans := chans }) ∧
      ∀ c, (u.chan c).mode = if c ∈ l then ((s.chan c).st, !(s.chan c).tset, s.dmc.target) else (s.chan c).mode := by
  induction l generalizing s with
  | nil => exact ⟨⟨_, rfl⟩, fun c => rfl⟩
  | cons a l ih =>
    obtain ⟨ha, hl⟩ := List.nodup_cons.mp hl
    obtain ⟨⟨chans, hdmc⟩, hmode⟩ := ih hl (s.modChan a fun x => { x with tset := !x.tset, rate := s.dmc.target })
    refine ⟨⟨chans, hdmc⟩, fun c => (hmode c).trans ?_⟩
    rw [State.modChan_chan]
    by_cases hc : c = a
    · subst hc
      simp [ha, Chan.mode]
    · simp only [List.mem_cons, hc, false_or, if_false]
      rfl

/-- A channel that is offlined keeps its timing set and rate, and the others all three. -/
theorem State.chanOffline_mode (s : State) (c k : Nat) : (∃ chans, (s.chanOffline c).dmc = { s.dmc with chans := chans }) ∧
    ((s.chanOffline c).chan k).mode = (if k = c then .offline else (s.chan k).st, (s.chan k).tset, (s.chan k).rate) := by
  unfold State.chanOffline
  extract_lets pos queued s1 g m s2
  have hserved : Served s2 (queued.foldl (fun s l => s.noteOne none (.gone l)) ((s2.raise (338 + 4 * c)).record 7 2 (unitDmc c) none none none c)) :=
    ((Served.raise s2 _).trans (Served.record _ ..)).trans (Served.foldl (fun s l => Served.noteOne s none _) queued _)
  obtain ⟨chans, hdmc⟩ := hserved.dmc
  refine ⟨⟨chans, hdmc⟩, (hserved.mode k).trans ?_⟩
  change (s1.chan k).mode = _
  rw [State.modChan_chan]
  split
  · next hk => rw [hk]; rfl
  · rfl

theorem State.each_chanOffline (l : List Nat) (s : State) : (∃ chans, (s.each l State.chanOffline).dmc = { s.dmc with chans := chans }) ∧
    ∀ k, ((s.each l State.chanOffline).chan k).mode = (if k ∈ l then .offline else (s.chan k).st, (s.chan k).tset, (s.chan k).rate) := by
  induction l generalizing s with
  | nil => exact ⟨⟨_, rfl⟩, fun k => rfl⟩
  | cons a l ih =>
    obtain ⟨⟨chans, hdmc⟩, hmode⟩ := ih (s.chanOffline a)
    obtain ⟨⟨chans', hdmc'⟩, -⟩ := s.chanOffline_mode a a
    refine ⟨⟨chans, hdmc.trans (by rw [hdmc'])⟩, fun k => (hmode k).trans ?_⟩
    obtain ⟨-, hk⟩ := s.chanOffline_mode a k
    obtain ⟨hst, htset, hrate⟩ : _ ∧ _ ∧ _ := ⟨congrArg Prod.fst hk, congrArg (·.2.1) hk, congrArg (·.2.2) hk⟩
    simp only [Chan.mode] at hst htset hrate
    rw [hst, htset, hrate]
    by_cases ha : k = a <;> simp [ha]

/-! ### The change -/

section

variable (s : State) (bad dead : List Nat)

/-- The channels that change. -/
def State.changing : List Nat := s.activeChans.filter fun c => decide ((s.chan c).st = .running)

theorem State.mem_changing (c : Nat) : c ∈ s.changing ↔ c ∈ s.activeChans ∧ (s.chan c).st = .running := by
  simp [State.changing]

/-- The channels in self-refresh with their pauses taken. -/
def State.changeStarted : State := (s.each s.changing State.chanRefresh).each s.changing State.pauseTaken

theorem State.changeStarted_served : Served s s.changeStarted :=
  (Served.foldl Served.chanRefresh _ s).trans (Served.foldl Served.pauseTaken _ _)

/-- The channels of a change that fail at the new rate. -/
def State.changeBad : List Nat := s.changing.filter fun c => bad.contains c || decide (4 < s.dmc.target)

theorem State.mem_changeBad (c : Nat) : c ∈ s.changeBad bad ↔ c ∈ s.changing ∧ (c ∈ bad ∨ 4 < s.dmc.target) := by
  simp [State.changeBad]

/-- The channels once those of a change have changed, or failed to. -/
def State.changeMade : State :=
  match s.changeBad bad with
  | [] => s.changeStarted.each s.changing fun s c => s.modChan c fun x => { x with tset := !x.tset, rate := s.dmc.target }
  | c :: _ => (s.changeStarted.record 7 0 (unitDmc c) none none none c).each ((s.changeBad bad).filter fun c => dead.contains c) State.chanOffline

theorem State.changeRate_eq : s.changeRate bad dead = ({ s.changeMade bad dead with
    dmc := { (s.changeMade bad dead).dmc with busy := false, fail := !(s.changeBad bad).isEmpty, lease := none } } : State).raise 339 := rfl

/-- What every change leaves: the lease is over, the controller is not busy, and the channels are as they changed. -/
theorem State.changeRate_ends : (s.changeRate bad dead).dmc.busy = false ∧ (s.changeRate bad dead).dmc.lease = none ∧
    (s.changeRate bad dead).dmc.fail = !(s.changeBad bad).isEmpty ∧
    ∀ c, (s.changeRate bad dead).chan c = (s.changeMade bad dead).chan c := by
  rw [State.changeRate_eq]
  unfold State.chan
  rw [(Sends.raise _ 339).dmc]
  exact ⟨rfl, rfl, rfl, fun _ => rfl⟩

/-- A change at whose new rate every channel works. -/
theorem State.changeMade_good (h : s.changeBad bad = []) {c : Nat} (hc : c ∈ s.changing) :
    ((s.changeMade bad dead).chan c).mode = ((s.chan c).st, !(s.chan c).tset, s.dmc.target) := by
  have hstart := s.changeStarted_served
  obtain ⟨chans, hdmc⟩ := hstart.dmc
  have hnodup : s.changing.Nodup := List.Nodup.filter _ s.activeChans_nodup
  obtain ⟨-, hmode⟩ := State.each_rateTaken hnodup s.changeStarted
  have hkeep := hstart.mode c
  unfold State.changeMade
  rw [h]
  refine (hmode c).trans ?_
  simp only [Chan.mode, Prod.mk.injEq] at hkeep
  obtain ⟨hst, htset, -⟩ := hkeep
  rw [if_pos hc, hst, htset, hdmc]

/-- A change at whose new rate a channel fails. -/
theorem State.changeMade_bad (h : s.changeBad bad ≠ []) (c : Nat) :
    ((s.changeMade bad dead).chan c).mode =
      (if c ∈ s.changeBad bad ∧ c ∈ dead then .offline else (s.chan c).st, (s.chan c).tset, (s.chan c).rate) := by
  obtain ⟨b, rest, hb⟩ := List.exists_cons_of_ne_nil h
  have hserved := s.changeStarted_served.trans (Served.record s.changeStarted 7 0 (unitDmc b) none none none b)
  obtain ⟨-, hmode⟩ := State.each_chanOffline ((s.changeBad bad).filter fun c => dead.contains c) (s.changeStarted.record 7 0 (unitDmc b) none none none b)
  have hkeep := hserved.mode c
  have hmade : s.changeMade bad dead = (s.changeStarted.record 7 0 (unitDmc b) none none none b).each
      ((s.changeBad bad).filter fun c => dead.contains c) State.chanOffline := by
    unfold State.changeMade
    rw [hb]
  rw [hmade]
  refine (hmode c).trans ?_
  simp only [Chan.mode, Prod.mk.injEq] at hkeep
  obtain ⟨hst, htset, hrate⟩ := hkeep
  rw [hst, htset, hrate]
  simp only [List.mem_filter, List.contains_eq_mem, decide_eq_true_eq]

end

/-- Settles O54. -/
theorem frequencyChangeAndItsLease : Obligations.FrequencyChangeAndItsLease := by
  refine ⟨fun s r l hopen => ⟨fun hfree => ?_, fun hl => ⟨?_, fun howner hc => ⟨?_, ?_⟩, fun hnot => ?_, fun hc hover => ?_, fun hc => ?_⟩⟩,
    fun s bad dead hbusy hquiet => ?_⟩
  · obtain ⟨k, hdmc, howner, htarget, hquiet, hc, hsaved⟩ := State.dmcAcquire_free (r := r) ((congrArg Dmc.lease (s.heard_dmc r)).trans hfree)
    rw [State.heard_dmc] at hdmc htarget hquiet
    refine ⟨_, k, exec_dmcMaintAcquire hopen, hdmc, howner, htarget, hquiet, hc, hsaved.trans ?_⟩
    rw [s.heard_ports r]
    rfl
  · refine ⟨_, (exec_dmcMaintAcquire hopen).trans (congrArg _ (State.dmcAcquire_held (l := l) ?_)), s.heard_dmc r⟩
    rw [State.heard_dmc, hl]
  · refine ⟨_, (exec_dmcMaintCommit hopen).trans (congrArg _ (State.dmcCommit_holder (l := l) ?_ howner hc)), ?_⟩
    · rw [State.heard_dmc, hl]
    · rw [State.heard_dmc]
  · obtain ⟨chans, hchans⟩ := (s.heard r).tsetRestore_chans l.saved
    refine ⟨_, (exec_dmcMaintAbort hopen).trans (congrArg _ (State.dmcAbort_holder (l := l) ?_ howner hc)), ?_, fun c a b hsaved => ?_⟩
    · rw [State.heard_dmc, hl]
    · rw [hchans, State.heard_dmc]
    · rw [hsaved]
      change ((s.heard r).modChan c fun x => if x.tset then { x with tsa := a } else { x with tsb := b }).chan c = _
      rw [State.modChan_chan, if_pos rfl, show (s.heard r).chan c = s.chan c by rw [State.chan, State.heard_dmc, ← State.chan]]
  · have hl' : (s.heard r).dmc.lease = some l := by rw [State.heard_dmc, hl]
    have hnot' : ¬ (l.owner = reqCode r ∧ l.committed = false) := fun ⟨ho, hc⟩ => by rcases hnot with h | h <;> simp_all
    exact ⟨⟨_, (exec_dmcMaintCommit hopen).trans (congrArg _ (State.dmcCommit_other hl' hnot')), s.heard_dmc r⟩,
      _, (exec_dmcMaintAbort hopen).trans (congrArg _ (State.dmcAbort_other hl' hnot')), s.heard_dmc r⟩
  · obtain ⟨chans, hdmc⟩ := State.dmcBreak_restores hl hc
    refine ⟨s.dmcBreak, congrArg Host.Outcome.next ?_, by rw [hdmc]⟩
    rw [hl]
    exact if_pos (by rw [hc, hover]; rfl)
  · refine congrArg Host.Outcome.next ?_
    rw [hl]
    exact if_neg (by rw [hc]; simp)
  · intro runs
    have hruns (c : Nat) : runs c ↔ c ∈ s.changing := (s.mem_changing c).symm
    obtain ⟨hb, hlease, hfail, hchan⟩ := s.changeRate_ends bad dead
    refine ⟨s.changeRate bad dead, congrArg Host.Outcome.next ?_, hb, hlease, fun hgood htarget => ?_, fun hbad => ?_⟩
    · rw [hbusy]
      refine (if_neg (by simp)).trans (if_neg ?_)
      rcases hquiet with h | h | h <;> simp [h]
    · have hnone : s.changeBad bad = [] := by
        refine List.eq_nil_iff_forall_not_mem.mpr fun c hc => ?_
        obtain ⟨hc, h | h⟩ := (s.mem_changeBad bad c).mp hc
        · exact hgood c ((hruns c).mpr hc) h
        · omega
      refine ⟨by rw [hfail, hnone]; rfl, fun c hc => ?_⟩
      have hmode := s.changeMade_good bad dead hnone ((hruns c).mp hc)
      rw [← hchan] at hmode
      simp only [Chan.mode, Prod.mk.injEq] at hmode
      obtain ⟨hst, htset, hrate⟩ := hmode
      exact ⟨hst.trans hc.2, hrate, htset⟩
    · obtain ⟨b, hrb, hb⟩ := hbad
      have hsome : s.changeBad bad ≠ [] := List.ne_nil_of_mem ((s.mem_changeBad bad b).mpr ⟨(hruns b).mp hrb, hb⟩)
      refine ⟨?_, fun c hc => ?_⟩
      · rw [hfail, List.isEmpty_eq_false_iff.mpr hsome]
        rfl
      · have hmode := s.changeMade_bad bad dead hsome c
        rw [← hchan] at hmode
        simp only [Chan.mode, Prod.mk.injEq] at hmode
        obtain ⟨hst, htset, hrate⟩ := hmode
        refine ⟨hrate, htset, fun htarget => hst.trans ?_⟩
        have hin : c ∈ s.changeBad bad ↔ c ∈ bad := by
          rw [s.mem_changeBad bad c]
          exact ⟨fun h => h.2.resolve_right (by omega), fun h => ⟨(hruns c).mp hc, .inl h⟩⟩
        simp only [hin, hc.2]

end Sys2Proof.Machine
end

section
/-!
PROOFS. Carts that change no entry: those that are refused, duplicates and stragglers (R460, R472).
-/

namespace Sys2Proof.Machine

open Sys2Proof Sys2Proof.Safety

/-! ### A bank handles the cart at its head (R583) -/

theorem State.cartMeets_plain {s : State} (h : s.ras.tbl = []) (b : Nat) (c : Carriage) : s.cartMeets b c = s.cart b c := by
  have hnone (t : Nat) : s.eauTable b c t = s := by
    unfold State.eauTable State.tblErr
    rw [h]
    rfl
  unfold State.cartMeets
  simp only [List.foldl_cons, List.foldl_nil, hnone]

/-- A bank that handles its head answers it, and leaves the event assembly as the handling did. -/
theorem State.bankServe_answers {s s1 : State} {b op st n : Nat} {c : Carriage} {f : State → Carriage → CartOut} (h : BankTakes s b c op)
    (hf : f s c = some (st, n, s1)) (hkept : HostKept s s1) :
    Answered s (s.bankServe b op f) c st (octetsLe 2 n) ∧ (s.bankServe b op f).eau = s1.eau := by
  obtain ⟨-, p, hp, hhead, hop⟩ := h
  obtain ⟨rest, hq⟩ : ∃ rest, s.stagingQ p b = c :: rest := List.head?_eq_some_iff.mp hhead
  let s2 : State := { s1.setStaging p b rest with rng := { (s1.setStaging p b rest).rng with bankTok := tset 3 s1.rng.bankTok b p } }
  have hserve : s.bankServe b op f = (s2.complete c st (octetsLe 2 n)).pump p := by
    unfold State.bankServe
    simp only [hp, hq, hop, ne_eq, not_true_eq_false, if_false, hf]
    rfl
  have h2 : HostKept s s2 := hkept.trans ⟨rfl, fun _ => rfl, rfl, fun _ => rfl, List.prefix_rfl⟩
  rw [hserve]
  exact ⟨answered_then (h2.complete c st _) (Sends.pump _ p).outbox, (Sends.pump _ p).eau.trans (Sends.complete s2 c st _).eau⟩

theorem exec_fragment_answers {s s1 : State} {b st n : Nat} {c : Carriage} (h : BankTakes s b c 0x01) (hcart : s.cart b c = some (st, n, s1))
    (hkept : HostKept s s1) : ∃ u, exec (.fragment b) s = .next u ∧ Answered s u c st (octetsLe 2 n) ∧ u.eau = s1.eau := by
  obtain ⟨hans, heau⟩ := State.bankServe_answers (f := fun s c => s.cartMeets b c) h ((s.cartMeets_plain h.1 b c).trans hcart) hkept
  exact ⟨_, rfl, hans, heau⟩

/-! ### The checks of a cart (R460) -/

theorem State.feedCheck_unowned {s : State} {c : Carriage} {x : Profile} (h : x.owned = false) : s.feedCheck c x = some 2 := by
  simp [State.feedCheck, h]

theorem Profile.feeds_iff (x : Profile) (t : Nat) :
    x.feeds t = true ↔ x.owner = t ∨ (x.rec_.feed = 1 ∧ t ∈ x.rec_.feeders) ∨ x.rec_.feed = 2 := by
  simp [Profile.feeds, or_assoc]

theorem State.feedCheck_refused {s : State} {c : Carriage} {x : Profile} (howned : x.owned = true)
    (h : s.dead x.owner = true ∨ x.susp = true ∨ x.bad = true ∨ x.feeds c.tenant = false) : s.feedCheck c x = some 3 := by
  unfold State.feedCheck
  rcases h with h | h | h | h <;> simp [howned, h]

theorem State.feedCheck_good {s : State} {c : Carriage} {x : Profile} (howned : x.owned = true) (hlive : s.dead x.owner = false)
    (hsusp : x.susp = false) (hbad : x.bad = false) (hfed : x.feeds c.tenant = true) : s.feedCheck c x = none := by
  simp [State.feedCheck, howned, hlive, hsusp, hbad, hfed]

/-- The place of a cart among the positions of its profile. -/
def ProfRec.misplaces (r : ProfRec) (src : Nat) : Prop := src < r.srcbase ∨ r.nsrc ≤ src - r.srcbase ∨ r.expects (src - r.srcbase) = false

theorem ProfRec.placed_iff (r : ProfRec) (src : Nat) :
    (r.srcbase ≤ src ∧ src < r.srcbase + r.nsrc ∧ r.expects (src - r.srcbase) = true) ↔ ¬ r.misplaces src := by
  unfold ProfRec.misplaces
  rw [not_or, not_or, Bool.not_eq_false]
  constructor
  · rintro ⟨hlow, hhigh, hexp⟩
    exact ⟨by omega, by omega, hexp⟩
  · rintro ⟨hlow, hhigh, hexp⟩
    exact ⟨by omega, by omega, hexp⟩

section

variable {s : State} {b : Nat} {c : Carriage}

theorem State.cart_unfed {st : Nat} (h : s.feedCheck c (s.prof (c.body 18 2)) = some st) : s.cart b c = some (st, 0, s) := by
  unfold State.cart
  simp only [h]

theorem State.cart_misplaced (h : s.feedCheck c (s.prof (c.body 18 2)) = none) (hplace : (s.prof (c.body 18 2)).rec_.misplaces (c.body 16 2)) :
    s.cart b c = some (2, 0, s) := by
  unfold State.cart
  simp only [h]
  refine if_pos ?_
  rcases hplace with h | h | h <;> simp [h]

theorem State.cart_found {k : Nat} {e : Entry} (h : s.feedCheck c (s.prof (c.body 18 2)) = none)
    (hplace : ¬ (s.prof (c.body 18 2)).rec_.misplaces (c.body 16 2)) (hfind : s.findEntry b (c.body 18 2) (word (c.body 24 8)) = some (k, e)) :
    s.cart b c = some (s.cartFound c (c.body 18 2) (c.body 16 2 - (s.prof (c.body 18 2)).rec_.srcbase) k (s.prof (c.body 18 2)) e) := by
  unfold State.cart
  simp only [h, hfind]
  refine if_neg fun hbad => hplace ?_
  simpa [ProfRec.misplaces] using hbad

/-- A cart of a new event whose room is refused. -/
theorem State.cart_noRoom {st : Nat} (h : s.feedCheck c (s.prof (c.body 18 2)) = none)
    (hplace : ¬ (s.prof (c.body 18 2)).rec_.misplaces (c.body 16 2)) (hfind : s.findEntry b (c.body 18 2) (word (c.body 24 8)) = none)
    (hvictim : (s.victimsOf b).all (fun v => decide (v.profile ≠ c.body 18 2) || decide (v.key ≠ word (c.body 24 8))) = true)
    (hdue : Stamp.le (s.after (s.resolve (word (c.body 24 8))) (s.prof (c.body 18 2)).rec_.asmdl) s.now = false)
    (hroom : s.roomCheck (s.prof (c.body 18 2)) true = some st) : s.cart b c = some (st, 0, if st = 5 then s.eauCount 7 else s) := by
  have hnone : (s.victimsOf b).find? (fun v => decide (v.profile = c.body 18 2) && decide (v.key = word (c.body 24 8)) &&
      !(Stamp.le v.adl.at_ s.now)) = none := by
    rw [List.find?_eq_none]
    intro v hv
    have := List.all_eq_true.mp hvictim v hv
    grind
  unfold State.cart
  simp only [h, hfind, hnone, hdue, Bool.false_eq_true, if_false, hroom]
  refine if_neg fun hbad => hplace ?_
  simpa [ProfRec.misplaces] using hbad

end

theorem State.roomCheck_release {s : State} {x : Profile} (h : x.release.isSome = true) (entry : Bool) : s.roomCheck x entry = some 2 := by
  simp [State.roomCheck, h]

/-- A pool that hands out no slot, or a quota that is full, refuses a new entry. -/
theorem State.roomCheck_full {s : State} {x : Profile} (hrel : x.release = none)
    (h : (s.pool x.rec_.pool).live = false ∨ (s.pool x.rec_.pool).takeSlot = none ∨ (s.quota x.owner).maxEnt ≤ (s.charged x.owner).1 ∨
      (s.quota x.owner).maxSlots ≤ (s.charged x.owner).2) : s.roomCheck x true = some 5 := by
  unfold State.roomCheck
  rcases h with h | h | h | h <;> simp [hrel, h]

theorem Pool.live_eq_false (q : Pool) : q.live = false ↔ q.owned = false ∨ q.rec_.en = false ∨ q.drain.isSome = true ∨ q.bad = true := by
  simp only [Pool.live, Bool.and_eq_false_iff, Option.isNone_eq_false_iff, Bool.not_eq_false', or_assoc]

/-! ### A cart that finds its event -/

theorem State.findEntry_bank {s : State} {b p k : Nat} {w : Word} {e : Entry} (h : s.findEntry b p w = some (k, e)) : k / 32768 = b := by
  obtain ⟨i, hi, hk⟩ := List.exists_of_findSome?_eq_some h
  have hset : eauSet p w < 4096 := Nat.mod_lt _ (by decide)
  have hway : i < 8 := List.mem_range.mp hi
  have hkey : k = wayKey b (eauSet p w) i := by
    dsimp only at hk
    split at hk
    · split at hk
      · exact (congrArg Prod.fst (Option.some.inj hk)).symm
      · cases hk
    · cases hk
  rw [hkey, wayKey]
  omega

/-- A delivery moves the memory alone, and signals. -/
theorem Served.deliver (s : State) (t : Nat) (header data : List Word) : Served s (s.deliver t header data).2.2 := by
  unfold State.deliver
  split
  · exact refl s
  · extract_lets cls line
    have hread := agentRead s cls unitRng line
    split
    · next s1 hr => rw [hr] at hread; exact hread
    · next ws s1 hr =>
      rw [hr] at hread
      extract_lets base lg prod cons slot s2 s3 s4
      split
      · exact hread
      · split
        · exact hread
        · split
          · exact hread
          · exact hread.trans ((writeRun s1 ..).trans ((writeRun _ ..).trans ((writeRun _ ..).trans (raise _ _))))

theorem State.eauCount_table (s : State) (k : Nat) : (s.eauCount k).eau.table = s.eau.table ∧
    ∀ j, tget 0 (s.eauCount k).eau.cnt j = if j = k then satInc (2 ^ 36 - 1) (tget 0 s.eau.cnt k) else tget 0 s.eau.cnt j := by
  obtain ⟨event, h⟩ := s.eauCount_eau k
  rw [h]
  exact ⟨rfl, fun j => tget_tset ..⟩

/-- A straggler and its delivery leave the table of the event assembly, and STRAG counts it. -/
theorem State.straggle_counts (s : State) (c : Carriage) (p : Nat) (x : Profile) : HostKept s (s.straggle c p x) ∧
    (s.straggle c p x).eau.table = s.eau.table ∧ tget 0 (s.straggle c p x).eau.cnt 5 = satInc (2 ^ 36 - 1) (tget 0 s.eau.cnt 5) := by
  have hkept := HostKept.eauCount s 5
  obtain ⟨htable, hcnt⟩ := s.eauCount_table 5
  have h5 := (hcnt 5).trans (if_pos rfl)
  unfold State.straggle
  split
  · exact ⟨hkept, htable, h5⟩
  · extract_lets s1 head r
    have hserved : Served s1 r.2.2 := Served.deliver s1 x.owner head c.words
    have heau : r.2.2.eau = s1.eau := State.eau_of_still hserved.still
    have hr : HostKept s r.2.2 := hkept.trans hserved.hostKept
    obtain ⟨rtable, rcnt⟩ := r.2.2.eauCount_table 10
    split
    · rw [heau]
      exact ⟨hr, htable, h5⟩
    · rw [rtable, rcnt, if_neg (by decide), heau]
      exact ⟨hr.trans (HostKept.eauCount _ 10), htable, h5⟩

section

variable {s : State} {c : Carriage} {p pos k : Nat} {x : Profile} {e : Entry}

theorem State.cartFound_late (hst : e.st = .assembling) (hopen : e.ended = none) (hlate : Stamp.le e.adl.at_ s.now = true) :
    s.cartFound c p pos k x e = (7, e.arrived, s.straggle c p x) := by
  unfold State.cartFound
  simp only [hst, hopen, hlate, if_true, reduceCtorEq, if_false]

theorem State.cartFound_twice {v : Nat} (hst : e.st = .assembling) (hopen : e.ended = none) (hearly : Stamp.le e.adl.at_ s.now = false)
    (harr : s.arrivals k pos e = (some v, s)) (hbit : v.testBit (if e.h4 then pos % 432 else pos) = true) :
    s.cartFound c p pos k x e = (6, e.arrived, s.eauCount 4) := by
  unfold State.cartFound
  simp only [hst, hopen, hearly, harr, Bool.false_eq_true, reduceCtorEq, if_false]
  exact if_pos hbit

/-- The arrival bits of an event with H = 1 stand in its entry. -/
theorem State.arrivals_entry (h : e.h4 = false) : s.arrivals k pos e = (some e.bitmap, s) := by
  unfold State.arrivals
  simp [h]

/-- Those of an event with H = 4 are found in the cache of its bank. -/
theorem State.arrivals_cached {m : BmLines} {v : Nat} (h : e.h4 = true) (hm : s.bitmapFind (k / 32768) e.id = some m)
    (hv : m.lines.getD (pos / 432) none = some v) : s.arrivals k pos e = (some v, s) := by
  unfold State.arrivals State.bitmapGet
  simp only [h, if_true, hm, Option.getD_some, hv]

end

/-- Settles O41. -/
theorem cartsThatChangeNoEntry : Obligations.CartsThatChangeNoEntry := by
  refine ⟨fun s b c hb => ?_, fun s b c k e hb => ?_⟩
  · intro p x src fed ends good place w
    have hends {st : Nat} {s1 : State} (hcart : s.cart b c = some (st, 0, s1)) (hkept : HostKept s s1)
        (heau : s1.eau = { s.eau with cnt := s1.eau.cnt, event := s1.eau.event }) : ends st := by
      obtain ⟨u, hu, hans, hueau⟩ := exec_fragment_answers hb hcart hkept
      exact ⟨u, hu, hans, by rw [hueau]; exact heau⟩
    have hfed : x.feeds c.tenant = true ↔ fed := x.feeds_iff c.tenant
    have hgood (h : good) : s.feedCheck c x = none := by
      obtain ⟨howned, hlive, hsusp, hbad, hf⟩ := h
      exact State.feedCheck_good howned hlive hsusp hbad (hfed.mpr hf)
    have hplace : place ↔ ¬ x.rec_.misplaces src := x.rec_.placed_iff src
    refine ⟨fun h => hends (State.cart_unfed (State.feedCheck_unowned h)) (HostKept.refl s) rfl,
      fun howned h => hends (State.cart_unfed (State.feedCheck_refused howned ?_)) (HostKept.refl s) rfl,
      fun hg hp => hends (State.cart_misplaced (hgood hg) ?_) (HostKept.refl s) rfl, fun hg hp hfind hvictim hdue => ⟨fun hrel => ?_, fun hrel hfull => ?_⟩⟩
    · rwa [← hfed, Bool.not_eq_true] at h
    · exact Classical.not_not.mp (mt hplace.mpr hp)
    · have hcart := State.cart_noRoom (hgood hg) (hplace.mp hp) hfind hvictim hdue (State.roomCheck_release hrel true)
      exact hends hcart (HostKept.refl s) rfl
    · have hroom : s.roomCheck x true = some 5 := State.roomCheck_full hrel (by rw [Pool.live_eq_false]; simpa only [or_assoc] using hfull)
      obtain ⟨event, heau⟩ := s.eauCount_eau 7
      exact hends (State.cart_noRoom (hgood hg) (hplace.mp hp) hfind hvictim hdue hroom) (HostKept.eauCount s 7) (by rw [if_pos rfl, heau])
  · intro p x pos hfed hlow hhigh hexp hfind hst hopen
    have hcart := State.cart_found hfed ((x.rec_.placed_iff _).mp ⟨hlow, by omega, hexp⟩) hfind
    obtain ⟨htable, hcnt⟩ := s.eauCount_table 4
    refine ⟨fun hearly h1 hbit => ?_, fun hearly h4 m v hm hv hbit => ?_, fun hlate => ?_⟩
    · rw [State.cartFound_twice hst hopen hearly (State.arrivals_entry h1) (by rwa [if_neg (by simp [h1])])] at hcart
      obtain ⟨u, hu, hans, heau⟩ := exec_fragment_answers hb hcart (HostKept.eauCount s 4)
      exact ⟨u, hu, hans, by rw [heau, htable], by rw [heau, hcnt, if_pos rfl]⟩
    · rw [← State.findEntry_bank hfind] at hm
      rw [State.cartFound_twice hst hopen hearly (State.arrivals_cached h4 hm hv) (by rwa [if_pos h4])] at hcart
      obtain ⟨u, hu, hans, heau⟩ := exec_fragment_answers hb hcart (HostKept.eauCount s 4)
      exact ⟨u, hu, hans, by rw [heau, htable]⟩
    · rw [State.cartFound_late hst hopen hlate] at hcart
      obtain ⟨hkept, stable, scnt⟩ := s.straggle_counts c p x
      obtain ⟨u, hu, hans, heau⟩ := exec_fragment_answers hb hcart hkept
      exact ⟨u, hu, hans, by rw [heau, stable], by rw [heau, scnt]⟩

end Sys2Proof.Machine
end

section
/-!
PROOFS. The carriages that set profiles, pools and quotas (R442 to R456, R691).
-/

namespace Sys2Proof.Machine

open Sys2Proof Sys2Proof.Safety

/-! ### The event assembly takes the carriage at its head (R27, R454) -/

theorem State.handOver_rng (s : State) : ∃ rng, s.handOver = { s with rng := rng } ∧ rng.fns = s.rng.fns := by
  unfold State.handOver
  split
  · exact ⟨s.rng, rfl, rfl⟩
  · exact ⟨_, rfl, rfl⟩

/-- What the event assembly does with the carriage it takes, in a state where the queues of the ring engine alone have moved. -/
theorem State.eauServe_takes {s : State} {c : Carriage} {op : Nat} (h : EauTakes s c op) :
    ∃ rng : Rng, rng.fns = s.rng.fns ∧ rng.eauQ = s.handOver.rng.eauQ.drop 1 ∧
      (∀ f u, f { s with rng := rng } c = some u → s.eauServe op f = u) ∧
      ∀ f, f { s with rng := rng } c = none → s.eauServe op f = s.handOver := by
  obtain ⟨hhead, hop⟩ := h
  obtain ⟨rest, hq⟩ : ∃ rest, s.handOver.rng.eauQ = c :: rest := List.head?_eq_some_iff.mp hhead
  obtain ⟨rng, hover, hfns⟩ := s.handOver_rng
  replace hq : rng.eauQ = c :: rest := by rwa [hover] at hq
  refine ⟨{ rng with eauQ := rest }, hfns, ?_, fun f u hf => ?_, fun f hf => ?_⟩
  · rw [hover, hq]
    rfl
  · unfold State.eauServe State.eauTake
    rw [hover]
    simp only [hq, hop, ne_eq, not_true_eq_false, if_false, hf]
  · unfold State.eauServe State.eauTake
    rw [hover]
    simp only [hq, hop, ne_eq, not_true_eq_false, if_false, hf]

theorem HostKept.rng (s : State) {r : Rng} (h : r.fns = s.rng.fns) : HostKept s { s with rng := r } :=
  ⟨rfl, fun t => by unfold State.rings; rw [h], rfl, fun _ => rfl, List.prefix_rfl⟩

/-! ### PROFILE_SET -/

section

variable {s : State} {c : Carriage} {r : ProfRec}

theorem State.profileSet_unparsed (h : parseProf c.words = none) : s.profileSet c = some (s.complete c 2 []) := by
  unfold State.profileSet
  simp only [h]

theorem State.profileSet_auth (h : parseProf c.words = some r) (howned : (s.prof (c.body 16 2)).owned = true)
    (hother : (s.prof (c.body 16 2)).owner ≠ c.tenant) (hroot : c.tenant ≠ 0) : s.profileSet c = some (s.complete c 3 []) := by
  unfold State.profileSet
  simp only [h, howned, hother, hroot, ne_eq, not_false_eq_true, and_self, if_true]

theorem profileAuth {x : Profile} {t : Nat} (h : x.owned = false ∨ x.owner = t ∨ t = 0) : ¬ (x.owned = true ∧ x.owner ≠ t ∧ t ≠ 0) := by
  rintro ⟨howned, hother, hroot⟩
  rcases h with h | h | h
  · rw [h] at howned; cases howned
  · exact hother h
  · exact hroot h

/-- EN = 0: a release of an owned profile, which may wait for its lease. -/
theorem State.profileSet_off (h : parseProf c.words = some r) (hmine : (s.prof (c.body 16 2)).owned = false ∨
      (s.prof (c.body 16 2)).owner = c.tenant ∨ c.tenant = 0) (hen : r.en = false) :
    s.profileSet c = if (s.prof (c.body 16 2)).owned = false then some (s.complete c 0 [])
      else if (s.prof (c.body 16 2)).release.isSome then none
      else some (s.setProf (c.body 16 2) { s.prof (c.body 16 2) with release := some (c, s.leaseFor s.lk.eauLease) }) := by
  unfold State.profileSet
  simp only [h, if_neg (profileAuth hmine), hen, Bool.not_false, if_true, Bool.not_eq_true']

/-- EN = 1: the checks of R691 in their order, and the record. -/
theorem State.profileSet_on (h : parseProf c.words = some r) (hmine : (s.prof (c.body 16 2)).owned = false ∨
      (s.prof (c.body 16 2)).owner = c.tenant ∨ c.tenant = 0) (hen : r.en = true) :
    let x := s.prof (c.body 16 2)
    let owner := if x.owned then x.owner else c.tenant
    s.profileSet c = if s.profOk owner r = false then some (s.complete c 2 [])
      else if x.owned = false ∧ (s.quota owner).maxProf ≤ s.profsOf owner then some (s.complete c 5 [])
      else if x.release.isSome then none
      else some ((s.setProf (c.body 16 2)
        { x with owned := true, owner := owner, rec_ := r, bad := x.bad && decide (c.tenant ≠ x.owner) }).complete c 0 []) := by
  unfold State.profileSet
  simp only [h, if_neg (profileAuth hmine), hen, Bool.not_true, Bool.false_eq_true, if_false, Bool.not_eq_true']

end

/-! ### POOL_SET -/

section

variable {s : State} {c : Carriage} {r : PoolRec}

theorem State.poolSet_unparsed (h : parsePool c.words = none) : s.poolSet c = some (s.complete c 2 []) := by
  unfold State.poolSet
  simp only [h]

theorem State.poolSet_auth (h : parsePool c.words = some r) (howned : (s.pool (c.body 16 2)).owned = true)
    (hother : (s.pool (c.body 16 2)).owner ≠ c.tenant) (hroot : c.tenant ≠ 0) : s.poolSet c = some (s.complete c 3 []) := by
  unfold State.poolSet
  simp only [h, howned, hother, hroot, ne_eq, not_false_eq_true, and_self, if_true]

theorem poolAuth {x : Pool} {t : Nat} (h : x.owned = false ∨ x.owner = t ∨ t = 0) : ¬ (x.owned = true ∧ x.owner ≠ t ∧ t ≠ 0) := by
  rintro ⟨howned, hother, hroot⟩
  rcases h with h | h | h
  · rw [h] at howned; cases howned
  · exact hother h
  · exact hroot h

/-- EN = 0: a drain of an owned pool that no profile names, which may wait for its lease. -/
theorem State.poolSet_off (h : parsePool c.words = some r) (hmine : (s.pool (c.body 16 2)).owned = false ∨
      (s.pool (c.body 16 2)).owner = c.tenant ∨ c.tenant = 0) (hen : r.en = false) :
    s.poolSet c = if (s.pool (c.body 16 2)).owned = false then some (s.complete c 0 [])
      else if s.eau.profs.any (fun e => e.2.owned && decide (e.2.rec_.pool = c.body 16 2)) then some (s.complete c 2 [])
      else if (s.pool (c.body 16 2)).drain.isSome then none
      else some (s.setPool (c.body 16 2) { s.pool (c.body 16 2) with drain := some (c, r, s.leaseFor s.lk.eauLease) }) := by
  unfold State.poolSet
  simp only [h, if_neg (poolAuth hmine), hen, Bool.not_false, if_true, Bool.not_eq_true']

/-- EN = 1: the checks of R691 in their order, then a new pool, or the drain of an owned one. -/
theorem State.poolSet_on (h : parsePool c.words = some r) (hmine : (s.pool (c.body 16 2)).owned = false ∨
      (s.pool (c.body 16 2)).owner = c.tenant ∨ c.tenant = 0) (hen : r.en = true) :
    let x := s.pool (c.body 16 2)
    let owner := if x.owned then x.owner else c.tenant
    s.poolSet c = if s.poolOk (c.body 16 2) owner r = false then some (s.complete c 2 [])
      else if x.owned = false ∧ (s.quota owner).maxPool ≤ s.poolsOf owner then some (s.complete c 5 [])
      else if 1048576 < s.slotsBut (c.body 16 2) + r.nslots then some (s.complete c 5 [])
      else if x.owned = false then some ((s.setPool (c.body 16 2) (poolWith owner r)).complete c 0 [])
      else if x.drain.isSome then none
      else some (s.setPool (c.body 16 2) { x with drain := some (c, r, s.leaseFor s.lk.eauLease) }) := by
  unfold State.poolSet
  simp only [h, if_neg (poolAuth hmine), hen, Bool.not_true, Bool.false_eq_true, if_false, Bool.not_eq_true']

end

/-! ### QUOTA_SET -/

/-- The words of a quota record are in range: no bit that is not assigned, the grant in populated DRAM, and the tenant's enabled pools in
the grant. -/
def State.QuotaFits (s : State) (c : Carriage) : Prop :=
  let t := c.body 16 2
  let w := fun (i : Nat) => (c.words.getD i 0).toNat
  w 0 < 2 ^ 20 ∧ w 1 < 2 ^ 21 ∧ w 2 < 2 ^ 25 ∧ (w 2).testBit 11 = false ∧ w 3 < 2 ^ 32 ∧ w 4 < 2 ^ 32 ∧ w 5 = 0 ∧ w 6 = 0 ∧ w 7 = 0 ∧
    w 3 + w 4 ≤ s.popLines ∧ ∀ e ∈ s.eau.pools, e.2.owned = true → e.2.owner = t → e.2.rec_.en = true →
      w 3 ≤ e.2.rec_.base ∧ e.2.rec_.base + e.2.rec_.nslots * e.2.rec_.slotLines ≤ w 3 + w 4

/-- The quota that a record spells. -/
def Carriage.quota (c : Carriage) : Quota :=
  let w := fun (i : Nat) => (c.words.getD i 0).toNat
  ⟨w 0, w 1, w 2 % 2 ^ 11, w 2 / 2 ^ 12, w 3, w 4⟩

section

variable {s : State} {c : Carriage}

theorem fits_iff (ws : List Word) (i n : Nat) : fits ws i n = true ↔ (ws.getD i 0).toNat < 2 ^ n := decide_eq_true_iff

/-- The check of a quota record decides whether it is in range. -/
theorem State.quotaCheck_iff : ((fits c.words 0 20 && fits c.words 1 21 && fits c.words 2 25 && !(bit (c.words.getD 2 0).toNat 11) &&
      fits c.words 3 32 && fits c.words 4 32 && fits c.words 5 0 && fits c.words 6 0 && fits c.words 7 0) = true ∧
    ¬ s.popLines < c.quota.grantBase + c.quota.grantLines ∧
    s.eau.pools.all (fun e => !e.2.owned || decide (e.2.owner ≠ c.body 16 2) || !e.2.rec_.en ||
      decide (c.quota.grantBase ≤ e.2.rec_.base ∧ e.2.rec_.last ≤ c.quota.grantBase + c.quota.grantLines)) = true) ↔ s.QuotaFits c := by
  have hpool (e : Nat × Pool) : (!e.2.owned || decide (e.2.owner ≠ c.body 16 2) || !e.2.rec_.en ||
      decide (c.quota.grantBase ≤ e.2.rec_.base ∧ e.2.rec_.last ≤ c.quota.grantBase + c.quota.grantLines)) = true ↔
      (e.2.owned = true → e.2.owner = c.body 16 2 → e.2.rec_.en = true →
        c.quota.grantBase ≤ e.2.rec_.base ∧ e.2.rec_.last ≤ c.quota.grantBase + c.quota.grantLines) := by
    cases e.2.owned <;> cases e.2.rec_.en <;> simp [imp_iff_not_or]
  unfold State.QuotaFits
  simp only [Bool.and_eq_true, fits_iff, List.all_eq_true, hpool, Nat.not_lt, Bool.not_eq_true', and_assoc, pow_zero, Nat.lt_one_iff]
  rfl

theorem State.quotaSet_fits (h : s.QuotaFits c) :
    s.quotaSet c = ({ s with eau := { s.eau with quotas := tset none s.eau.quotas (c.body 16 2) (some c.quota) } } : State).complete c 0 [] := by
  obtain ⟨hok, hpop, hin⟩ := State.quotaCheck_iff.mpr h
  have hquota : c.quota = ⟨(c.words.getD 0 0).toNat, (c.words.getD 1 0).toNat, bits (c.words.getD 2 0).toNat 10 0,
      bits (c.words.getD 2 0).toNat 24 12, (c.words.getD 3 0).toNat, (c.words.getD 4 0).toNat⟩ := by
    obtain ⟨-, -, h2, -⟩ := h
    replace h2 : (c.words.getD 2 0).toNat < 2 ^ 25 := h2
    simp only [Carriage.quota, bits, pow_zero, Nat.div_one, Quota.mk.injEq, true_and, and_true]
    omega
  unfold State.quotaSet
  rw [hquota]
  rw [hquota] at hpop hin
  exact if_neg (by simp only [hok, hpop, hin]; decide)

theorem State.quotaSet_range (h : ¬ s.QuotaFits c) : s.quotaSet c = s.complete c 2 [] := by
  have hcheck := mt State.quotaCheck_iff.mp h
  unfold State.quotaSet
  refine if_pos ?_
  by_contra hall
  rw [Bool.or_eq_true, Bool.or_eq_true, Bool.not_eq_true', Bool.not_eq_true', decide_eq_true_eq, not_or, not_or, Bool.not_eq_false,
    Bool.not_eq_false] at hall
  obtain ⟨⟨hok, hpop⟩, hin⟩ := hall
  exact hcheck ⟨hok, hpop, hin⟩

theorem State.quota_set (s : State) (t j : Nat) (q : Quota) :
    ({ s with eau := { s.eau with quotas := tset none s.eau.quotas t (some q) } } : State).quota j = if j = t then q else s.quota j := by
  unfold State.quota
  rw [tget_tset]
  by_cases h : j = t
  · simp only [h, if_true]
  · simp only [h, if_false]
    rfl

theorem Sends.quota {u : State} (h : Sends s u) (j : Nat) : u.quota j = s.quota j := by
  obtain ⟨⟨_, _, _, _, _, _, rfl⟩, -, -, -⟩ := h
  rfl

end

/-- Settles O43. -/
theorem profilesPoolsAndQuotas : Obligations.ProfilesPoolsAndQuotas := by
  refine ⟨fun s c htake => ?_, fun s c htake => ?_, fun s c htake => ?_⟩
  · intro p x owner ends
    obtain ⟨rng, hfns, hq, hsome, hnone⟩ := State.eauServe_takes htake
    let v : State := { s with rng := rng }
    have hkept : HostKept s v := HostKept.rng s hfns
    have hkeeps {st : Nat} (h : v.profileSet c = some (v.complete c st [])) : ends st x := by
      have heau := (Sends.complete v c st []).eau
      exact ⟨_, congrArg Host.Outcome.next (hsome _ _ h), hkept.complete c st [], State.prof_of_eau (by rw [heau]) p, by rw [heau],
        fun j _ => State.prof_of_eau (by rw [heau]) j⟩
    have hsets {st : Nat} {y : Profile} (h : v.profileSet c = some ((v.setProf p y).complete c st [])) : ends st y := by
      have heau := (Sends.complete (v.setProf p y) c st []).eau
      have hprof (j : Nat) : ((v.setProf p y).complete c st []).prof j = if j = p then y else s.prof j :=
        (State.prof_of_eau (by rw [heau]) j).trans (State.setProf_prof v p y j)
      exact ⟨_, congrArg Host.Outcome.next (hsome _ _ h), (hkept.trans (HostKept.eau v _)).complete c st [], (hprof p).trans (if_pos rfl),
        by rw [heau]; rfl, fun j hj => (hprof j).trans (if_neg hj)⟩
    refine ⟨fun hparse => hkeeps (State.profileSet_unparsed hparse), fun r hparse => ⟨fun howned hother hroot => ?_, fun hmine => ?_⟩⟩
    · exact hkeeps (State.profileSet_auth hparse howned hother hroot)
    have hoff (hen : r.en = false) := State.profileSet_off (s := v) hparse hmine hen
    have hon (hen : r.en = true) := State.profileSet_on (s := v) hparse hmine hen
    refine ⟨fun hen howned => hkeeps ((hoff hen).trans (if_pos howned)), fun hen howned hrel => ?_,
      fun hen hbad => hkeeps ((hon hen).trans (if_pos hbad)), fun hen hok hroom => ?_, fun hen hok howned hfull => ?_⟩
    · have hset := (hoff hen).trans ((if_neg fun h => Bool.noConfusion (howned.symm.trans h)).trans
        (if_neg fun h => Bool.noConfusion ((congrArg Option.isSome hrel).symm.trans h)))
      refine ⟨_, v.leaseFor v.lk.eauLease, congrArg Host.Outcome.next (hsome _ _ hset), rfl, ?_, hq⟩
      rw [State.setProf_prof, if_pos rfl]
      rfl
    · have hpast := (hon hen).trans ((if_neg fun h => Bool.noConfusion (hok.symm.trans h)).trans (if_neg fun h => ?_))
      · refine ⟨fun hrel => hsets (hpast.trans (if_neg fun h => Bool.noConfusion ((congrArg Option.isSome hrel).symm.trans h))),
          fun hrel => congrArg Host.Outcome.next (hnone _ (hpast.trans (if_pos hrel)))⟩
      · obtain ⟨hun, hmax⟩ := h
        rcases hroom with h | h
        · exact Bool.noConfusion (h.symm.trans hun)
        · exact absurd (lt_of_lt_of_le h hmax) (lt_irrefl _)
    · exact hkeeps ((hon hen).trans ((if_neg fun h => Bool.noConfusion (hok.symm.trans h)).trans (if_pos ⟨howned, hfull⟩)))
  · intro q x owner ends
    obtain ⟨rng, hfns, -, hsome, -⟩ := State.eauServe_takes htake
    let v : State := { s with rng := rng }
    have hkept : HostKept s v := HostKept.rng s hfns
    have hkeeps {st : Nat} (h : v.poolSet c = some (v.complete c st [])) : ends st x := by
      have heau := (Sends.complete v c st []).eau
      exact ⟨_, congrArg Host.Outcome.next (hsome _ _ h), hkept.complete c st [], State.pool_of_eau (by rw [heau]) q, by rw [heau],
        fun j _ => State.pool_of_eau (by rw [heau]) j⟩
    have hsets {st : Nat} {y : Pool} (h : v.poolSet c = some ((v.setPool q y).complete c st [])) : ends st y := by
      have heau := (Sends.complete (v.setPool q y) c st []).eau
      have hpool (j : Nat) : ((v.setPool q y).complete c st []).pool j = if j = q then y else s.pool j :=
        (State.pool_of_eau (by rw [heau]) j).trans (State.setPool_pool v q y j)
      exact ⟨_, congrArg Host.Outcome.next (hsome _ _ h), (hkept.trans (HostKept.eau v _)).complete c st [], (hpool q).trans (if_pos rfl),
        by rw [heau]; rfl, fun j hj => (hpool j).trans (if_neg hj)⟩
    refine ⟨fun hparse => hkeeps (State.poolSet_unparsed hparse), fun r hparse => ⟨fun howned hother hroot => ?_, fun hmine => ?_⟩⟩
    · exact hkeeps (State.poolSet_auth hparse howned hother hroot)
    intro used drains
    have hoff (hen : r.en = false) := State.poolSet_off (s := v) hparse hmine hen
    have hon (hen : r.en = true) := State.poolSet_on (s := v) hparse hmine hen
    have hdrains (h : v.poolSet c = some (v.setPool q { x with drain := some (c, r, v.leaseFor v.lk.eauLease) })) : drains := by
      refine ⟨_, v.leaseFor v.lk.eauLease, congrArg Host.Outcome.next (hsome _ _ h), rfl, ?_⟩
      rw [State.setPool_pool, if_pos rfl]
    refine ⟨fun hen howned => hkeeps ((hoff hen).trans (if_pos howned)), fun hen howned hused => ?_, fun hen howned hused hdrain => ?_,
      fun hen hbad => hkeeps ((hon hen).trans (if_pos hbad)), fun hen hok howned hroom => ?_, fun hen hok howned hslots hdrain => ?_⟩
    · exact hkeeps ((hoff hen).trans ((if_neg fun h => Bool.noConfusion (howned.symm.trans h)).trans (if_pos hused)))
    · exact hdrains ((hoff hen).trans ((if_neg fun h => Bool.noConfusion (howned.symm.trans h)).trans
        ((if_neg fun h => Bool.noConfusion (hused.symm.trans h)).trans
          (if_neg fun h => Bool.noConfusion ((congrArg Option.isSome hdrain).symm.trans h)))))
    · have hpast := (hon hen).trans ((if_neg fun h => Bool.noConfusion (hok.symm.trans h)).trans
        (if_neg fun h => absurd (lt_of_lt_of_le hroom h.2) (lt_irrefl _)))
      refine ⟨fun hmany => hkeeps (hpast.trans (if_pos hmany)), fun hfew => ?_⟩
      have hnew := hsets (hpast.trans ((if_neg (Nat.not_lt.mpr hfew)).trans (if_pos howned)))
      rwa [poolWith, if_pos hen] at hnew
    · exact hdrains ((hon hen).trans ((if_neg fun h => Bool.noConfusion (hok.symm.trans h)).trans
        ((if_neg fun h => Bool.noConfusion (howned.symm.trans h.1)).trans ((if_neg (Nat.not_lt.mpr hslots)).trans
          ((if_neg fun h => Bool.noConfusion (howned.symm.trans h)).trans
            (if_neg fun h => Bool.noConfusion ((congrArg Option.isSome hdrain).symm.trans h)))))))
  · intro t w ok
    obtain ⟨rng, hfns, -, hsome, -⟩ := State.eauServe_takes htake
    let v : State := { s with rng := rng }
    have hkept : HostKept s v := HostKept.rng s hfns
    refine ⟨fun hok => ?_, fun hbad => ?_⟩
    · have hset := State.quotaSet_fits (s := v) (c := c) hok
      have hsends := Sends.complete { v with eau := { v.eau with quotas := tset none v.eau.quotas (c.body 16 2) (some c.quota) } } c 0 []
      refine ⟨_, congrArg Host.Outcome.next (hsome _ _ (congrArg some hset)), (hkept.trans (HostKept.eau v _)).complete c 0 [], ?_, fun j hj => ?_⟩
      · rw [hsends.quota, State.quota_set, if_pos rfl]
        rfl
      · rw [hsends.quota, State.quota_set, if_neg hj]
        rfl
    · have hset := State.quotaSet_range (s := v) (c := c) hbad
      exact ⟨_, congrArg Host.Outcome.next (hsome _ _ (congrArg some hset)), hkept.complete c 2 [], (Sends.complete v c 2 []).eau⟩

end Sys2Proof.Machine
end

section
/-!
PROOFS. The events that the dispatch unit accepts, picks and sheds, and the decisions that the lanes release (R488 to R497, R508 to R516).
-/

namespace Sys2Proof.Machine

open Sys2Proof Sys2Proof.Safety

/-! ### The octets of a frame (R84, R511) -/

theorem leNat_octetsLe (n x : Nat) : leNat (octetsLe n x) = x % 256 ^ n := by
  induction n generalizing x with
  | zero => simp [octetsLe, leNat, Nat.mod_one]
  | succ n ih =>
    rw [octetsLe, leNat, ih, BitVec.toNat_ofNat, Nat.pow_succ' (m := 256), Nat.mod_mul]

theorem octetsLe_leNat (os : List Octet) : octetsLe os.length (leNat os) = os := by
  induction os with
  | nil => rfl
  | cons o os ih =>
    have ho := o.isLt
    rw [List.length_cons, octetsLe, leNat]
    congr 1
    · refine BitVec.eq_of_toNat_eq ?_
      rw [BitVec.toNat_ofNat]
      omega
    · rw [show (o.toNat + 256 * leNat os) / 256 = leNat os by omega, ih]

theorem leNat_lt (os : List Octet) : leNat os < 256 ^ os.length := by
  induction os with
  | nil => simp [leNat]
  | cons o os ih =>
    have ho := o.isLt
    rw [List.length_cons, leNat, Nat.pow_succ']
    omega

/-- A block gives back its sync header and its octets. -/
theorem blockOf_reads {sync : Nat} {os : List Octet} (hs : sync < 4) (h : os.length = 8) :
    blockSync (blockOf sync os) = sync ∧ blockOctets (blockOf sync os) = os := by
  have hlt := leNat_lt os
  rw [h] at hlt
  have hval : (blockOf sync os).toNat = sync + 4 * leNat os := by
    rw [blockOf, BitVec.toNat_ofNat]
    exact Nat.mod_eq_of_lt (by omega)
  refine ⟨?_, ?_⟩
  · rw [blockSync, hval]
    omega
  · rw [blockOctets, hval, show (sync + 4 * leNat os) / 4 = leNat os by omega, ← h]
    exact octetsLe_leNat os

/-- Two blocks give back the frame that they carry. -/
theorem blocksOf_reads {os : List Octet} (h : os.length = 16) :
    blockSync (blocksOf os).first = 2 ∧ blockSync (blocksOf os).second = 1 ∧ blocksOctets (blocksOf os) = os := by
  obtain ⟨hfirst, htake⟩ := blockOf_reads (sync := 2) (os := os.take 8) (by decide) (by simp [h])
  obtain ⟨hsecond, hdrop⟩ := blockOf_reads (sync := 1) (os := os.drop 8) (by decide) (by simp [h])
  exact ⟨hfirst, hsecond, by rw [blocksOctets, blocksOf, htake, hdrop, List.take_append_drop]⟩

theorem crcOk_withCrc {os : List Octet} (h : os.length = 14) : crcOk (withCrc os) = true := by
  rw [crcOk, decide_eq_true_iff]
  congr 1
  exact List.take_left' h

/-- The frame of a decision is read back from its two blocks. -/
theorem decisionFrame_reads {stamp w : Word} {devid flags edge : Nat} (hdevid : devid < 2 ^ 14) (hflags : flags < 64) (hedge : edge < 128) :
    let b := blocksOf (decisionFrame stamp w devid flags edge)
    blockSync b.first = 2 ∧ blockSync b.second = 1 ∧ crcOk (blocksOctets b) = true ∧
      frameField (blocksOctets b) 1 13 = stamp.toNat + w.toNat * 2 ^ 36 + devid * 2 ^ 72 + flags * 2 ^ 86 + edge * 2 ^ 92 := by
  intro b
  have hlen (x : Nat) : (1 :: octetsLe 13 x : List Octet).length = 14 := by rw [List.length_cons, octetsLe_length]
  obtain ⟨hfirst, hsecond, hos⟩ := blocksOf_reads (os := decisionFrame stamp w devid flags edge) (by
    rw [decisionFrame, withCrc, List.length_append, hlen]
    rfl)
  refine ⟨hfirst, hsecond, ?_, ?_⟩
  · rw [hos]
    exact crcOk_withCrc (hlen _)
  · have hstamp := stamp.isLt
    have hw := w.isLt
    rw [hos, frameField, decisionFrame, withCrc, List.cons_append, List.drop_one, List.tail_cons, List.take_left' (octetsLe_length ..),
      leNat_octetsLe, Nat.mod_eq_of_lt hdevid]
    exact Nat.mod_eq_of_lt (by omega)

/-! ### The counters of the dispatch unit and of the lanes -/

theorem SourcesOnly.raise {s : State} {n : Nat} (h : 32 ≤ n) : SourcesOnly s (s.raise n) := by
  unfold State.raise State.signal
  rw [if_neg (by omega)]
  exact SourcesOnly.lineEdge s n

theorem State.dduCount_sources (s : State) (k : Nat) : SourcesOnly { s with ddu := { s.ddu with
    cnt := tset 0 s.ddu.cnt k (satInc (2 ^ 36 - 1) (tget 0 s.ddu.cnt k)) } } (s.dduCount k) := by
  unfold State.dduCount
  dsimp only
  split
  · exact SourcesOnly.raise (by decide)
  · exact SourcesOnly.refl _

theorem State.dolCount_sources (s : State) (k : Nat) : SourcesOnly { s with dol := { s.dol with
    cnt := tset 0 s.dol.cnt k (satInc (2 ^ 36 - 1) (tget 0 s.dol.cnt k)) } } (s.dolCount k) := by
  unfold State.dolCount
  dsimp only
  split
  · exact SourcesOnly.raise (by decide)
  · exact SourcesOnly.refl _

/-! ### The dispatch unit -/

/-- The acceptance of an event takes it from the close queue into a descriptor, and counts. -/
theorem State.dduTakes_accepts {s : State} {e : Event} {rest : List Event} (hq : s.eau.closeQ = e :: rest) (hready : s.glb.rDdu = true)
    (hroom : s.ddu.descs.length < 65536) (htbl : s.ras.tbl = []) : ∃ dol, SourcesOnly { s with
      eau := { s.eau with closeQ := rest }
      ddu := { s.ddu with descs := s.ddu.descs ++ [⟨e, s.tbu.edges⟩], cnt := tset 0 s.ddu.cnt 0 (satInc (2 ^ 36 - 1) (tget 0 s.ddu.cnt 0)) }
      dol := dol } s.dduTakes := by
  have hnot : ¬ (65536 ≤ s.ddu.descs.length ∨ (!s.glb.rDdu) = true) := by
    rw [hready]
    simp only [Bool.not_true, Bool.false_eq_true, or_false]
    omega
  let v : State := { s with eau := { s.eau with closeQ := rest }, ddu := { s.ddu with descs := s.ddu.descs ++ [⟨e, s.tbu.edges⟩] } }
  have htakes : s.dduTakes = ((v.dolAccept e.lane e.stamp e.recFlags).dduCount 0).descError e := by
    unfold State.dduTakes State.dduTake
    simp only [hq, if_neg hnot]
    rfl
  obtain ⟨dol, hdol⟩ : ∃ dol, v.dolAccept e.lane e.stamp e.recFlags = { v with dol := dol } := by
    unfold State.dolAccept
    split
    · exact ⟨_, rfl⟩
    · exact ⟨v.dol, rfl⟩
  have hcount := State.dduCount_sources { v with dol := dol } 0
  rw [htakes, hdol]
  have hnone : (State.dduCount { v with dol := dol } 0).descError e = State.dduCount { v with dol := dol } 0 := by
    have hras : (State.dduCount { v with dol := dol } 0).ras.tbl = [] := by
      obtain ⟨_, _, _, h⟩ := hcount
      rw [h]
      exact htbl
    unfold State.descError State.tblErr
    rw [hras]
    rfl
  rw [hnone]
  exact ⟨dol, hcount⟩

theorem earliestDesc_spec {l : List Desc} {d : Desc} (h : earliestDesc l = some d) :
    d ∈ l ∧ ∀ x ∈ l, Stamp.le d.ev.ddl x.ev.ddl = true := by
  induction l generalizing d with
  | nil => cases h
  | cons a l ih =>
    rw [earliestDesc] at h
    split at h
    · next hnone =>
      cases h
      have hl : l = [] := by
        cases l with
        | nil => rfl
        | cons b t =>
          rw [earliestDesc] at hnone
          split at hnone <;> cases hnone
      subst hl
      exact ⟨List.mem_cons_self .., fun x hx => by rw [List.mem_singleton.mp hx]; exact Stamp.le_refl _⟩
    · next b hb =>
      obtain ⟨hmem, hmin⟩ := ih hb
      cases h
      unfold descFirst
      split
      · next hle =>
        refine ⟨List.mem_cons_self .., fun x hx => ?_⟩
        rcases List.mem_cons.mp hx with rfl | hx
        · exact Stamp.le_refl _
        · exact Stamp.le_trans hle (hmin x hx)
      · next hle =>
        refine ⟨List.mem_cons_of_mem _ hmem, fun x hx => ?_⟩
        rcases List.mem_cons.mp hx with rfl | hx
        · exact Stamp.le_of_not_le (Bool.not_eq_true _ ▸ hle)
        · exact hmin x hx

/-- Each class that is served has its share added once. -/
theorem tget_shares (f : Nat → Nat) {l : List Nat} (hl : l.Nodup) (t : Tbl Nat) (c : Nat) :
    tget 0 (l.foldl (fun (t : Tbl Nat) c => tset 0 t c (min (tget 0 t c + f c) 16384)) t) c =
      if c ∈ l then min (tget 0 t c + f c) 16384 else tget 0 t c := by
  induction l generalizing t with
  | nil => rfl
  | cons a l ih =>
    obtain ⟨ha, hl⟩ := List.nodup_cons.mp hl
    rw [List.foldl_cons, ih hl, tget_tset]
    by_cases hc : c = a
    · subst hc
      simp [ha]
    · simp [hc]

theorem State.dduEligible_iff (s : State) (k : Cap) (x : Desc) : s.dduEligible k x = true ↔
    (x.ev.owner = k.tenant ∨ k.perm 11 = true) ∧
      (match (s.dduCtl (k.otype - 4032)).serve with | none => x.ev.cls = k.otype - 4032 | some m => m.testBit x.ev.cls = true) := by
  unfold State.dduEligible State.serves
  split
  · simp only [Bool.and_eq_true, Bool.or_eq_true, decide_eq_true_eq, *]
    constructor
    · rintro ⟨h, k⟩; exact ⟨k, h.symm⟩
    · rintro ⟨k, h⟩; exact ⟨h.symm, k⟩
  · simp only [Bool.and_eq_true, Bool.or_eq_true, decide_eq_true_eq, *]
    exact and_comm

/-- An event that is picked is eligible, and where no eligible class is owed a share its deadline is the earliest. -/
theorem State.select_spec {s : State} {k : Cap} {d : Desc} {cr : Tbl Nat} (h : s.select k = some (d, cr)) :
    d ∈ s.ddu.descs ∧ s.dduEligible k d = true ∧
      ((∀ x ∈ s.ddu.descs, s.dduEligible k x = true → tget 0 s.ddu.credit x.ev.cls + s.share x.ev.cls < 256) →
        ∀ x ∈ s.ddu.descs, s.dduEligible k x = true → Stamp.le d.ev.ddl x.ev.ddl = true) := by
  unfold State.select at h
  extract_lets elig classes credits owed cand at h
  obtain ⟨d', hd, hcr⟩ := Option.map_eq_some_iff.mp h
  obtain rfl : d' = d := congrArg Prod.fst hcr
  obtain ⟨hmem, hmin⟩ := earliestDesc_spec hd
  have hcand : ∀ x ∈ cand, x ∈ elig := by
    intro x hx
    unfold cand at hx
    split at hx
    · exact hx
    · exact (List.mem_filter.mp hx).1
  obtain ⟨hdesc, helig⟩ := List.mem_filter.mp (hcand d' hmem)
  refine ⟨hdesc, helig, fun hnone x hx hxe => hmin x ?_⟩
  have howed : owed = [] := by
    refine List.filter_eq_nil_iff.mpr fun c hc => ?_
    obtain ⟨y, hy, hyc⟩ : ∃ y ∈ elig, y.ev.cls = c := by simpa using (List.mem_filter.mp hc).2
    obtain ⟨hyd, hye⟩ := List.mem_filter.mp hy
    have hlow := hnone y hyd hye
    rw [hyc] at hlow
    have hget := tget_shares s.share (List.Nodup.filter _ List.nodup_range : classes.Nodup) s.ddu.credit c
    rw [if_pos hc] at hget
    rw [decide_eq_true_iff]
    change ¬ 256 ≤ tget 0 (classes.foldl _ s.ddu.credit) c
    rw [hget]
    omega
  unfold cand
  rw [howed]
  exact List.mem_filter.mpr ⟨hx, hxe⟩

/-- Of two values the one with the earlier stamp, the first on a tie. -/
def earlier {α : Type} (key : α → Stamp) (m : Option α) (d : α) : Option α :=
  match m with
  | none => some d
  | some e => if Stamp.le (key e) (key d) then some e else some d

theorem foldl_earlier {α : Type} (key : α → Stamp) (l : List α) (e : α) : ∃ m, l.foldl (earlier key) (some e) = some m ∧
    (m = e ∨ m ∈ l) ∧ Stamp.le (key m) (key e) = true ∧ ∀ x ∈ l, Stamp.le (key m) (key x) = true := by
  induction l generalizing e with
  | nil => exact ⟨e, rfl, .inl rfl, Stamp.le_refl _, fun x hx => nomatch hx⟩
  | cons a l ih =>
    have hstep : earlier key (some e) a = if Stamp.le (key e) (key a) then some e else some a := rfl
    rw [List.foldl_cons, hstep]
    by_cases hle : Stamp.le (key e) (key a) = true
    · obtain ⟨m, hm, hmem, hme, hmin⟩ := ih e
      rw [if_pos hle]
      refine ⟨m, hm, hmem.imp_right (List.mem_cons_of_mem _), hme, fun x hx => ?_⟩
      rcases List.mem_cons.mp hx with rfl | hx
      · exact Stamp.le_trans hme hle
      · exact hmin x hx
    · obtain ⟨m, hm, hmem, hma, hmin⟩ := ih a
      have hae := Stamp.le_of_not_le (Bool.eq_false_iff.mpr hle)
      rw [if_neg hle]
      refine ⟨m, hm, .inr (hmem.elim (fun h => h ▸ List.mem_cons_self ..) (List.mem_cons_of_mem _)), Stamp.le_trans hma hae, fun x hx => ?_⟩
      rcases List.mem_cons.mp hx with rfl | hx
      · exact hma
      · exact hmin x hx

/-- The first of the earliest is found. -/
theorem foldl_earlier_spec {α : Type} {key : α → Stamp} {l : List α} {m : α} (h : l.foldl (earlier key) none = some m) :
    m ∈ l ∧ ∀ x ∈ l, Stamp.le (key m) (key x) = true := by
  cases l with
  | nil => cases h
  | cons a l =>
    obtain ⟨m', hm, hmem, hma, hmin⟩ := foldl_earlier key l a
    obtain rfl : m' = m := Option.some.inj (hm.symm.trans h)
    refine ⟨hmem.elim (fun h => h ▸ List.mem_cons_self ..) (List.mem_cons_of_mem _), fun x hx => ?_⟩
    rcases List.mem_cons.mp hx with rfl | hx
    · exact hma
    · exact hmin x hx

/-- The event that sheds next is one of its class whose time has come, and none of these has an earlier one. -/
theorem State.shedNext_spec {s : State} {cls : Nat} {d : Desc} (h : s.shedNext cls = some d) :
    d ∈ s.ddu.descs ∧ d.ev.cls = cls ∧ s.shedNow d = true ∧
      ∀ x ∈ s.ddu.descs, x.ev.cls = cls → s.shedNow x = true → ∀ y z, s.shedDue d = some y → s.shedDue x = some z →
        Stamp.le y.at_ z.at_ = true := by
  have hfold : s.shedNext cls = (s.ddu.descs.filter fun d => decide (d.ev.cls = cls) && s.shedNow d).foldl
      (earlier fun d => (s.shedDue d).elim d.ev.ddl (·.at_)) none := by
    unfold State.shedNext
    congr 1
    funext m d
    cases m <;> rfl
  obtain ⟨hmem, hmin⟩ := foldl_earlier_spec (hfold.symm.trans h)
  obtain ⟨hdesc, hnow⟩ := List.mem_filter.mp hmem
  rw [Bool.and_eq_true, decide_eq_true_eq] at hnow
  refine ⟨hdesc, hnow.1, hnow.2, fun x hx hcls hxnow y z hy hz => ?_⟩
  have hle := hmin x (List.mem_filter.mpr ⟨hx, by rw [hcls, hxnow, decide_eq_true rfl]; rfl⟩)
  rwa [hy, hz] at hle

/-- An event that sheds leaves the unit, and its slot is free. -/
theorem State.shed_frees {s : State} {cls : Nat} {d : Desc} (h : s.shedNext cls = some d) :
    (∀ x, x ∈ (s.shed cls).ddu.descs ↔ x ∈ s.ddu.descs ∧ x.ev.id ≠ d.ev.id) ∧
      (s.shed cls).pool d.ev.pool =
        { s.pool d.ev.pool with freed := (s.pool d.ev.pool).freed ++ [d.ev.slot], used := (s.pool d.ev.pool).used - 1 } ∧
      tget 0 (s.shed cls).ddu.cnt 2 = satInc (2 ^ 36 - 1) (tget 0 s.ddu.cnt 2) := by
  let v : State := { s with ddu := { s.ddu with descs := s.ddu.descs.filter fun x => decide (x.ev.id ≠ d.ev.id) } }
  have hshed : s.shed cls = ((v.freeSlot d.ev.pool d.ev.slot).dduCount 2).raise 128 := by
    unfold State.shed
    rw [h]
  obtain ⟨_, _, _, hu⟩ := (State.dduCount_sources (v.freeSlot d.ev.pool d.ev.slot) 2).trans (SourcesOnly.raise (n := 128) (by decide))
  rw [hshed, hu]
  refine ⟨fun x => ?_, ?_, tget_tset_same 0 _ 2 _⟩
  · change x ∈ s.ddu.descs.filter _ ↔ _
    rw [List.mem_filter, decide_eq_true_iff]
  · change (v.setPool d.ev.pool _).pool d.ev.pool = _
    rw [State.setPool_pool, if_pos rfl]
    rfl

/-! ### The lanes -/

/-- The record that a lane releases next is its own. -/
theorem State.dolNext_lane {s : State} {lane : Nat} {r : DRec} (h : s.dolNext lane = some r) : r.lane = lane := by
  have hmem : ∀ x, s.dolNext lane = some x → x ∈ s.dol.recs.filter fun r => decide (r.lane = lane) && s.isDue r.release := by
    unfold State.dolNext
    refine List.foldlRecOn (motive := fun m : Option DRec => ∀ x, m = some x → x ∈ s.dol.recs.filter fun r => decide (r.lane = lane) && s.isDue r.release)
      _ _ ?_ fun m hm a ha x hx => ?_
    · intro x hx
      cases hx
    cases m with
    | none => exact Option.some.inj hx ▸ ha
    | some b =>
      dsimp only at hx
      split at hx
      · exact Option.some.inj hx ▸ ha
      · exact hm x hx
  have hr := (List.mem_filter.mp (hmem r h)).2
  rw [Bool.and_eq_true, decide_eq_true_eq] at hr
  exact hr.1

/-- The frame of a lane begins at a block boundary. -/
theorem State.dolStart_phase (s : State) (lane : Nat) {phase : Nat} (h : phase < 66) : s.dolStart lane phase % 66 = phase ∧
    (tget none s.dol.lastEnd lane = none → s.dolStart lane phase = phase) := by
  unfold State.dolStart
  split
  · next hnone => exact ⟨Nat.mod_eq_of_lt h, fun _ => rfl⟩
  · next e ui hsome =>
    refine ⟨?_, fun hnone => by rw [hsome] at hnone; cases hnone⟩
    dsimp only
    split <;> omega

/-- The word and the flags of a release, as R508 spells them. -/
theorem State.dolWord_eq (s : State) (r : DRec) :
    let dflt := tget 0 s.lk.dflt r.lane
    s.dolWord r = (if r.decided = 0 then dflt else if r.decided = r.expect then r.word else r.word ||| dflt,
      (if r.decided < r.expect then 1 else 0) + r.flags + (if r.decided = 0 then 8 else 0) + (if r.taken < r.expect then 32 else 0)) := by
  intro dflt
  have hbit (p : Prop) [Decidable p] (n : Nat) : b2n (decide p) * n = if p then n else 0 := by
    unfold b2n
    by_cases hp : p <;> simp [hp]
  have hlow : b2n (decide (r.decided < r.expect)) = if r.decided < r.expect then 1 else 0 := by simpa using hbit (r.decided < r.expect) 1
  unfold State.dolWord
  simp only [hbit, hlow]
  rfl

/-- From `s` to `u` counters of the lanes other than RELEASED move, with their source, and nothing else. -/
def LanesCounted (s u : State) : Prop :=
  ∃ cnt, tget 0 cnt 0 = tget 0 s.dol.cnt 0 ∧ SourcesOnly { s with dol := { s.dol with cnt := cnt } } u

theorem LanesCounted.refl (s : State) : LanesCounted s s := ⟨s.dol.cnt, rfl, SourcesOnly.refl s⟩

theorem LanesCounted.trans {s t u : State} (h : LanesCounted s t) (k : LanesCounted t u) : LanesCounted s u := by
  obtain ⟨_, h0, _, _, _, rfl⟩ := h
  obtain ⟨cnt, k0, _, _, _, rfl⟩ := k
  exact ⟨cnt, k0.trans h0, _, _, _, rfl⟩

theorem LanesCounted.count (s : State) {k : Nat} (hk : 0 ≠ k) (p : Prop) [Decidable p] : LanesCounted s (if p then s.dolCount k else s) := by
  split
  · exact ⟨_, tget_tset_other _ _ _ hk, s.dolCount_sources k⟩
  · exact refl s

section

variable {s : State} {lane phase : Nat} {r : DRec}

/-- A lane that is not ready loses its record. -/
theorem State.dolRelease_lost (h : s.dolNext lane = some r) (hlane : s.glb.rLanes.testBit lane = false) : SourcesOnly { s with dol := { s.dol with
    recs := s.dol.recs.filter fun x => !(x.isFor lane r.stamp)
    cnt := tset 0 s.dol.cnt 5 (satInc (2 ^ 36 - 1) (tget 0 s.dol.cnt 5)) } } (s.dolRelease lane phase) := by
  unfold State.dolRelease
  simp only [h, hlane, Bool.not_false, if_true]
  exact State.dolCount_sources { s with dol := { s.dol with recs := s.dol.recs.filter fun x => !(x.isFor lane r.stamp) } } 5

/-- A lane that is ready sends the frame of its record. -/
theorem State.dolRelease_sends (h : s.dolNext lane = some r) (hlane : s.glb.rLanes.testBit lane = true) :
    ∃ lastEnd cnt, tget 0 cnt 0 = satInc (2 ^ 36 - 1) (tget 0 s.dol.cnt 0) ∧ SourcesOnly { s with
      dol := { s.dol with recs := s.dol.recs.filter (fun x => !(x.isFor lane r.stamp)), lastEnd := lastEnd, cnt := cnt }
      outbox := s.outbox ++ [.frame lane (s.dolStart lane phase) (blocksOf (decisionFrame r.stamp.short (s.dolWord r).1
        (r.devid.getD s.bsu.devid) (s.dolWord r).2 (min (s.dolStart lane phase) 127)))] } (s.dolRelease lane phase) := by
  let v : State := { s with
    dol := { s.dol with
      recs := s.dol.recs.filter (fun x => !(x.isFor lane r.stamp))
      lastEnd := tset none s.dol.lastEnd lane (some (s.tbu.edges, s.dolStart lane phase + 132)) }
    outbox := s.outbox ++ [.frame lane (s.dolStart lane phase) (blocksOf (decisionFrame r.stamp.short (s.dolWord r).1
      (r.devid.getD s.bsu.devid) (s.dolWord r).2 (min (s.dolStart lane phase) 127)))] }
  have hrelease : s.dolRelease lane phase =
      (let s5 := if r.decided < r.expect then (v.dolCount 0).dolCount 1 else v.dolCount 0
       if 127 < s.dolStart lane phase then s5.dolCount 4 else s5) := by
    unfold State.dolRelease
    simp only [h, hlane, Bool.not_true, Bool.false_eq_true, if_false]
    rfl
  have hlate := LanesCounted.count (v.dolCount 0) (k := 1) (by decide) (r.decided < r.expect)
  obtain ⟨cnt, h0, hu⟩ := hlate.trans (LanesCounted.count _ (k := 4) (by decide) (127 < s.dolStart lane phase))
  obtain ⟨_, _, _, hv⟩ := v.dolCount_sources 0
  rw [hrelease]
  refine ⟨v.dol.lastEnd, cnt, h0.trans (by rw [hv]; exact tget_tset_same 0 _ 0 _), SourcesOnly.trans ?_ hu⟩
  rw [hv]
  exact ⟨_, _, _, rfl⟩

end

/-- Settles O46. -/
theorem eventsAreDispatched : Obligations.EventsAreDispatched := by
  refine ⟨fun s e rest hq => ⟨fun hnot => ?_, fun hready hroom htbl => ?_⟩, fun s k d cr h => ?_, fun s cls d h => ?_,
    fun s lane phase r hlane hphase h htbl => ?_, fun stamp w devid flags edge => decisionFrame_reads⟩
  · refine congrArg Host.Outcome.next ?_
    unfold State.dduTakes
    simp only [hq]
    refine if_pos ?_
    rcases hnot with h | h
    · exact .inr (by rw [h]; rfl)
    · exact .inl h
  · obtain ⟨dol, srcs, lost, lease, hu⟩ := State.dduTakes_accepts hq hready hroom htbl
    refine ⟨s.dduTakes, ⟨e, s.tbu.edges⟩, rfl, by rw [hu], by rw [hu], rfl, ?_, ?_⟩
    · rw [hu]
      unfold State.shedDue
      dsimp only
      split
      · next hmax => exact (if_pos hmax).symm
      · next hless => exact (if_neg hless).symm
    · rw [hu]
      exact tget_tset_same 0 _ 0 _
  · intro may
    obtain ⟨hmem, helig, hmin⟩ := State.select_spec h
    have hmay (x : Desc) : s.dduEligible k x = true ↔ may x := s.dduEligible_iff k x
    exact ⟨hmem, (hmay d).mp helig, fun hlow x hx hxm => hmin (fun y hy hym => hlow y hy ((hmay y).mp hym)) x hx ((hmay x).mpr hxm)⟩
  · obtain ⟨hdesc, hcls, hnow, hmin⟩ := State.shedNext_spec h
    exact ⟨hdesc, hcls, hnow, hmin, s.shed cls, rfl, State.shed_frees h⟩
  · intro dflt w fl
    have hown := State.dolNext_lane h
    have hword : s.dolWord r = (w, fl) := by
      have hw := s.dolWord_eq r
      rwa [hown] at hw
    have hexec : exec (.decisionRelease lane phase) s = .next (s.dolRelease lane phase) := by
      refine congrArg Host.Outcome.next ((if_pos ⟨hlane, hphase⟩).trans ?_)
      unfold State.dolReleases State.tblErr
      rw [htbl]
      rfl
    have hrecs (x : DRec) : x ∈ s.dol.recs.filter (fun x => !(x.isFor lane r.stamp)) ↔ x ∈ s.dol.recs ∧ (x.lane ≠ lane ∨ x.stamp ≠ r.stamp) := by
      rw [List.mem_filter, DRec.isFor, Bool.not_eq_true', Bool.and_eq_false_iff, decide_eq_false_iff_not, decide_eq_false_iff_not]
    cases hready : s.glb.rLanes.testBit lane with
    | false =>
      obtain ⟨_, _, _, hu⟩ := State.dolRelease_lost (phase := phase) h hready
      refine ⟨_, hexec, ?_, fun _ => ?_, fun hready' => Bool.noConfusion hready'⟩
      · rw [hu]
        exact hrecs
      · rw [hu]
        exact ⟨rfl, tget_tset_same 0 _ 5 _⟩
    | true =>
      obtain ⟨lastEnd, cnt, hcnt, _, _, _, hu⟩ := State.dolRelease_sends (phase := phase) h hready
      obtain ⟨hstart, hfirst⟩ := s.dolStart_phase lane hphase
      refine ⟨_, hexec, ?_, fun hready' => Bool.noConfusion hready', fun _ => ⟨s.dolStart lane phase, ?_, ?_, hstart, hfirst⟩⟩
      · rw [hu]
        exact hrecs
      · rw [hu, hword]
      · rw [hu]
        exact hcnt

end Sys2Proof.Machine
end

section
/-!
PROOFS. Three obligations fail on the words that they promise in memory: they say "for every state", and a state whose L2 set lists one line in
two ways is in none of their hypotheses. The write of an agent removes a line from its first way only. Where the agent's class may not allocate in
the system cache, the data then goes to the home of the line alone, and the copy that stays keeps the old value.
-/

namespace Sys2Proof.Machine

open Sys2Proof Sys2Proof.Safety

/-! ### A memory whose line cannot be written by an agent of class 0 -/

/-- A memory with the words `ws`, whose line `l` is shared in two ways of one L2 set. Class 0 has no way of the system cache. -/
def heldTwice (l : Nat) (ws : Tbl MWord) : Mem where
  mem := ws
  l2 := [(l2Key 0 l, [(0, some ⟨l, .s, 0⟩), (1, some ⟨l, .s, 0⟩)])]
  scWays := [(0, 0)]
  pop := 1024

theorem heldTwice_not_poisoned (l : Nat) (ws : Tbl MWord) (x : Nat) : (heldTwice l ws).poisoned x = false := rfl

theorem heldTwice_home_good (l : Nat) (ws : Tbl MWord) (x : Nat) : ((heldTwice l ws).home x).bad = false :=
  (apply_ite Home.bad ..).trans (ite_self _)

/-- The lines above the error ring are plain in such a memory. -/
theorem plainLines_heldTwice {s : State} {l : Nat} {ws : Tbl MWord} {lo hi : Nat} (hmem : s.mem = heldTwice l ws) (hhi : hi ≤ 1024)
    (hlo : s.lk.rasLine + 2 ^ s.lk.rasSize ≤ lo) : PlainLines s lo hi := by
  unfold PlainLines State.popLines
  rw [hmem]
  refine ⟨rfl, rfl, hhi, fun x hx _ => ⟨heldTwice_not_poisoned l ws x, heldTwice_home_good l ws x, ?_⟩⟩
  have hline : 48 * x / 48 = x := Nat.mul_div_cancel_left x (by decide)
  refine Bool.and_eq_false_iff.mpr (.inr (decide_eq_false ?_))
  omega

/-- Channel 0 draws no random number for its row hammer mitigation, so that an access of DRAM evaluates. -/
def quietChannel : Tbl DmcLk := [(0, { rhEn := false })]

/-! ### Mailboxes -/

/-- A MAILBOX carriage of tenant 0 with one octet of data. -/
def oneOctetMail : Carriage where
  id := 1
  tenant := 0
  origin := .ring 0
  cq := some 0
  header := [0x02, 0, 1, 0, 1, 0] ++ List.replicate 58 0
  payload := List.replicate 64 0

/-- The mailbox of tenant 0 has two slots from line 60 on, both free, and its entry, line 50, is held twice. -/
def mailboxHeldTwice : State := { State.reset with
  lk := { mbEn := true, mbLine := 50, dmc := quietChannel }
  mem := heldTwice 50 [(600, ⟨60, false⟩), (601, ⟨1, false⟩)]
  rng := { ready := [(0, [oneOctetMail])] } }

/-- The delivery leaves PROD as it was. -/
theorem mailboxHeldTwice_delivery : ∃ u, exec (.mailbox 0) mailboxHeldTwice = .next u ∧ u.mem.word 602 = ⟨0, false⟩ :=
  ⟨_, rfl, by decide +kernel⟩

/-- Refutes O40: in `mailboxHeldTwice` PROD should become 1, and stays 0. -/
theorem not_mailboxDelivery : ¬ Obligations.MailboxDelivery := by
  unfold Obligations.MailboxDelivery
  intro h
  have hplain {lo hi : Nat} (hhi : hi ≤ 1024) (hlo : 16 ≤ lo) : PlainLines mailboxHeldTwice lo hi := plainLines_heldTwice rfl hhi hlo
  obtain ⟨-, hfree⟩ := h mailboxHeldTwice 0 oneOctetMail rfl (by decide) (by decide) (by decide) rfl (hplain (by decide) (by decide))
    (by decide) (by decide) (by decide)
  obtain ⟨u, hu, -, -, -, hprod⟩ := hfree (by decide) (hplain (by decide) (by decide)) (by decide)
  obtain ⟨v, hv, hstays⟩ := mailboxHeldTwice_delivery
  obtain rfl : u = v := Host.Outcome.next.inj (hu.symm.trans hv)
  exact absurd (hprod.symm.trans hstays) (by decide)

/-! ### Coaches -/

/-- A cart of source 0 for profile 0 and event word 0, with one octet of data. -/
def oneOctetCart : Carriage where
  id := 1
  tenant := 0
  origin := .ring 0
  cq := some 0
  header := [0x01, 0, 1, 0, 1, 0] ++ List.replicate 58 0
  payload := List.replicate 64 0

/-- The entry of the event of `oneOctetCart`, which no cart has reached yet. -/
def emptyEntry : Entry where
  st := .assembling
  profile := 0
  key := 0
  id := 1
  owner := 0
  cls := 0
  pool := 0
  slot := 0
  h4 := false
  stamp := ⟨0, 0⟩
  adl := ⟨⟨2, 0⟩, 0⟩
  ddl := ⟨3, 0⟩
  expected := 2
  arrived := 0
  bitmap := 0
  used := 0
  oversize := false
  first := 0
  lane := none
  ended := none

/-- Bank 0 is to take `oneOctetCart` for `emptyEntry`, whose coach starts at line 100; the line of its first words, 101, is held twice. -/
def coachHeldTwice : State := { State.reset with
  lk := { dmc := quietChannel }
  mem := heldTwice 101 []
  rng := { staging := [(0, [oneOctetCart])] }
  eau := {
    pools := [(0, { owned := true, rec_ := ⟨true, 100, 4, 2, 0⟩ })]
    profs := [(0, { owned := true, rec_ := { en := true, nsrc := 2, asmdl := 5, dispdl := 9, mask := [3] } })]
    table := [(wayKey 0 (eauSet 0 0) 0, some emptyEntry)] } }

/-- The first head word of the cart does not reach its coach. -/
theorem coachHeldTwice_append : ∃ u, exec (.fragment 0) coachHeldTwice = .next u ∧ u.mem.word 1212 = ⟨0, false⟩ :=
  ⟨_, rfl, by decide +kernel⟩

/-- Refutes O42: in `coachHeldTwice` word 1212 should become the head word with the length of the cart, and stays 0. -/
theorem not_cartsMakeEvents : ¬ Obligations.CartsMakeEvents := by
  unfold Obligations.CartsMakeEvents
  rintro ⟨happend, -⟩
  obtain ⟨u, hu, -, -, -, hwords⟩ := happend coachHeldTwice 0 oneOctetCart (wayKey 0 (eauSet 0 0) 0) emptyEntry ⟨rfl, 0, rfl, rfl, rfl⟩
    (by decide +kernel) (by decide) (by decide) (by decide) (by decide +kernel) rfl rfl (by decide) (by decide) rfl (by decide) (by decide) rfl
    (plainLines_heldTwice rfl (by decide) (by decide))
  obtain ⟨v, hv, hstays⟩ := coachHeldTwice_append
  obtain rfl : u = v := Host.Outcome.next.inj (hu.symm.trans hv)
  exact absurd ((hwords 0 (by decide)).symm.trans hstays) (by decide)

/-! ### The error ring -/

/-- The error ring is enabled and empty at line 0, which is held twice. -/
def errorRingHeldTwice : State := { State.reset with
  pmu := { dev := .run }
  ras := { en := true }
  mem := heldTwice 0 [] }

theorem errorRingHeldTwice_noErrors : NoErrors errorRingHeldTwice :=
  ⟨⟨rfl, fun _ he => absurd he List.not_mem_nil⟩, rfl, rfl, heldTwice_not_poisoned 0 [], fun _ _ h => (nomatch h), fun _ _ h => (nomatch h)⟩

/-- The record of a thermal alert does not reach the ring. -/
theorem errorRingHeldTwice_alert : ∃ u, exec (.thermalAlert 100) errorRingHeldTwice = .next u ∧ u.mem.word 0 = ⟨0, false⟩ :=
  ⟨_, rfl, by decide +kernel⟩

/-- Refutes O56: in `errorRingHeldTwice` the first word of the ring should become SEQ, 1, and stays 0. -/
theorem not_errorRecords : ¬ Obligations.ErrorRecords := by
  unfold Obligations.ErrorRecords
  rintro ⟨halert, -⟩
  obtain ⟨hroom, -, -⟩ := halert errorRingHeldTwice 100 rfl rfl (by decide) rfl
  obtain ⟨u, hu, -, -, -, -, -, hwords, -⟩ := hroom rfl (by decide) (by decide) errorRingHeldTwice_noErrors
  obtain ⟨v, hv, hstays⟩ := errorRingHeldTwice_alert
  obtain rfl : u = v := Host.Outcome.next.inj (hu.symm.trans hv)
  exact absurd ((hwords 0 (by decide)).symm.trans hstays) (by decide)

end Sys2Proof.Machine
end

section
/-!
PROOFS. What the work of one context leaves of the machine outside it (R146, R174, R269, R340 to R345, R606): the rings, the functions, the
ports, the service core, the ready bits and the other contexts stay, and what was sent before stays sent.
-/

namespace Sys2Proof.Machine

open Sys2Proof Sys2Proof.Safety

/-- What no context reaches as its cluster enters EMBER: the part, the ring engine, the host functions and ports, the ready bits, the service
core. -/
def State.outer (s : State) : Hw × Rng × Tbl Fn × Tbl Port × Glb × Bsu := (s.hw, s.rng, s.fns, s.ports, s.glb, s.bsu)

/-- From `z` to `s` context `n` alone has worked. -/
def Aside (n : Nat) (z s : State) : Prop := s.outer = z.outer ∧ (∀ m, m ≠ n → s.ctx m = z.ctx m) ∧ z.outbox <+: s.outbox

theorem State.outer_of_still {s u : State} (h : u.still = s.still) : u.outer = s.outer :=
  congrArg (fun x => (x.2.1, x.2.2.2.2.2.2.2.1, x.2.2.2.2.2.2.2.2.2.2.2.1, x.2.2.2.2.2.2.2.2.2.2.2.2.1, x.2.2.2.1,
    x.2.2.2.2.2.2.2.2.2.2.2.2.2.2.1)) h

namespace Aside

variable {n : Nat} {z s : State}

theorem refl (n : Nat) (s : State) : Aside n s s := ⟨rfl, fun _ _ => rfl, List.prefix_rfl⟩

theorem served {t : State} (h : Aside n z s) (k : Served s t) : Aside n z t :=
  ⟨(State.outer_of_still k.still).trans h.1, fun m hm => (by rw [State.ctx, State.ctx, State.ctxs_of_still k.still] : t.ctx m = s.ctx m).trans (h.2.1 m hm),
    h.2.2.trans k.outbox⟩

theorem of_eq {α : Type} {x : α × State} {a : α} {t : State} (h : Aside n z x.2) (he : x = (a, t)) : Aside n z t := by
  rwa [he] at h

theorem foldl {α : Type} {f : State → α → State} {l : List α} (h : Aside n z s) (hf : ∀ t a, Aside n z t → Aside n z (f t a)) :
    Aside n z (l.foldl f s) :=
  List.foldlRecOn l f h fun t ht a _ => hf t a ht

theorem setCtx (h : Aside n z s) (c : Ctx) : Aside n z (s.setCtx n c) :=
  ⟨h.1, fun m hm => (tget_tset_other _ _ _ hm).trans (h.2.1 m hm), h.2.2⟩

theorem modCtx (h : Aside n z s) (f : Ctx → Ctx) : Aside n z (s.modCtx n f) := h.setCtx _

theorem modCore (h : Aside n z s) (k : Nat) (f : Core → Core) : Aside n z (s.modCore k f) := h

theorem draw (h : Aside n z s) (m : Nat) : Aside n z (s.draw m).2 := h

theorem raise (h : Aside n z s) (i : Nat) : Aside n z (s.raise i) := h.served (.raise s i)

theorem record (h : Aside n z s) (cls sev unit : Nat) (ctx tenant addr : Option Nat) (detail : Nat) :
    Aside n z (s.record cls sev unit ctx tenant addr detail) := h.served (.record ..)

theorem errorResponse (h : Aside n z s) (pa : Nat) : Aside n z (s.errorResponse n pa) := h.record ..

theorem onMem (h : Aside n z s) (f : Mem → Mem) : Aside n z (s.onMem f) := h.served (.onMem s f)

theorem access (h : Aside n z s) (who : Option Nat) (unit l pa : Nat) (f : Mem → Mem) : Aside n z (s.access who unit l pa f).2 :=
  h.served (.access ..)

/-! ### Translation (R340 to R345) -/

theorem fillTlb (h : Aside n z s) (size : Nat) (t : List TlbE) (e : TlbE) : Aside n z (s.fillTlb size t e).2 := by
  unfold State.fillTlb
  split
  · exact h
  · exact h.draw size

theorem tableRead (h : Aside n z s) (pa : Nat) : Aside n z (s.tableRead n pa).2 := by
  unfold State.tableRead
  split
  · exact h.record ..
  · dsimp only
    split <;> (dsimp only; exact h.access ..)

theorem walk2 (h : Aside n z s) (b q ppn2 : Nat) (fill : Bool) : Aside n z (s.walk2 n b q ppn2 fill).2 := by
  unfold State.walk2
  split
  · next he => exact (h.tableRead ..).of_eq he
  · next he =>
    have hread := (h.tableRead ..).of_eq he
    split
    · exact hread
    dsimp only
    split
    · exact hread
    · exact (hread.fillTlb ..).modCore ..

theorem walk1 (h : Aside n z s) (b : Nat) (bl : Block) (q : Nat) (fill : Bool) : Aside n z (s.walk1 n b bl q fill).2 := by
  unfold State.walk1
  dsimp only
  split
  · exact h
  split
  · next he => exact (h.tableRead ..).of_eq he
  · next he =>
    have hread := (h.tableRead ..).of_eq he
    split
    · exact hread
    split
    · exact hread
    split
    · exact hread.walk2 ..
    · exact ((hread.fillTlb ..).modCore ..).walk2 ..

theorem oldOr (h : Aside n z s) (b idx : Nat) (t : List TlbE) : Aside n z (s.oldOr n b idx t).2 := by
  unfold State.oldOr
  split
  · exact h
  · exact h.draw 2

theorem pageOf (h : Aside n z s) (b : Nat) (bl : Block) (q : Nat) : Aside n z (s.pageOf n b bl q).2 := by
  unfold State.pageOf
  dsimp only
  split
  · exact h
  split
  · next he => exact (h.oldOr ..).of_eq he
  · next he =>
    have hold := (h.oldOr ..).of_eq he
    split
    · exact hold.walk2 ..
    split
    · next hw => exact ((hold.oldOr ..).of_eq hw).walk2 ..
    · next hw => exact ((hold.oldOr ..).of_eq hw).walk1 ..

theorem physOf (h : Aside n z s) (b : Nat) (bl : Block) (a : Nat) : Aside n z (s.physOf n b bl a).2 := by
  unfold State.physOf
  split
  · dsimp only
    split <;> next he => exact (h.pageOf ..).of_eq he
  · exact h

theorem ownerStep (h : Aside n z s) (k : Cap) (q : Part1) : Aside n z (s.ownerStep n k q).2 := by
  unfold State.ownerStep
  split
  · exact h
  · exact h.physOf ..

/-! ### Merging buffers (R214, R215, R360, R361) -/

theorem drainList (h : Aside n z s) (k : Nat) (es : List MEntry) : Aside n z (s.drainList k es).2 := by
  refine List.foldlRecOn es _ (motive := fun r : List Nat × State => Aside n z r.2) h fun r hr e _ => ?_
  split
  · exact hr
  split
  · exact hr
  · dsimp only
    exact hr.onMem _

theorem drainSome (h : Aside n z s) (k : Nat) (es rest : List MEntry) : Aside n z (s.drainSome k es rest) := h.drainList k es

theorem showLine (h : Aside n z s) (l : Nat) : Aside n z (s.showLine n l) := by
  refine h.foldl fun t e ht => ?_
  dsimp only
  split
  · exact ht.draw 2
  · exact (ht.draw 2).drainSome ..

theorem bufferStore_alloc (h : Aside n z s) (line off : Nat) (bs : List Byte) (capW : List Nat) (va : Word) (stream : Bool)
    (frame : Option (Nat × Word)) (k : Nat) : Aside n z (State.bufferStore.alloc n line off bs capW va stream frame s k) := by
  unfold State.bufferStore.alloc
  dsimp only
  refine modCore ?_ k _
  split
  · exact h.drainSome ..
  · exact h

theorem bufferStore (h : Aside n z s) (line off : Nat) (bs : List Byte) (capW : List Nat) (va : Word) (stream : Bool)
    (frame : Option (Nat × Word)) : Aside n z (s.bufferStore n line off bs capW va stream frame) := by
  unfold State.bufferStore
  dsimp only
  split
  · split
    · exact h
    · exact h.bufferStore_alloc ..
  · exact h.bufferStore_alloc ..

/-! ### Loads and stores of block instructions (R174, R241): register space answers them with an error -/

theorem readPart (h : Aside n z s) (q : Part1) (pa : Nat) (second : Bool) : Aside n z (s.readPart n q pa second).2 := by
  unfold State.readPart
  split
  · exact h.errorResponse ..
  dsimp only
  generalize hs0 : (if second then s.showLine n (pa / 48) else s) = s0
  have hshown : Aside n z s0 := by
    rw [← hs0]
    split
    · exact h.showLine ..
    · exact h
  split
  · exact hshown
  generalize hr : (if s0.forwarded n pa q.len then _ else _ : Option Nat × State) = r
  have hread : Aside n z r.2 := by
    rw [← hr]
    split
    · dsimp only
      exact hshown.onMem _
    · exact hshown.access ..
  split <;> exact hread

theorem loadPart (h : Aside n z s) (k : Cap) (q : Part1) (second : Bool) : Aside n z (s.loadPart n k q second).2 := by
  unfold State.loadPart
  split
  · next he => exact (h.ownerStep ..).of_eq he
  · next he =>
    have howner := (h.ownerStep ..).of_eq he
    split <;> next hr => exact (howner.readPart ..).of_eq hr

theorem deviceLoad (h : Aside n z s) (k : Cap) (q : Part1) : Aside n z (s.deviceLoad n k q false).2 := by
  unfold State.deviceLoad
  split
  · next he => exact (h.ownerStep ..).of_eq he
  · next he =>
    have hready : Aside n z (State.deviceReady _ n) := ((h.ownerStep ..).of_eq he).drainSome ..
    dsimp only
    split
    · exact hready
    · simp only [Bool.false_eq_true, false_and, if_false]
      exact hready.errorResponse ..

theorem load (h : Aside n z s) (k : Cap) (perms : List Nat) (ea size align : Nat) :
    Aside n z (s.load n k perms ea size align false).2 := by
  unfold State.load
  split
  · exact h
  split
  · exact h
  · split
    · exact h.deviceLoad ..
    · split <;> next he => exact (h.loadPart ..).of_eq he
  · split
    · next he => exact (h.loadPart ..).of_eq he
    · next he => split <;> next hq => exact (((h.loadPart ..).of_eq he).loadPart ..).of_eq hq
  · exact h

theorem storePart (h : Aside n z s) (k : Cap) (ea : Nat) (q : Part1) (bs : List Byte) (capW : Bool) :
    Aside n z (s.storePart n k ea q bs capW).2 := by
  unfold State.storePart
  split
  · next he => exact (h.ownerStep ..).of_eq he
  · next he =>
    have howner := (h.ownerStep ..).of_eq he
    split
    · exact howner.errorResponse ..
    · exact howner.bufferStore ..

theorem deviceStore (h : Aside n z s) (k : Cap) (q : Part1) (bs : List Byte) : Aside n z (s.deviceStore n k q bs false).2 := by
  unfold State.deviceStore
  split
  · next he => exact (h.ownerStep ..).of_eq he
  · next he =>
    have hready : Aside n z (State.deviceReady _ n) := ((h.ownerStep ..).of_eq he).drainSome ..
    dsimp only
    split
    · exact hready
    · simp only [Bool.false_eq_true, false_and, if_false]
      exact hready.errorResponse ..

theorem store (h : Aside n z s) (k : Cap) (perms : List Nat) (ea align : Nat) (bs : List Byte) (capW : Bool) :
    Aside n z (s.store n k perms ea align bs capW false).2 := by
  unfold State.store
  split
  · exact h
  split
  · exact h
  · split
    · exact h.deviceStore ..
    · split <;> next he => exact (h.storePart ..).of_eq he
  · split
    · next he => exact (h.storePart ..).of_eq he
    · next he => split <;> next hq => exact (((h.storePart ..).of_eq he).storePart ..).of_eq hq
  · exact h

/-! ### Long operations (R146, R174, R279) -/

theorem blkStep (h : Aside n z s) (k : Cap) (kd : BlkKind) (q : BlkProg) : Aside n z (s.blkStep n k kd q).2 := by
  cases kd with
  | move =>
    unfold State.blkStep
    dsimp only
    split
    · next he => exact (h.load ..).of_eq he
    · next he => split <;> next hs => exact (((h.load ..).of_eq he).store ..).of_eq hs
  | fill =>
    unfold State.blkStep
    dsimp only
    split <;> next he => exact (h.store ..).of_eq he
  | match_ =>
    unfold State.blkStep
    dsimp only
    split
    · next he => exact (h.load ..).of_eq he
    · next he => split <;> exact (h.load ..).of_eq he

theorem blkRun (h : Aside n z s) (k : Cap) (kd : BlkKind) (m : Nat) (q : BlkProg) : Aside n z (s.blkRun n k kd m q).2.2 := by
  induction m generalizing s q with
  | zero => exact h
  | succ m ih =>
    unfold State.blkRun
    split
    · exact h
    split
    · next he => exact (h.blkStep ..).of_eq he
    · next he => exact ih ((h.blkStep ..).of_eq he) _

theorem vendorMicro (h : Aside n z s) (kd : BlkKind) : Aside n z (s.vendorMicro n kd).2 := by
  unfold State.vendorMicro
  dsimp only
  generalize hr : (List.range 8).foldl (fun (e : List Word × State) _ => (e.1 ++ [word (e.2.draw (2 ^ 36)).1], (e.2.draw (2 ^ 36)).2)) ([], s) = r
  have hdrawn : Aside n z r.2 := by
    rw [← hr]
    exact List.foldlRecOn _ _ (motive := fun e : List Word × State => Aside n z e.2) h fun e he _ _ => he.draw (2 ^ 36)
  split
  · exact hdrawn
  split
  · exact hdrawn
  · dsimp only
    exact hdrawn.draw _

theorem blkGo (h : Aside n z s) (addr : Word) (kd : BlkKind) (o : BlkOp) (m : Nat) : Aside n z (s.blkGo n addr kd o m).2 := by
  unfold State.blkGo
  dsimp only
  split
  · exact h
  have hrun := h.blkRun ((s.ctx n).kget o.auth) kd (min m (((s.ctx n).gget o.c).toNat / blkUnit kd))
    ⟨(s.ctx n).gget o.a, (s.ctx n).gget o.b, (s.ctx n).gget o.c, false⟩
  generalize s.blkRun n ((s.ctx n).kget o.auth) kd (min m (((s.ctx n).gget o.c).toNat / blkUnit kd))
    ⟨(s.ctx n).gget o.a, (s.ctx n).gget o.b, (s.ctx n).gget o.c, false⟩ = r at hrun ⊢
  split
  · exact (hrun.modCtx _).vendorMicro kd
  · split
    · exact (hrun.modCtx _).modCtx _
    · exact hrun.modCtx _

theorem runLong (h : Aside n z s) (op : LongOp) : Aside n z (s.runLong n op).2 := by
  unfold State.runLong
  dsimp only
  split
  · exact h.setCtx ..
  · split
    · exact h
    · exact h.setCtx ..
  · split
    · exact h
    · exact h.setCtx ..
  · split
    · exact h.setCtx ..
    · split <;> exact h.setCtx ..
  · exact h.blkGo ..

theorem finishHead (h : Aside n z s) (next : Word) : Aside n z (s.finishHead n next).2 := by
  unfold State.finishHead
  split
  · exact h
  · dsimp only
    split <;> next he => exact (((h.modCtx _).runLong _).of_eq he).modCtx _

theorem settleAll (h : Aside n z s) (next : Word) : Aside n z (s.settleAll n next).2 := by
  unfold State.settleAll
  split
  · next he => exact (h.finishHead ..).of_eq he
  · next he => exact ((h.finishHead ..).of_eq he).finishHead ..

/-! ### Exceptions and their frames (R255, R269, R288) -/

theorem setSrc (h : Aside n z s) (i : Nat) (e : Src_) : Aside n z (s.setSrc i e) := by
  unfold State.setSrc
  split <;> exact h

theorem icu (h : Aside n z s) (x : Icu) : Aside n z { s with icu := x } := h

theorem returnHeld (h : Aside n z s) : Aside n z (s.returnHeld n) := by
  unfold State.returnHeld
  split
  · exact h
  · exact ((h.setSrc ..).icu _).modCtx _

theorem wedge (h : Aside n z s) (reason cause : Nat) (addr : Word) (eret : Bool) : Aside n z (s.wedge n reason cause addr eret) :=
  (h.returnHeld.modCtx _).raise 16

theorem frameLine (h : Aside n z s) (own : Bool) (va : Nat) : Aside n z (s.frameLine n own va).2 := by
  unfold State.frameLine
  dsimp only
  split
  · exact h
  split
  · exact h
  split
  · exact h
  split
  · next he => exact (h.physOf ..).of_eq he
  · next he =>
    have hphys := (h.physOf ..).of_eq he
    split
    · exact hphys.errorResponse ..
    · split <;> (dsimp only; exact hphys.access ..)

theorem frameLines (h : Aside n z s) (own : Bool) (l : List Nat) : Aside n z (s.frameLines n own l).2 := by
  induction l generalizing s with
  | nil => exact h
  | cons va l ih =>
    have hrest := ih (h.frameLine own va)
    unfold State.frameLines
    dsimp only
    split <;> exact hrest

theorem frameAt (h : Aside n z s) (own : Bool) (lo : Int) : Aside n z (s.frameAt n own lo).2 := by
  unfold State.frameAt
  split
  · exact h
  · exact h.frameLines ..

theorem pushFrame (h : Aside n z s) (lines : List (Nat × Bool)) (bs : List Byte) (tags : List Nat) (va : Nat) (why : Nat × Word) :
    Aside n z (s.pushFrame n lines bs tags va why) :=
  h.foldl fun _ _ ht => ht.bufferStore ..

theorem enter (h : Aside n z s) (e : Exc) : Aside n z (s.enter n e) := by
  have hbegun : Aside n z (s.entryBegins n e) := modCtx (s := s.makeEligible n) h _
  have hframe := hbegun.frameAt true (((s.ctx n).esc.cursor.toNat : Int) - 144)
  unfold State.enter
  split
  · exact h
  dsimp only
  split
  · exact hframe.wedge ..
  split
  · exact hframe.wedge ..
  · exact modCtx (s := State.wrongPath _ n) (hframe.pushFrame ..) _

theorem takeExc (h : Aside n z s) (e : Exc) : Aside n z (s.takeExc n e) := by
  unfold State.takeExc
  split <;> next he => exact ((h.settleAll ..).of_eq he).enter ..

/-! ### The stop of a cluster (R606) -/

theorem emberCtx (h : Aside n z s) : Aside n z (s.emberCtx n) := by
  have hleft : Aside n z (s.leaveWaiting n) := h
  unfold State.emberCtx
  dsimp only
  split
  · exact hleft
  split
  · split
    · exact hleft.takeExc ..
    · exact hleft
  · split
    · next he => exact ((hleft.settleAll ..).of_eq he).enter ..
    · next he => exact (hleft.settleAll ..).of_eq he

end Aside

end Sys2Proof.Machine
end

section
/-!
PROOFS. The clusters change their power state (R602, R606 to R608, R649): what a change of one cluster leaves of the others, of the host
side and of the service core, and where it leaves the cluster itself.
-/

namespace Sys2Proof.Machine

open Sys2Proof Sys2Proof.Safety

/-! ### What a change of cluster `k` leaves -/

/-- From `s` to `u` cluster `k` alone has changed: the host side and the service core stay, and the power state, the ready bit and the
contexts of every other cluster. -/
structure Elsewhere (k : Nat) (s u : State) : Prop where
  host : HostKept s u
  bsu : u.bsu = s.bsu
  job : u.pmu.job = s.pmu.job
  cloff : u.pmu.cloff = s.pmu.cloff
  power : ∀ i, i ≠ k → u.cluPower i = s.cluPower i
  ready : ∀ i, i ≠ k → u.cluReady i = s.cluReady i
  ctx : ∀ n, n / 32 ≠ k → u.ctx n = s.ctx n

theorem HostKept.of_same {s u : State} (hhw : u.hw = s.hw) (hrng : u.rng = s.rng) (hfns : u.fns = s.fns) (hports : u.ports = s.ports)
    (hout : s.outbox <+: u.outbox) : HostKept s u :=
  ⟨hhw, fun t => State.rings_of_rng hrng t, hfns, fun q => by rw [State.port, State.port, hports], hout⟩

theorem Aside.hostKept {n : Nat} {s u : State} (h : Aside n s u) : HostKept s u := by
  obtain ⟨houter, -, hout⟩ := h
  simp only [State.outer, Prod.mk.injEq] at houter
  obtain ⟨hhw, hrng, hfns, hports, -, -⟩ := houter
  exact .of_same hhw hrng hfns hports hout

theorem Aside.bsu {n : Nat} {s u : State} (h : Aside n s u) : u.bsu = s.bsu := congrArg (fun x => x.2.2.2.2.2) h.1

theorem Aside.glb {n : Nat} {s u : State} (h : Aside n s u) : u.glb = s.glb := congrArg (fun x => x.2.2.2.2.1) h.1

namespace Elsewhere

variable {k : Nat} {s t u : State}

theorem refl (k : Nat) (s : State) : Elsewhere k s s := ⟨.refl s, rfl, rfl, rfl, fun _ _ => rfl, fun _ _ => rfl, fun _ _ => rfl⟩

theorem trans (h : Elsewhere k s t) (g : Elsewhere k t u) : Elsewhere k s u where
  host := h.host.trans g.host
  bsu := g.bsu.trans h.bsu
  job := g.job.trans h.job
  cloff := g.cloff.trans h.cloff
  power i hi := (g.power i hi).trans (h.power i hi)
  ready i hi := (g.ready i hi).trans (h.ready i hi)
  ctx n hn := (g.ctx n hn).trans (h.ctx n hn)

/-- The work of a context of the cluster, when the PMU stays. -/
theorem of_aside {n : Nat} (h : Aside n s u) (hn : n / 32 = k) (hpmu : u.pmu = s.pmu) : Elsewhere k s u where
  host := h.hostKept
  bsu := h.bsu
  job := by rw [hpmu]
  cloff := by rw [hpmu]
  power i _ := State.cluPower_congr hpmu i
  ready i _ := by rw [State.cluReady, State.cluReady, h.glb]
  ctx m hm := h.2.1 m fun e => hm (e ▸ hn)

theorem of_served (h : Served s u) : Elsewhere k s u :=
  of_aside ((Aside.refl (32 * k) s).served h) (by omega) (State.pmu_of_still h.still)

end Elsewhere

theorem State.setClu_raise {s : State} {k : Nat} {p : CluPower} (h : s.cluPower k ≠ some p) : ∃ fr cdc x,
    s.setClu k p = ({ s with free := fr, pmu := x, glb := { s.glb with cdcWedged := cdc } } : State).raise 401 := by
  obtain ⟨fr, dev, clu, he⟩ := s.elapse_counters
  unfold State.setClu
  rw [if_neg h, he]
  dsimp only
  split
  · exact ⟨_, _, _, rfl⟩
  · exact ⟨_, s.glb.cdcWedged, _, rfl⟩

/-- A cluster that changes state leaves the ready bits, the contexts, the service core and the host side. -/
theorem State.setClu_leaves (s : State) (k : Nat) (p : CluPower) : HostKept s (s.setClu k p) ∧ (s.setClu k p).bsu = s.bsu ∧
    (∀ i, (s.setClu k p).cluReady i = s.cluReady i) ∧ ∀ n, (s.setClu k p).ctx n = s.ctx n := by
  by_cases h : s.cluPower k = some p
  · rw [State.setClu_same h]
    exact ⟨.refl s, rfl, fun _ => rfl, fun _ => rfl⟩
  · obtain ⟨fr, cdc, x, he⟩ := State.setClu_raise h
    have hset : HostKept s { s with free := fr, pmu := x, glb := { s.glb with cdcWedged := cdc } } :=
      .of_same rfl rfl rfl rfl List.prefix_rfl
    have hstill := State.raise_still { s with free := fr, pmu := x, glb := { s.glb with cdcWedged := cdc } } 401
    obtain ⟨hglb, -, -, -, hbsu⟩ := State.units_of_still hstill
    rw [he]
    refine ⟨hset.trans (.raise _ 401), hbsu, fun i => ?_, fun n => ?_⟩
    · rw [State.cluReady, State.cluReady, hglb]
    · rw [State.ctx, State.ctx, State.ctxs_of_still hstill]

theorem State.setClu_elsewhere (s : State) (k : Nat) (p : CluPower) : Elsewhere k s (s.setClu k p) := by
  obtain ⟨hhost, hbsu, hready, hctx⟩ := s.setClu_leaves k p
  have hpmu : (s.setClu k p).pmu.job = s.pmu.job ∧ (s.setClu k p).pmu.cloff = s.pmu.cloff := by
    by_cases h : s.cluPower k = some p
    · rw [State.setClu_same h]
      exact ⟨rfl, rfl⟩
    · obtain ⟨dev, clu, hpmu, -⟩ := State.setClu_changes h
      rw [hpmu]
      exact ⟨rfl, rfl⟩
  refine ⟨hhost, hbsu, hpmu.1, hpmu.2, fun i hi => ?_, fun i _ => hready i, fun n _ => hctx n⟩
  rw [State.setClu_cluPower, if_neg hi]

/-! ### EMBER (R606) -/

/-- What is done context by context in a cluster. -/
theorem Elsewhere.foldCtxs {k : Nat} {p : Pmu} {s : State} {f : State → Nat → State} (h : Calm p s)
    (haside : ∀ u n, Aside n u (f u n)) (hcalm : ∀ u n, Calm p u → Calm p (f u n)) :
    Calm p (s.each (ctxsOf k) f) ∧ Elsewhere k s (s.each (ctxsOf k) f) := by
  refine State.each_keeps (P := fun u => Calm p u ∧ Elsewhere k s u) ⟨h, .refl k s⟩ fun u n hn hu => ⟨hcalm u n hu.1, hu.2.trans ?_⟩
  obtain ⟨i, hi, rfl⟩ := List.mem_map.mp hn
  have hlt := List.mem_range.mp hi
  exact .of_aside (haside u _) (by omega) ((hcalm u _ hu.1).1.trans hu.1.1.symm)

theorem Calm.emberSteps_elsewhere {s : State} (h : Calm s.pmu s) (k : Nat) : Elsewhere k s (s.emberSteps k) := by
  have hctxs := Elsewhere.foldCtxs (k := k) h (fun u n => (Aside.refl n u).emberCtx) (fun _ n hu => hu.emberCtx n)
  obtain ⟨hcalm, helse⟩ : Calm s.pmu ((s.each (ctxsOf k) State.emberCtx).each (coresOf k) State.drainCore) ∧
      Elsewhere k s ((s.each (ctxsOf k) State.emberCtx).each (coresOf k) State.drainCore) :=
    State.each_keeps (P := fun u => Calm s.pmu u ∧ Elsewhere k s u) hctxs fun u j _ hu => ⟨hu.1.drainCore j,
      hu.2.trans (.of_aside ((Aside.refl (32 * k) u).drainSome ..) (by omega) ((hu.1.drainCore j).1.trans hu.1.1.symm))⟩
  rw [State.emberSteps, hcalm.stopCores]
  exact helse

/-! ### OFF (R608) -/

theorem Aside.leaveWaiting {n : Nat} {z s : State} (h : Aside n z s) (m : Nat) : Aside n z (s.leaveWaiting m) := h

theorem Aside.freeCoaches {n : Nat} {z s : State} (h : Aside n z s) : Aside n z (s.freeCoaches n) :=
  h.foldl fun t c ht => modCtx (s := t.freeSlot c.ev.pool c.ev.slot) ht _

theorem Calm.freeCoaches {p : Pmu} {s : State} (h : Calm p s) (n : Nat) : Calm p (s.freeCoaches n) :=
  h.foldl fun _ _ _ ht => ht

theorem State.icuBreak_outbox (s : State) : s.icuBreak.outbox = s.outbox ∧ s.icuBreak.cores = s.cores := by
  unfold State.icuBreak
  split <;> exact ⟨rfl, rfl⟩

theorem State.tsetRestore_outbox (s : State) (l : List (Nat × List Word × List Word)) :
    (s.tsetRestore l).outbox = s.outbox ∧ (s.tsetRestore l).cores = s.cores :=
  List.foldlRecOn l _ (motive := fun u : State => u.outbox = s.outbox ∧ u.cores = s.cores) ⟨rfl, rfl⟩ fun _ hu _ _ => hu

theorem State.dmcBreak_outbox (s : State) : s.outbox <+: s.dmcBreak.outbox ∧ s.dmcBreak.cores = s.cores := by
  unfold State.dmcBreak
  split
  · exact ⟨List.prefix_rfl, rfl⟩
  · next l _ =>
    split
    · exact ⟨List.prefix_rfl, rfl⟩
    · obtain ⟨hout, hcores⟩ := s.tsetRestore_outbox l.saved
      refine ⟨List.IsPrefix.trans ?_ (State.raise_outbox _ 339), (State.raise_cores ..).trans hcores⟩
      exact hout ▸ List.prefix_rfl

theorem State.breakOwned_outbox (s : State) (p : Nat → Bool) :
    s.outbox <+: (s.breakOwned p).outbox ∧ (s.breakOwned p).cores = s.cores := by
  have hicu : (s.breakIcu p).outbox = s.outbox ∧ (s.breakIcu p).cores = s.cores := by
    unfold State.breakIcu
    split
    · split
      · exact s.icuBreak_outbox
      · exact ⟨rfl, rfl⟩
    · exact ⟨rfl, rfl⟩
  obtain ⟨hout, hcores⟩ := hicu
  rw [State.breakOwned_eq, ← hout, ← hcores]
  split
  · split
    · exact (s.breakIcu p).dmcBreak_outbox
    · exact ⟨List.prefix_rfl, rfl⟩
  · exact ⟨List.prefix_rfl, rfl⟩

theorem tget_tkeep {α : Type} (d : α) (p : Nat → Bool) (t : Tbl α) (k : Nat) :
    tget d (tkeep p t) k = if p k then tget d t k else d := by
  induction t with
  | nil => exact (ite_self _).symm
  | cons e t ih =>
    unfold tkeep at ih ⊢
    by_cases hp : p e.1 <;> by_cases hk : k = e.1 <;> simp_all [tget]

theorem State.loadLeave_none {s : State} (h : s.bsu.job = none) (k : Nat) : s.loadLeave k = s := by
  unfold State.loadLeave
  rw [h]

/-- Where OFF leaves its cluster: without power, not ready, its contexts empty. -/
structure IsOff (k : Nat) (u : State) : Prop where
  power : u.cluPower k = some .off
  ready : u.cluReady k = false
  ctx : ∀ n, n / 32 = k → u.ctx n = {}

/-- The contexts of the cluster are emptied and its ready bit cleared: step 5 of R608. -/
def State.cluGone (s : State) (k : Nat) : State := { s with
  glb := { s.glb with rClu := putBit s.glb.rClu k false }
  ctxs := tkeep (fun n => decide (n / 32 ≠ k)) s.ctxs
  cores := tmap {} (fun i c => if i / 8 = k then c.cold else c) s.cores
  preds := tkeep (fun j => decide (j / 8 ≠ k)) s.preds }

/-- Numbers without a common bit add as they join. -/
theorem add_eq_or_of_disjoint {a b : Nat} (h : a &&& b = 0) : a + b = a ||| b := by
  have hlt : a + b < 2 ^ (a + b) := Nat.lt_two_pow_self
  have hbv := congrArg BitVec.toNat (BitVec.add_eq_or_of_and_eq_zero (BitVec.ofNat (a + b) a) (BitVec.ofNat (a + b) b)
    (by rw [← BitVec.ofNat_and, h]))
  simpa [Nat.mod_eq_of_lt hlt, Nat.mod_eq_of_lt (Nat.lt_of_le_of_lt (Nat.le_add_right a b) hlt),
    Nat.mod_eq_of_lt (Nat.lt_of_le_of_lt (Nat.le_add_left b a) hlt)] using hbv

theorem clearBits_testBit (x m j : Nat) : (clearBits x m).testBit j = (x.testBit j && !m.testBit j) := by
  have hsplit : (x ^^^ (x &&& m)) + (x &&& m) = x := by
    rw [add_eq_or_of_disjoint (Nat.eq_of_testBit_eq fun i => ?_)]
    · refine Nat.eq_of_testBit_eq fun i => ?_
      cases hx : x.testBit i <;> cases hm : m.testBit i <;> simp [hx, hm]
    · cases hx : x.testBit i <;> cases hm : m.testBit i <;> simp [hx, hm]
  rw [clearBits, Nat.sub_eq_of_eq_add hsplit.symm]
  cases hx : x.testBit j <;> cases hm : m.testBit j <;> simp [hx, hm]

theorem putBit_false_testBit (x i j : Nat) : (putBit x i false).testBit j = (x.testBit j && decide (i ≠ j)) := by
  simp [putBit, clearBits_testBit, Nat.testBit_two_pow]

theorem State.cluGone_elsewhere (s : State) (k : Nat) : Elsewhere k s (s.cluGone k) where
  host := .of_same rfl rfl rfl rfl List.prefix_rfl
  bsu := rfl
  job := rfl
  cloff := rfl
  power _ _ := rfl
  ready i hi := by simp [State.cluReady, State.cluGone, putBit_false_testBit, hi.symm]
  ctx n hn := (tget_tkeep ({} : Ctx) (fun n => decide (n / 32 ≠ k)) s.ctxs n).trans (if_pos (decide_eq_true hn))

theorem Calm.cluGone {p : Pmu} {s : State} (h : Calm p s) (k : Nat) : Calm p (s.cluGone k) := by
  refine ⟨h.1, fun e he => ?_⟩
  obtain ⟨c, hc, rfl⟩ := List.mem_map.mp (List.mem_filter.mp he).1
  dsimp only
  split
  · exact ⟨rfl, nofun⟩
  · exact h.2 c hc

theorem State.cluOff_eq (s : State) (k : Nat) : s.cluOff k =
    (((((s.cluFlush k).each (ctxsOf k) fun s n => ((s.leaveWaiting n).freeCoaches n).returnHeld n).breakOwned
      fun o => decide (o < 512) && decide (o / 32 = k)).cluGone k).each (coresOf k) State.loadLeave).setClu k .off := rfl

theorem Calm.breakOwned {p : Pmu} {s : State} (h : Calm p s) (k : Nat) (own : Nat → Bool) :
    Elsewhere k s (s.breakOwned own) ∧ Calm p (s.breakOwned own) := by
  obtain ⟨hout, hcores⟩ := s.breakOwned_outbox own
  have hstill := s.breakOwned_still own
  have hpmu := State.pmu_of_still hstill
  obtain ⟨hglb, -, -, -, hbsu⟩ := State.units_of_still hstill
  refine ⟨⟨.of_still hstill hout, hbsu, by rw [hpmu], by rw [hpmu], fun i _ => State.cluPower_congr hpmu i, fun i _ => ?_, fun n _ => ?_⟩,
    h.congr hpmu hcores⟩
  · rw [State.cluReady, State.cluReady, hglb]
  · rw [State.ctx, State.ctx, State.ctxs_of_still hstill]

/-- A cluster goes OFF while no microcode is loaded. -/
theorem Calm.cluOff {s : State} (h : Calm s.pmu s) (k : Nat) (hjob : s.bsu.job = none) :
    Elsewhere k s (s.cluOff k) ∧ Calm (s.cluOff k).pmu (s.cluOff k) ∧ IsOff k (s.cluOff k) := by
  have hflush : Elsewhere k s (s.cluFlush k) := .of_served (.onMem s _)
  have hcalmFlush : Calm s.pmu (s.cluFlush k) := h.onMem _
  obtain ⟨hcalm, hctxs⟩ := Elsewhere.foldCtxs (k := k) (f := fun s n => ((s.leaveWaiting n).freeCoaches n).returnHeld n)
    hcalmFlush (fun u n => (((Aside.refl n u).leaveWaiting n).freeCoaches).returnHeld)
    (fun u n hu => (Calm.freeCoaches (s := u.leaveWaiting n) hu n).returnHeld n)
  rw [State.cluOff_eq]
  generalize (s.cluFlush k).each (ctxsOf k) (fun s n => ((s.leaveWaiting n).freeCoaches n).returnHeld n) = t at hcalm hctxs ⊢
  generalize (fun o : Nat => decide (o < 512) && decide (o / 32 = k)) = own
  obtain ⟨hbroken, hcalmBroken⟩ := hcalm.breakOwned k own
  have hoff := hflush.trans (hctxs.trans (hbroken.trans ((t.breakOwned own).cluGone_elsewhere k)))
  have hcalmGone := hcalmBroken.cluGone k
  generalize hv : (t.breakOwned own).cluGone k = v at hoff hcalmGone ⊢
  have hsame : v.each (coresOf k) State.loadLeave = v := State.each_fixed fun j _ => State.loadLeave_none (by rw [hoff.bsu, hjob]) j
  obtain ⟨-, -, hready, hctx⟩ := v.setClu_leaves k .off
  rw [hsame]
  refine ⟨hoff.trans (v.setClu_elsewhere k .off), ⟨rfl, (v.setClu_cores k .off).symm ▸ hcalmGone.2⟩, ?_, ?_, fun n hn => ?_⟩
  · rw [State.setClu_cluPower, if_pos rfl]
  · rw [hready, ← hv]
    simp [State.cluReady, State.cluGone, putBit_false_testBit]
  · rw [hctx, ← hv]
    exact (tget_tkeep ({} : Ctx) (fun n => decide (n / 32 ≠ k)) _ n).trans (if_neg (by simp [hn]))

/-! ### The clusters that a POWER with STATE 1 names (R602, R665) -/

/-- Where such a POWER leaves a cluster that ran: in EMBER, or in OFF where CLOFF says so. -/
def Stopped (off : Bool) (k : Nat) (u : State) : Prop :=
  u.cluPower k = some (if off then .off else .ember) ∧ (off = true → (∀ n, n / 32 = k → u.ctx n = {}) ∧ u.cluReady k = false)

theorem IsOff.stopped {k : Nat} {u : State} (h : IsOff k u) : Stopped true k u := ⟨h.power, fun _ => ⟨h.ctx, h.ready⟩⟩

/-- The thermal hold of a cluster is none of what the others or its own power state are. -/
theorem Elsewhere.hold (k : Nat) (s : State) (x : Tbl (Option CluPower)) : Elsewhere k s { s with pmu := { s.pmu with hold := x } } :=
  ⟨.of_same rfl rfl rfl rfl List.prefix_rfl, rfl, rfl, rfl, fun _ _ => rfl, fun _ _ => rfl, fun _ _ => rfl⟩

theorem Calm.cluToOff {s : State} (h : Calm s.pmu s) (k : Nat) (hjob : s.bsu.job = none) :
    Elsewhere k s (s.cluToOff k) ∧ Calm (s.cluToOff k).pmu (s.cluToOff k) ∧ Stopped true k (s.cluToOff k) := by
  obtain ⟨t, ht, hcalm, hsteps⟩ : ∃ t, t = (if s.cluPower k = some .run then s.emberSteps k else s) ∧ Calm t.pmu t ∧ Elsewhere k s t := by
    split
    · exact ⟨_, rfl, ⟨rfl, (h.emberSteps k).2⟩, h.emberSteps_elsewhere k⟩
    · exact ⟨_, rfl, h, .refl k s⟩
  have hcluOff := hcalm.cluOff k (by rw [hsteps.bsu, hjob])
  have heq : s.cluToOff k = { t.cluOff k with pmu := { (t.cluOff k).pmu with hold := tset none (t.cluOff k).pmu.hold k none } } := by
    rw [State.cluToOff, ← ht]
  rw [heq]
  generalize t.cluOff k = v at hcluOff
  obtain ⟨hoff, hcold, hgone⟩ := hcluOff
  exact ⟨(hsteps.trans hoff).trans (.hold k v _), ⟨rfl, hcold.2⟩, hgone.power, fun _ => ⟨hgone.ctx, hgone.ready⟩⟩

theorem Calm.cluEmber_stopped {s : State} {k : Nat} (h : Calm s.pmu s) (hrun : s.cluPower k = some .run) :
    Elsewhere k s (s.cluEmber k) ∧ Calm (s.cluEmber k).pmu (s.cluEmber k) ∧ Stopped false k (s.cluEmber k) := by
  obtain ⟨hpmu, hcores⟩ := h.emberSteps k
  have heq : s.cluEmber k = (s.emberSteps k).setClu k .ember := by
    unfold State.cluEmber
    dsimp only
    rw [if_pos ((State.cluPower_congr hpmu k).trans hrun)]
  rw [heq]
  refine ⟨(h.emberSteps_elsewhere k).trans (State.setClu_elsewhere ..), ⟨rfl, (State.setClu_cores ..).symm ▸ hcores⟩, ?_, nofun⟩
  rw [State.setClu_cluPower, if_pos rfl]
  rfl

/-- One cluster that such a POWER names: a running one stops, and a stopped one stays so. -/
theorem Calm.emberOne {s : State} (h : Calm s.pmu s) (k : Nat) (hjob : s.bsu.job = none) :
    Elsewhere k s (s.emberOne k) ∧ Calm (s.emberOne k).pmu (s.emberOne k) ∧
      (s.cluPower k = some .run ∨ Stopped (s.pmu.cloff.testBit k) k s → Stopped (s.pmu.cloff.testBit k) k (s.emberOne k)) := by
  unfold State.emberOne
  dsimp only
  split
  · next hp =>
    cases hoff : s.pmu.cloff.testBit k with
    | true =>
      obtain ⟨helse, hcalm, hstop⟩ := h.cluToOff k hjob
      rw [if_pos rfl]
      exact ⟨helse, hcalm, fun _ => hstop⟩
    | false =>
      obtain ⟨helse, hcalm, hstop⟩ := h.cluEmber_stopped hp
      rw [if_neg Bool.false_ne_true]
      exact ⟨helse, hcalm, fun _ => hstop⟩
  · cases hoff : s.pmu.cloff.testBit k with
    | true =>
      obtain ⟨helse, hcalm, hstop⟩ := h.cluToOff k hjob
      rw [if_pos rfl]
      exact ⟨helse, hcalm, fun _ => hstop⟩
    | false =>
      rw [if_neg Bool.false_ne_true]
      next hp =>
      split
      · exact ⟨.hold k s _, ⟨rfl, h.2⟩, fun _ => ⟨hp, nofun⟩⟩
      · exact ⟨.refl k s, h, fun _ => ⟨hp, nofun⟩⟩
  · next hrun _ => exact ⟨.refl k s, h, fun hk => hk.resolve_left hrun⟩

/-- What holds of cluster `k` on the way of such a POWER: the host side and the service core are as at its start, and the cluster runs or has
stopped. -/
structure Stopping (s : State) (k : Nat) (u : State) : Prop where
  calm : Calm u.pmu u
  host : HostKept s u
  bsu : u.bsu = s.bsu
  job : u.pmu.job = s.pmu.job
  cloff : u.pmu.cloff = s.pmu.cloff
  state : u.cluPower k = some .run ∨ Stopped (s.pmu.cloff.testBit k) k u

theorem Stopped.elsewhere {off : Bool} {k a : Nat} {u v : State} (h : Stopped off k u) (he : Elsewhere a u v) (hk : k ≠ a) :
    Stopped off k v := by
  refine ⟨(he.power k hk).trans h.1, fun hoff => ⟨fun n hn => ?_, ?_⟩⟩
  · exact (he.ctx n (by rwa [hn])).trans ((h.2 hoff).1 n hn)
  · exact (he.ready k hk).trans (h.2 hoff).2

theorem Stopping.emberOne {s u : State} {k : Nat} (h : Stopping s k u) (hjob : s.bsu.job = none) (a : Nat) :
    Stopping s k (u.emberOne a) ∧ (k = a ∨ Stopped (s.pmu.cloff.testBit k) k u → Stopped (s.pmu.cloff.testBit k) k (u.emberOne a)) := by
  obtain ⟨he, hcalm, hstop⟩ := h.calm.emberOne a (by rw [h.bsu, hjob])
  rw [h.cloff] at hstop
  have hstate : (u.emberOne a).cluPower k = some .run ∨ Stopped (s.pmu.cloff.testBit k) k (u.emberOne a) := by
    by_cases hk : k = a
    · exact .inr (hk ▸ hstop (hk ▸ h.state))
    · exact h.state.imp ((he.power k hk).trans ·) (·.elsewhere he hk)
  refine ⟨⟨hcalm, h.host.trans he.host, he.bsu.trans h.bsu, he.job.trans h.job, he.cloff.trans h.cloff, hstate⟩, fun hor => ?_⟩
  by_cases hk : k = a
  · exact hk ▸ hstop (hk ▸ h.state)
  · exact (hor.resolve_left hk).elsewhere he hk

/-- A running cluster that a POWER with STATE 1 names stops, while no error waits and no microcode is loaded. -/
theorem State.emberNamed {s : State} {l : List Nat} {k : Nat} (hcalm : Calm s.pmu s) (hjob : s.bsu.job = none) (hk : k ∈ l)
    (hrun : s.cluPower k = some .run) :
    Stopping s k (s.each l State.emberOne) ∧ Stopped (s.pmu.cloff.testBit k) k (s.each l State.emberOne) := by
  have hstart : Stopping s k s := ⟨hcalm, .refl s, rfl, rfl, rfl, .inl hrun⟩
  refine ⟨State.each_keeps hstart fun u a _ hu => (hu.emberOne hjob a).1, ?_⟩
  exact State.each_reaches (I := Stopping s k) (P := fun a u => k = a → Stopped (s.pmu.cloff.testBit k) k u)
    (fun u a hu => (hu.emberOne hjob a).1) (fun u a hu hka => (hu.emberOne hjob a).2 (.inl hka))
    (fun u a q hu hq hkq => (hu.emberOne hjob a).2 (.inr (hq hkq))) hstart (.inl hk) rfl

end Sys2Proof.Machine
end

section
/-!
PROOFS. POWER (R414, R602 to R607): the clusters that STATE 0 names run, those that STATE 1 names stop, and the carriages that change nothing.
-/

namespace Sys2Proof.Machine

open Sys2Proof Sys2Proof.Safety

/-! ### What happens inside the clusters -/

/-- From `s` to `u` contexts and cores alone have changed: what `State.outer` names and the PMU stay. -/
structure Inside (s u : State) : Prop where
  outer : u.outer = s.outer
  pmu : u.pmu = s.pmu
  outbox : s.outbox <+: u.outbox

namespace Inside

theorem refl (s : State) : Inside s s := ⟨rfl, rfl, List.prefix_rfl⟩

theorem trans {s t u : State} (h : Inside s t) (g : Inside t u) : Inside s u :=
  ⟨g.outer.trans h.outer, g.pmu.trans h.pmu, h.outbox.trans g.outbox⟩

theorem of_aside {n : Nat} {s u : State} (h : Aside n s u) (hpmu : u.pmu = s.pmu) : Inside s u := ⟨h.1, hpmu, h.2.2⟩

theorem each {f : State → Nat → State} (hf : ∀ u a, Inside u (f u a)) (l : List Nat) (s : State) : Inside s (s.each l f) :=
  State.each_keeps (P := Inside s) (refl s) fun u a _ hu => hu.trans (hf u a)

variable {s u : State}

theorem hw (h : Inside s u) : u.hw = s.hw := congrArg (fun x => x.1) h.outer
theorem rng (h : Inside s u) : u.rng = s.rng := congrArg (fun x => x.2.1) h.outer
theorem fns (h : Inside s u) : u.fns = s.fns := congrArg (fun x => x.2.2.1) h.outer
theorem ports (h : Inside s u) : u.ports = s.ports := congrArg (fun x => x.2.2.2.1) h.outer
theorem glb (h : Inside s u) : u.glb = s.glb := congrArg (fun x => x.2.2.2.2.1) h.outer
theorem bsu (h : Inside s u) : u.bsu = s.bsu := congrArg (fun x => x.2.2.2.2.2) h.outer

theorem hostKept (h : Inside s u) : HostKept s u := .of_same h.hw h.rng h.fns h.ports h.outbox

end Inside

theorem Aside.clearStack {n : Nat} {z s : State} (h : Aside n z s) : Aside n z (s.clearStack n) :=
  (Aside.foldl h fun _ _ ht => ht.setSrc ..).modCtx _

theorem State.restartNow_inside (s : State) (n : Nat) : Inside s (s.restartNow n) :=
  .of_aside (((Aside.refl n s).returnHeld.clearStack.freeCoaches).modCtx _) (s.restartNow_pmu n)

theorem State.alarmEnds_inside (s : State) (n : Nat) : Inside s (s.alarmEnds n) := by
  have haside : Aside n s (s.alarmEnds n) := by
    unfold State.alarmEnds
    dsimp only
    split
    · exact .refl n s
    · split
      · exact (((Aside.refl n s).leaveWaiting n).modCtx _).modCtx _
      · exact ((Aside.refl n s).modCtx _).modCtx _
      · exact .refl n s
  exact .of_aside haside (s.alarmEnds_pmu n)

/-- What wakes in a cluster that leaves EMBER. -/
theorem State.cluRun_inside (s : State) (k : Nat) : Inside (s.setClu k .run) (s.cluRun k) := by
  have hwaiting (w : Ddu) : Inside (s.setClu k .run) { s.setClu k .run with ddu := w } := ⟨rfl, rfl, List.prefix_rfl⟩
  exact (hwaiting _).trans ((Inside.each State.restartNow_inside _ _).trans (.each State.alarmEnds_inside _ _))

theorem State.modCore_inside (s : State) (k : Nat) (f : Core → Core) : Inside s (s.modCore k f) := ⟨rfl, rfl, List.prefix_rfl⟩

theorem State.setCtx_inside (s : State) (n : Nat) (c : Ctx) : Inside s (s.setCtx n c) := ⟨rfl, rfl, List.prefix_rfl⟩

theorem State.loadCore_inside (s : State) (k : Nat) : Inside s (s.loadCore k) := by
  unfold State.loadCore
  exact s.modCore_inside k _

theorem State.releaseOne_inside (s : State) (k : Nat) : Inside s (s.releaseOne k) := by
  have hctxs : Inside s (s.each [0, 1, 2, 3] fun u i => u.setCtx (4 * k + i) (freshCtx (s.rel k).vec u.releaseBlocks)) :=
    .each (fun u i => u.setCtx_inside _ _) _ s
  unfold State.releaseOne
  exact hctxs.trans (State.modCore_inside _ k _)

theorem State.armCore_inside (s : State) (k : Nat) : Inside s (s.armCore k) := by
  unfold State.armCore
  split
  · exact .refl s
  split
  · exact s.releaseOne_inside k
  · split
    · unfold State.armStamp
      dsimp only
      split
      · exact s.modCore_inside k _
      split
      · exact s.releaseOne_inside k
      · exact s.modCore_inside k _
    · exact s.modCore_inside k _
  · exact s.modCore_inside k _
  · exact .refl s

theorem HostKept.setGlb {s u : State} (h : HostKept s u) (g : Glb) : HostKept s { u with glb := g } :=
  h.trans (.of_same rfl rfl rfl rfl List.prefix_rfl)

/-- One cluster that a POWER with STATE 0 names: a stopped one runs, one that runs goes on, and no other changes its state. -/
theorem State.runOne_runs (s : State) (a : Nat) : HostKept s (s.runOne a) ∧ (s.runOne a).bsu = s.bsu ∧
    (s.runOne a).pmu.job = s.pmu.job ∧ ∀ i, (s.runOne a).cluPower i =
      if i = a ∧ (s.cluPower a = some .ember ∨ s.cluPower a = some .off) then some .run else s.cluPower i := by
  have hset (t u : State) (ht : HostKept s t) (hbsu : t.bsu = s.bsu) (hpmu : t.pmu = s.pmu) (hu : Inside (t.setClu a .run) u) :
      HostKept s u ∧ u.bsu = s.bsu ∧ u.pmu.job = s.pmu.job ∧ ∀ i, u.cluPower i = if i = a then some .run else s.cluPower i := by
    have hclu := t.setClu_elsewhere a .run
    refine ⟨(ht.trans hclu.host).trans hu.hostKept, hu.bsu.trans (hclu.bsu.trans hbsu), ?_, fun i => ?_⟩
    · rw [hu.pmu, hclu.job, hpmu]
    · rw [State.cluPower_congr hu.pmu, State.setClu_cluPower, State.cluPower_congr hpmu]
  unfold State.runOne
  split
  · next hp =>
    obtain ⟨hhost, hbsu, hjob, hpower⟩ := hset s _ (.refl s) rfl rfl (s.cluRun_inside a)
    exact ⟨hhost, hbsu, hjob, fun i => by rw [hpower]; simp [hp]⟩
  · next hp =>
    have hloaded : Inside s (s.each (coresOf a) State.loadCore) := .each State.loadCore_inside _ s
    unfold State.cluUp
    generalize s.each (coresOf a) State.loadCore = t at hloaded ⊢
    dsimp only
    obtain ⟨hhost, hbsu, hjob, hpower⟩ := hset _ _ (hloaded.hostKept.setGlb { t.glb with rClu := putBit t.glb.rClu a true }) hloaded.bsu
      hloaded.pmu (.each State.armCore_inside (coresOf a) _)
    exact ⟨hhost, hbsu, hjob, fun i => by rw [hpower]; simp [hp]⟩
  · next hember hoff =>
    exact ⟨.refl s, rfl, rfl, fun i => by rw [if_neg (fun h => h.2.elim hember hoff)]⟩

/-- A stopped cluster that a POWER with STATE 0 names runs. -/
theorem State.runNamed {s : State} {l : List Nat} {k : Nat} (hk : k ∈ l) (hstopped : s.cluPower k = some .ember ∨ s.cluPower k = some .off) :
    HostKept s (s.each l State.runOne) ∧ (s.each l State.runOne).bsu = s.bsu ∧ (s.each l State.runOne).cluPower k = some .run := by
  let I : State → Prop := fun u => HostKept s u ∧ u.bsu = s.bsu ∧
    (u.cluPower k = some .ember ∨ u.cluPower k = some .off ∨ u.cluPower k = some .run)
  have hstart : I s := ⟨.refl s, rfl, hstopped.imp_right .inl⟩
  have hstep (u : State) (a : Nat) (hu : I u) : I (u.runOne a) := by
    obtain ⟨hhost, hbsu, hpower⟩ := hu
    obtain ⟨ghost, gbsu, -, gpower⟩ := u.runOne_runs a
    refine ⟨hhost.trans ghost, gbsu.trans hbsu, ?_⟩
    rw [gpower]
    split
    · exact .inr (.inr rfl)
    · exact hpower
  obtain ⟨hhost, hbsu, -⟩ := State.each_keeps hstart fun u a _ hu => hstep u a hu
  refine ⟨hhost, hbsu, ?_⟩
  refine State.each_reaches (I := I) (P := fun a u => k = a → u.cluPower k = some .run) hstep (fun u a hu hka => ?_)
    (fun u a q _ hq hkq => ?_) hstart (.inl hk) rfl
  · obtain ⟨-, -, hpower⟩ := hu
    subst hka
    rw [(u.runOne_runs k).2.2.2]
    split
    · rfl
    · next hnot => exact (or_assoc.mpr hpower).resolve_left fun h => hnot ⟨rfl, h⟩
  · rw [(u.runOne_runs a).2.2.2, hq hkq, ite_self]

/-! ### The start of a POWER (R602, R603) -/

theorem State.mem_maskClus {s : State} {m k : Nat} (hk : k < Config.clusters s.hw.variant) (hbit : m.testBit k = true) : k ∈ s.maskClus m :=
  List.mem_filter.mpr ⟨List.mem_range.mpr hk, hbit⟩

/-- The carriage is done: a POWER in progress is none any more. -/
def State.powerEnds (s : State) : State := { s with pmu := { s.pmu with job := none } }

theorem State.powerEnds_host (s : State) : HostKept s s.powerEnds := .of_same rfl rfl rfl rfl List.prefix_rfl

/-- A carriage that completes while no lease break waits. -/
theorem HostKept.completes {s t : State} (h : HostKept s t) (hbrk : t.bsu.brk = none) (c : Carriage) (status : Nat) (info : List Octet) :
    (t.complete c status info).breakDue = t.complete c status info ∧ Answered s (t.complete c status info) c status info :=
  ⟨State.breakDue_none (by rw [(Sends.complete t c status info).bsu, hbrk]), h.complete c status info⟩

section

variable {s : State} {j : PowerJob} {k : Nat} (hbrk : s.bsu.brk = none) (hk : k < Config.clusters s.hw.variant) (hbit : j.mask.testBit k = true)

include hbrk hk hbit

theorem State.powerStart_runs (hstate : j.state = 0) (hfree : s.runBarred j.mask = false)
    (hstopped : s.cluPower k = some .ember ∨ s.cluPower k = some .off) :
    Answered s (s.powerStart j) j.c 0 [] ∧ (s.powerStart j).cluPower k = some .run := by
  obtain ⟨hhost, hbsu, hrun⟩ := State.runNamed (s := s.powerEnds) (State.mem_maskClus hk hbit) hstopped
  have hstart : s.powerStart j = ((s.powerEnds.each (s.maskClus j.mask) State.runOne).complete j.c 0 []).breakDue := by
    unfold State.powerStart
    rw [hstate]
    exact congrArg State.breakDue (if_neg fun hbarred => Bool.false_ne_true (hfree.symm.trans hbarred))
  obtain ⟨hdue, hanswer⟩ := (s.powerEnds_host.trans hhost).completes (by rw [hbsu]; exact hbrk) j.c 0 []
  rw [hstart, hdue]
  exact ⟨hanswer, (State.cluPower_congr (Sends.complete ..).pmu k).trans hrun⟩

theorem State.powerStart_stops (hstate : j.state = 1) (hcalm : Unharmed s) (hjob : s.bsu.job = none) (hrun : s.cluPower k = some .run) :
    Answered s (s.powerStart j) j.c 0 [] ∧ (s.powerStart j).pmu.job = none ∧ Stopped (s.pmu.cloff.testBit k) k (s.powerStart j) := by
  obtain ⟨hway, hpower, hoff⟩ := State.emberNamed (s := s.powerEnds) (.of_unharmed hcalm) hjob (State.mem_maskClus hk hbit) hrun
  have hstart : s.powerStart j = ((s.powerEnds.each (s.maskClus j.mask) State.emberOne).complete j.c 0 []).breakDue := by
    unfold State.powerStart
    rw [hstate]
    rfl
  obtain ⟨hdue, hanswer⟩ := (s.powerEnds_host.trans hway.host).completes (by rw [hway.bsu]; exact hbrk) j.c 0 []
  have hsends := Sends.complete (s.powerEnds.each (s.maskClus j.mask) State.emberOne) j.c 0 []
  rw [hstart, hdue]
  refine ⟨hanswer, by rw [hsends.pmu, hway.job]; rfl, (State.cluPower_congr hsends.pmu k).trans hpower, fun h => ⟨fun n hn => ?_, ?_⟩⟩
  · rw [State.ctx, hsends.ctxs]
    exact (hoff h).1 n hn
  · rw [State.cluReady, hsends.glb]
    exact (hoff h).2

end

/-! ### The commands -/

theorem exec_power_of_serves {s : State} {c : Carriage} (h : Serves s c 0x20) : exec .power s = .next (s.svcPop.powerCarriage c) :=
  congrArg Host.Outcome.next (State.svcRow_of_serves h (by decide) _)

theorem serves_no_job {s : State} {c : Carriage} {op : Nat} (h : Serves s c op) : s.bsu.job = none := by
  have hidle := h.1
  simp only [State.svcIdle, Bool.and_eq_true, Option.isNone_iff_eq_none] at hidle
  exact hidle.1.1

theorem State.svcPop_host (s : State) : HostKept s s.svcPop := ⟨rfl, fun _ => rfl, rfl, fun _ => rfl, List.prefix_rfl⟩

/-- The job that a POWER carriage asks for. -/
def Carriage.powerJob (c : Carriage) : PowerJob := ⟨c, c.body 16 1, c.body 18 2, true, []⟩

/-- The carriage passes the checks of R602 to R605, and waits for its window unless that is there. -/
theorem State.powerCarriage_passes {s : State} {c : Carriage} (hnamed : 2 ≤ c.body 16 1 ∨ c.body 18 2 ≠ 0)
    (hkeeps : c.body 16 1 ≠ 2 ∨ s.retained ≤ 20) (hbase : c.body 17 1 ≠ 1 ∨ s.glb.rTbu = true)
    (hfree : c.body 16 1 ≠ 0 ∨ s.runBarred (c.body 18 2) = false) : s.powerCarriage c =
      if s.mayStart c.powerJob then s.powerStart c.powerJob else { s with pmu := { s.pmu with job := some c.powerJob } } := by
  unfold State.powerCarriage
  dsimp only
  rw [if_neg (by omega), if_neg (by omega), if_neg (by rintro ⟨hquiet, hnone⟩; simp [hquiet, hnone] at hbase),
    if_neg (by rintro ⟨hrun, hbarred⟩; simp [hrun, hbarred] at hfree)]
  rfl

theorem exec_powerEntryStart {s : State} {j : PowerJob} (hjob : s.pmu.job = some j) (hwait : j.waiting = true) (hmay : s.mayStart j = true) :
    exec .powerEntryStart s = .next (s.powerStart j) := by
  refine congrArg Host.Outcome.next ?_
  rw [hjob]
  exact if_pos (by rw [hwait, hmay]; rfl)

theorem exec_powerQuietTimeout {s : State} {j : PowerJob} (hjob : s.pmu.job = some j) (hwait : j.waiting = true)
    (hquiet : j.c.body 17 1 = 1) : exec .powerQuietTimeout s =
      .next (({ s with pmu := { s.pmu with job := none, wakeHeld := none } } : State).complete j.c 10 []).breakDue := by
  refine congrArg Host.Outcome.next ?_
  rw [hjob]
  exact if_pos (by simp [hwait, hquiet])

/-- A POWER that is refused, or names nothing: its record goes out, and the PMU stays. -/
theorem exec_power_refused {s : State} {c : Carriage} {status : Nat} (h : Serves s c 0x20)
    (hends : s.svcPop.powerCarriage c = s.svcPop.complete c status []) :
    ∃ u, exec .power s = .next u ∧ Answered s u c status [] ∧ u.pmu = s.pmu :=
  ⟨_, (exec_power_of_serves h).trans (congrArg _ hends), s.svcPop_host.complete c status [], (Sends.complete ..).pmu⟩

/-- Settles O49: cluster by cluster, over the list that the mask names, with what a change of one cluster leaves of the others. -/
theorem powerCarriages : Obligations.PowerCarriages := by
  refine ⟨fun s c k hserves hk hbit hbase hmay hcalm => ?_, fun s c k hjob hbrk hk hbit hwaits hmay hcalm => ?_, fun s c hserves => ?_,
    fun s j hjob hwait hquiet hbrk => ?_⟩
  · have hnamed : c.body 18 2 ≠ 0 := fun h0 => by simp [h0] at hbit
    have hbrk : s.bsu.brk = none := hserves.2.1
    have hstart (hstate : c.body 16 1 < 2) (hfree : c.body 16 1 ≠ 0 ∨ s.runBarred (c.body 18 2) = false) :
        exec .power s = .next (s.svcPop.powerStart c.powerJob) :=
      (exec_power_of_serves hserves).trans (congrArg _ ((State.powerCarriage_passes (s := s.svcPop) (.inr hnamed) (.inl (by omega)) hbase hfree).trans
        (if_pos hmay)))
    refine ⟨fun hstate hfree hstopped => ?_, fun hstate hrun => ?_⟩
    · obtain ⟨hanswer, hruns⟩ := State.powerStart_runs (s := s.svcPop) (j := c.powerJob) hbrk hk hbit hstate hfree hstopped
      exact ⟨_, hstart (by omega) (.inr hfree), s.svcPop_host.answered hanswer, hruns⟩
    · have hjob : s.bsu.job = none := serves_no_job hserves
      obtain ⟨hanswer, hdone, hstop⟩ := State.powerStart_stops (s := s.svcPop) (j := c.powerJob) hbrk hk hbit hstate hcalm hjob hrun
      exact ⟨_, hstart (by omega) (.inl (by omega)), s.svcPop_host.answered hanswer, hdone, hstop⟩
  · have hstart := exec_powerEntryStart hwaits rfl hmay
    refine ⟨fun hstate hfree hstopped => ?_, fun hstate hrun => ?_⟩
    · obtain ⟨hanswer, hruns⟩ := State.powerStart_runs (j := c.powerJob) hbrk hk hbit hstate hfree hstopped
      exact ⟨_, hstart, hanswer, hruns⟩
    · obtain ⟨hanswer, hdone, hstop⟩ := State.powerStart_stops (j := c.powerJob) hbrk hk hbit hstate hcalm hjob hrun
      exact ⟨_, hstart, hanswer, hdone, hstop⟩
  · refine ⟨fun hst hm => ?_, fun hst hmany => ?_, fun hnamed hkeeps hquiet hnone => ?_, fun hst hm hbase hbarred => ?_,
      fun hnamed hkeeps hbase hfree hmay => ?_⟩
    · refine exec_power_refused hserves ?_
      exact if_pos ⟨hst, hm⟩
    · refine exec_power_refused hserves ?_
      unfold State.powerCarriage
      dsimp only
      rw [if_neg (by omega)]
      exact if_pos ⟨hst, hmany⟩
    · refine exec_power_refused hserves ?_
      unfold State.powerCarriage
      dsimp only
      rw [if_neg (by omega), if_neg (fun h => by have := h.2; exact absurd h.1 (hkeeps.resolve_right (Nat.not_le.mpr this)))]
      exact if_pos ⟨hquiet, hnone⟩
    · refine exec_power_refused hserves ?_
      unfold State.powerCarriage
      dsimp only
      rw [if_neg (by omega), if_neg (by omega), if_neg (by rintro ⟨hquiet, hnone⟩; exact hbase.elim (· hquiet) (by simp [show s.glb.rTbu = false from hnone]))]
      exact if_pos ⟨hst, hbarred⟩
    · rw [exec_power_of_serves hserves, State.powerCarriage_passes (s := s.svcPop) hnamed hkeeps hbase hfree,
        if_neg (fun h => Bool.false_ne_true (hmay.symm.trans h) : ¬ s.svcPop.mayStart c.powerJob = true), List.drop_one]
      rfl
  · have hhost : HostKept s { s with pmu := { s.pmu with job := none, wakeHeld := none } } := .of_same rfl rfl rfl rfl List.prefix_rfl
    obtain ⟨hdue, hanswer⟩ := hhost.completes hbrk j.c 10 []
    refine ⟨_, exec_powerQuietTimeout hjob hwait hquiet, ?_⟩
    rw [hdue]
    exact ⟨hanswer, (Sends.complete ..).pmu⟩

end Sys2Proof.Machine
end

section
/-!
PROOFS. Kindling from power-on with one good image (R629, R630, R636 to R648, R653): the steps one by one, each with what it leaves for the next.
-/

namespace Sys2Proof.Machine

open Sys2Proof Sys2Proof.Safety

/-! ### The checks of the ROM and the choice of the slot (R637, R638) -/

/-- The firmware goes on: no area of the secure flash and no unit of the ROM is bad, and a vendor key that is not revoked is there. -/
structure RomGood (s : State) (k : Kindle) : Prop where
  selfTest : k.selfTest = .pass
  fusesOk : k.fusesOk = true
  flashOk : k.flashOk = true
  badAreas : k.badAreas = []
  vendor : ∃ i, i < 4 ∧ (s.bsu.fuses.vendor.getD i none).isSome = true ∧ s.bsu.fuses.revoked.testBit i = false

theorem State.romSteps_good {s : State} {k : Kindle} (h : RomGood s k) : s.romSteps k = .ok s.showFuses := by
  obtain ⟨i, hi, hsome, hvalid⟩ := h.vendor
  have hkey : ([0, 1, 2, 3].any fun i => (s.bsu.fuses.vendor.getD i none).isSome && !(s.bsu.fuses.revoked.testBit i)) = true := by
    refine List.any_eq_true.mpr ⟨i, ?_, by rw [hsome, hvalid]; rfl⟩
    simp only [List.mem_cons, List.not_mem_nil, or_false]
    omega
  unfold State.romSteps
  rw [h.selfTest]
  dsimp only
  simp only [Kin.check, h.fusesOk, h.flashOk, h.badAreas, if_true, List.contains_nil, Bool.not_false, bind, Except.bind]
  rw [if_pos hkey]

/-- What the rest of kindling keeps of what BSU has found out: the slot, the verdicts, the fuses, the minimum version and the owner
configuration. -/
def Bsu.told (x : Bsu) : Bool × Nat × Nat × Fuses × Nat × Option (List Octet) := (x.slot, x.verda, x.verdb, x.fuses, x.flash.minver, x.flash.owner)

theorem State.verdict_congr {s t : State} (hfuses : t.bsu.fuses = s.bsu.fuses) (hmin : t.bsu.flash.minver = s.bsu.flash.minver)
    (d : List Octet) : t.verdict d = s.verdict d := by
  unfold State.verdict State.ownerNeeded
  rw [hfuses, hmin]

/-- A good image in slot A alone boots. -/
theorem State.bootSteps_slotA {s : State} {k : Kindle} {da db : List Octet} {b : Boot} (hflash : k.bootFlash = some (da, db))
    (ha : s.verdict da = (7, some b)) (hb : (s.verdict db).1 ≠ 7) : ∃ x, s.bootSteps k = .ok (b, { s with bsu := x }) ∧
      x.told = (false, 7, (s.verdict db).1, s.bsu.fuses, s.bsu.flash.minver, s.bsu.flash.owner) := by
  have hslot : chooseSlot (7, some b) (s.verdict db) = .ok (false, b) := by
    unfold chooseSlot
    generalize s.verdict db = v at hb
    split <;> simp_all
  unfold State.bootSteps
  rw [hflash]
  dsimp only
  rw [ha, hslot]
  exact ⟨_, rfl, rfl⟩

/-- Without an owner configuration, in the flash or in the image, there is none, and no first key of tenant 0. -/
theorem State.storeStep_noOwner {s : State} {b : Boot} (howner : s.bsu.flash.owner = none) (hsec : b.section_ 3 = none) :
    ∃ x, (s.storeStep b).loadDevid = { s with bsu := x } ∧ x.told = (s.bsu.slot, s.bsu.verda, s.bsu.verdb,
      { s.bsu.fuses with revoked := s.bsu.fuses.revoked ||| b.revoke }, max s.bsu.flash.minver b.minset, none) := by
  unfold State.storeStep
  rw [hsec]
  dsimp only
  unfold State.firstKey
  simp only [State.showFuses, howner]
  exact ⟨_, rfl, rfl⟩

/-! ### A cluster without a good supply goes offline (R662) -/

/-- What kindling relies on besides memory, channels and host ports: the part, the ready bits, the PMU and BSU. -/
def State.spine (s : State) : Hw × Glb × Pmu × Bsu := (s.hw, s.glb, s.pmu, s.bsu)

theorem State.spine_of_still {s u : State} (h : u.still = s.still) : u.spine = s.spine := by
  have hhw : u.hw = s.hw := congrArg (fun x => x.2.1) h
  obtain ⟨hglb, -, -, -, hbsu⟩ := State.units_of_still h
  rw [State.spine, State.spine, hhw, hglb, State.pmu_of_still h, hbsu]

theorem Sends.spine {s u : State} (h : Sends s u) : u.spine = s.spine := by rw [State.spine, h.hw, h.glb, h.pmu, h.bsu, State.spine]

theorem Inside.spine {s u : State} (h : Inside s u) : u.spine = s.spine := by rw [State.spine, h.hw, h.glb, h.pmu, h.bsu, State.spine]

theorem State.eauEvent_spine (s : State) (i : Nat) : (s.eauEvent i).spine = s.spine :=
  (State.spine_of_still (State.setLine_still _ _ _) : (s.eauEvent i).spine = ({ s with eau := _ } : State).spine)

theorem State.leaseBreak_spine (s : State) (kind index : Nat) : (s.leaseBreak kind index).spine = s.spine := by
  unfold State.leaseBreak
  split
  · exact State.spine_of_still s.icuBreak_still
  · unfold State.ringBreak
    dsimp only
    split <;> rfl
  · unfold State.profBreak
    dsimp only
    split
    · rfl
    · exact (Sends.complete ..).spine.trans (State.eauEvent_spine ..)
  · unfold State.poolBreak
    dsimp only
    split
    · rfl
    · exact (Sends.complete ..).spine.trans (State.eauEvent_spine ..)
  · exact State.spine_of_still s.dmcBreak_still
  · unfold State.frzLapse
    split <;> rfl
  · rfl

/-- From `s` to `u` cluster `k` alone has changed its power, and BSU keeps what it has found out. -/
structure ToldApart (k : Nat) (s u : State) : Prop where
  hw : u.hw = s.hw
  told : u.bsu.told = s.bsu.told
  power : ∀ i, i ≠ k → u.cluPower i = s.cluPower i
  ready : ∀ i, i ≠ k → u.cluReady i = s.cluReady i

namespace ToldApart

variable {k : Nat} {s t u : State}

theorem refl (k : Nat) (s : State) : ToldApart k s s := ⟨rfl, rfl, fun _ _ => rfl, fun _ _ => rfl⟩

theorem trans (h : ToldApart k s t) (g : ToldApart k t u) : ToldApart k s u :=
  ⟨g.hw.trans h.hw, g.told.trans h.told, fun i hi => (g.power i hi).trans (h.power i hi), fun i hi => (g.ready i hi).trans (h.ready i hi)⟩

theorem of_spine (h : u.spine = s.spine) : ToldApart k s u := by
  simp only [State.spine, Prod.mk.injEq] at h
  obtain ⟨hhw, hglb, hpmu, hbsu⟩ := h
  exact ⟨hhw, by rw [hbsu], fun i _ => State.cluPower_congr hpmu i, fun i _ => by rw [State.cluReady, State.cluReady, hglb]⟩

/-- BSU changes nothing that it has found out. -/
theorem bsu {x : Bsu} (h : x.told = s.bsu.told) : ToldApart k s { s with bsu := x } := ⟨rfl, h, fun _ _ => rfl, fun _ _ => rfl⟩

theorem each {f : State → Nat → State} (hf : ∀ u a, ToldApart k u (f u a)) (l : List Nat) (s : State) : ToldApart k s (s.each l f) :=
  State.each_keeps (P := ToldApart k s) (refl k s) fun u a _ hu => hu.trans (hf u a)

theorem breakDue (s : State) : ToldApart k s s.breakDue := by
  unfold State.breakDue
  split
  · split
    · exact .trans (t := { s with bsu := { s.bsu with brk := none } }) (.bsu rfl) (.of_spine (State.leaseBreak_spine ..))
    · exact .refl k s
  · exact .refl k s

theorem loadLeave (s : State) (j : Nat) : ToldApart k s (s.loadLeave j) := by
  have hfinish (s : State) : ToldApart k s s.loadFinish := by
    unfold State.loadFinish
    split
    · exact .refl k s
    · split
      · exact .refl k s
      · refine (ToldApart.bsu ?_).trans ((ToldApart.of_spine (Sends.complete ..).spine).trans (.breakDue _))
        split <;> rfl
  unfold State.loadLeave
  split
  · exact .refl k s
  · next b _ => exact .trans (t := { s with bsu := { s.bsu with job := some { b with left := b.left.filter (· ≠ j) } } }) (.bsu rfl) (hfinish _)

end ToldApart

theorem State.cluOffline_apart (s : State) (k : Nat) : ToldApart k s (s.cluOffline k) := by
  have hstacks (u : State) (n : Nat) : ToldApart k u ((u.returnHeld n).clearStack n) :=
    .of_spine (Inside.of_aside (Aside.refl n u).returnHeld.clearStack ((State.clearStack_pmu ..).trans (u.returnHeld_pmu n))).spine
  have hcoaches (u : State) (n : Nat) : ToldApart k u (((u.leaveWaiting n).freeCoaches n).returnHeld n) :=
    .of_spine (Inside.of_aside (((Aside.refl n u).leaveWaiting n).freeCoaches).returnHeld
      ((State.returnHeld_pmu ..).trans ((State.freeCoaches_pmu ..).trans rfl))).spine
  have hoff (u : State) : ToldApart k u (u.cluOff k) := by
    have hflush : ToldApart k u (u.cluFlush k) := .of_spine (State.spine_of_still (State.onMem_still ..))
    have hown (v : State) (own : Nat → Bool) : ToldApart k v (v.breakOwned own) := .of_spine (State.spine_of_still (v.breakOwned_still own))
    have hgone (v : State) : ToldApart k v (v.cluGone k) :=
      ⟨rfl, rfl, fun _ _ => rfl, fun i hi => by simp [State.cluReady, State.cluGone, putBit_false_testBit, hi.symm]⟩
    have hset (v : State) : ToldApart k v (v.setClu k .off) := by
      obtain ⟨hhost, hbsu, hready, -⟩ := v.setClu_leaves k .off
      exact ⟨hhost.hw, by rw [hbsu], fun i hi => by rw [State.setClu_cluPower, if_neg hi], fun i _ => hready i⟩
    rw [State.cluOff_eq]
    exact (((((hflush.trans (.each hcoaches _ _)).trans (hown ..)).trans (hgone _)).trans (.each ToldApart.loadLeave _ _)).trans (hset _))
  have hmarked (u : State) (x : Ras) (y : Tbl (Option CluPower)) : ToldApart k u { u with ras := x, pmu := { u.pmu with hold := y } } :=
    ⟨rfl, rfl, fun _ _ => rfl, fun _ _ => rfl⟩
  have hlost := (ToldApart.each hstacks (ctxsOf k) s).trans (hoff _)
  unfold State.cluOffline
  dsimp only
  generalize State.cluOff _ k = u at hlost ⊢
  exact hlost.trans ((hmarked u _ _).trans (.of_spine (State.spine_of_still (State.record_still ..))))

/-! ### Step 7: the clusters (R406, R662) -/

/-- Cluster 0 runs and is ready. -/
def ZeroUp (u : State) : Prop := u.cluPower 0 = some .run ∧ u.cluReady 0 = true

/-- A cluster with a good supply is powered. -/
theorem State.cluStep_powers (s : State) (a : Nat) : ToldApart a s (s.cluStep a true) ∧ (s.cluStep a true).cluPower a = some .run ∧
    (s.cluStep a true).cluReady a = true := by
  have hloaded : ToldApart a s (s.each (coresOf a) State.loadCore) := .of_spine (Inside.each State.loadCore_inside _ s).spine
  unfold State.cluStep
  rw [if_pos rfl]
  generalize s.each (coresOf a) State.loadCore = t at hloaded ⊢
  dsimp only
  refine ⟨hloaded.trans ⟨rfl, rfl, fun i hi => ?_, fun i hi => ?_⟩, ?_, ?_⟩
  · simp only [State.cluPower, tget_tset_other _ _ _ hi]
  · simp [State.cluReady, putBit_testBit, hi.symm]
  · simp only [State.cluPower, tget_tset_same]
  · simp [State.cluReady, putBit_testBit]

theorem State.cluStep_apart (s : State) (a : Nat) (ok : Bool) : ToldApart a s (s.cluStep a ok) := by
  cases ok with
  | true => exact (s.cluStep_powers a).1
  | false =>
    unfold State.cluStep
    rw [if_neg Bool.false_ne_true]
    exact s.cluOffline_apart a

theorem State.clusStep_zero {s : State} {k : Kindle} (hpresent : s.cluPresent 0 = true) (havs : k.avsAck = true) (hbad : 0 ∉ k.clusterBad) :
    (s.clusStep k).hw = s.hw ∧ (s.clusStep k).bsu.told = s.bsu.told ∧ ZeroUp (s.clusStep k) := by
  let ok : Nat → Bool := fun c => k.avsAck && !(k.clusterBad.contains c)
  let I : State → Prop := fun u => u.hw = s.hw ∧ u.bsu.told = s.bsu.told
  have hok : ok 0 = true := by simp [ok, havs, hbad]
  have hstep (u : State) (a : Nat) (hu : I u) : I (u.cluStep a (ok a)) :=
    ⟨(u.cluStep_apart a _).hw.trans hu.1, (u.cluStep_apart a _).told.trans hu.2⟩
  have hset (u : State) (a : Nat) (ha : a = 0) : ZeroUp (u.cluStep a (ok a)) := by
    rw [ha, hok]
    exact (u.cluStep_powers 0).2
  have hkeep (u : State) (a : Nat) (hu : ZeroUp u) : ZeroUp (u.cluStep a (ok a)) := by
    by_cases ha : a = 0
    · exact hset u a ha
    · obtain ⟨-, -, hpower, hready⟩ := u.cluStep_apart a (ok a)
      exact ⟨(hpower 0 (Ne.symm ha)).trans hu.1, (hready 0 (Ne.symm ha)).trans hu.2⟩
  have hmem : 0 ∈ (List.range (Config.clusters s.hw.variant)).filter (fun c => s.cluPresent c) := by
    have hlt : 0 < Config.clusters s.hw.variant := by
      rw [State.cluPresent, Bool.and_eq_true] at hpresent
      exact of_decide_eq_true hpresent.1
    exact List.mem_filter.mpr ⟨List.mem_range.mpr hlt, hpresent⟩
  unfold State.clusStep
  dsimp only
  generalize hs0 : ({ s with pmu := { s.pmu with clus := _ } } : State) = s0
  have hstart : I s0 := hs0 ▸ ⟨rfl, rfl⟩
  obtain ⟨hhw, htold⟩ := State.each_keeps hstart fun u a (_ : a ∈ (List.range (Config.clusters s.hw.variant)).filter fun c => s.cluPresent c) hu =>
    hstep u a hu
  exact ⟨hhw, htold, State.each_reaches (I := I) (P := fun a u => a = 0 → ZeroUp u) hstep (fun u a _ ha => hset u a ha)
    (fun u a q _ hq hq0 => hkeep u a (hq hq0)) hstart (.inl hmem) rfl⟩

/-! ### Steps 8 to 10: DRAM, the root table, the units (R251, R644, R688) -/

theorem packBits_testBit (n : Nat) (p : Nat → Bool) (i : Nat) : (packBits n p).testBit i = (decide (i < n) && p i) := by
  have hall : packBits n p < 2 ^ n ∧ ∀ i, (packBits n p).testBit i = (decide (i < n) && p i) := by
    induction n with
    | zero => exact ⟨Nat.one_pos, fun i => by simp [packBits]⟩
    | succ n ih =>
      obtain ⟨hlt, hbits⟩ := ih
      have hsucc : packBits (n + 1) p = 2 ^ n * b2n (p n) + packBits n p := by
        simp only [packBits, List.range_succ, List.foldl_append, List.foldl_cons, List.foldl_nil]
        rw [Nat.add_comm, Nat.mul_comm]
      rw [hsucc]
      refine ⟨?_, fun i => ?_⟩
      · have hbit : b2n (p n) ≤ 1 := by cases p n <;> decide
        have hterm := Nat.mul_le_mul_left (2 ^ n) hbit
        omega
      · rw [Nat.testBit_two_pow_mul_add _ hlt, hbits]
        rcases Nat.lt_trichotomy i n with hi | rfl | hi
        · simp [hi, Nat.lt_succ_of_lt hi]
        · cases p i <;> simp [b2n]
        · have hzero : (b2n (p n)).testBit (i - n) = false :=
            Nat.testBit_lt_two_pow (Nat.lt_of_lt_of_le (by cases p n <;> decide : b2n (p n) < 2 ^ 1) (Nat.pow_le_pow_right (by decide) (by omega)))
          rw [if_neg (by omega), hzero, decide_eq_false (by omega), Bool.false_and]
  exact hall.2 i

theorem channels_le (v : Config.Variant) : Config.channels v ≤ 16 := by cases v <;> decide

/-- Some channel trains: DRAM is there, from no less than 2^24 lines on. -/
theorem State.dramStep_trains {s : State} {k : Kindle} (howner : s.bsu.flash.owner = none)
    (hgood : ∃ c, c < Config.channels s.hw.variant ∧ c ∉ k.channelBad) (hranks : 1 ≤ k.ranks) :
    ∃ u, s.dramStep k true = .ok u ∧ u.hw = s.hw ∧ u.bsu = s.bsu ∧ u.pmu = s.pmu ∧ u.glb = { s.glb with rDram := u.glb.rDram } ∧
      2 ^ 24 ≤ u.popLines ∧ ∀ c, c < Config.channels s.hw.variant → (u.glb.rDram.testBit c = true ↔ c ∉ k.channelBad) := by
  let all := List.range (Config.channels s.hw.variant)
  let good := all.filter (fun c => !(k.channelBad.contains c))
  let t := s.each all (fun s c => s.modChan c (s.trained k good.length (good.contains c)))
  have hmem (c : Nat) : c ∈ good ↔ c < Config.channels s.hw.variant ∧ c ∉ k.channelBad := by simp [good, all]
  obtain ⟨c, hc⟩ := hgood
  have hpos : 0 < good.length := List.length_pos_of_mem ((hmem c).mpr hc)
  have ht : t.hw = s.hw ∧ t.bsu = s.bsu ∧ t.pmu = s.pmu ∧ t.glb = s.glb :=
    State.each_keeps (P := fun u => u.hw = s.hw ∧ u.bsu = s.bsu ∧ u.pmu = s.pmu ∧ u.glb = s.glb) ⟨rfl, rfl, rfl, rfl⟩ fun _ _ _ hu => hu
  obtain ⟨hhw, hbsu, hpmu, hglb⟩ := ht
  have hslots : (t.trained k good.length true {}).slots = 2 ^ (24 + k.density) * k.ranks := by
    unfold State.trained
    simp [hbsu, howner, Chan.slots]
  have hstep : s.dramStep k true = .ok { t with
      mem := { pop := good.length * (t.trained k good.length true {}).slots, nchan := good.length }
      glb := { t.glb with rDram := packBits 16 (fun c => good.contains c) } } := by
    have hgood : (!good.isEmpty) = true := by cases hg : good <;> simp_all
    unfold State.dramStep
    simp only [howner, Option.isSome_none, Bool.not_false, Bool.true_or, Kin.check, if_true, bind, Except.bind]
    rw [if_pos hgood]
  rw [hstep]
  refine ⟨_, rfl, hhw, hbsu, hpmu, by rw [hglb], ?_, fun c hc => ?_⟩
  · show 2 ^ 24 ≤ good.length * (t.trained k good.length true {}).slots
    rw [hslots]
    calc 2 ^ 24 ≤ 2 ^ (24 + k.density) := Nat.pow_le_pow_right (by decide) (Nat.le_add_right ..)
      _ ≤ 2 ^ (24 + k.density) * k.ranks := Nat.le_mul_of_pos_right _ hranks
      _ ≤ good.length * (2 ^ (24 + k.density) * k.ranks) := Nat.le_mul_of_pos_left _ hpos
  · show (packBits 16 fun c => good.contains c).testBit c = true ↔ c ∉ k.channelBad
    rw [packBits_testBit, decide_eq_true (Nat.lt_of_lt_of_le hc (channels_le _)), Bool.true_and, List.contains_iff_mem, hmem]
    simp [hc]

theorem rootLines_le (s : State) : s.rootLines ≤ 2 ^ 24 := by
  unfold State.rootLines
  cases s.hw.variant <;> decide

/-- With no DRAM section the root table has its place at the end of DRAM. -/
theorem State.placeStep_noSections {s : State} {b : Boot} (hpop : 2 ^ 24 ≤ s.popLines) (hsecs : ∀ x ∈ b.secs, x.kind ≠ 2) :
    ∃ m root, s.placeStep b = .ok { s with mem := m, bsu := { s.bsu with roottab := root } } := by
  have hroot := rootLines_le s
  have hnone : b.secs.filter (fun x => decide (x.kind = 2)) = [] := List.filter_eq_nil_iff.mpr fun x hx => by simpa using hsecs x hx
  unfold State.placeStep
  rw [hnone]
  dsimp only [List.map_nil]
  rw [if_pos]
  · exact ⟨_, _, rfl⟩
  · simp [pairwise]
    omega

/-- The units are ready, and the ports stand at their reset. -/
theorem State.unitStep_ready {s : State} {k : Kindle} (howner : s.bsu.flash.owner = none) (hphy : 0 ∉ k.phyBad) :
    ∃ u, s.unitStep k = .ok u ∧ u.hw = s.hw ∧ u.bsu = s.bsu ∧ u.pmu = s.pmu ∧
      u.glb = { s.glb with rEau := true, rDdu := true, rIcu := true, rLanes := u.glb.rLanes } := by
  have hnat (off n : Nat) : s.ownerNat off n = 0 := by rw [State.ownerNat, howner]
  have hstep : s.unitStep k = .ok (s.unitsUp.portsUp k.phyBad) := by
    unfold State.unitStep
    simp only [hnat, Kin.check, bind, Except.bind]
    simp [bit, hphy]
  have hports : ∀ v : State, (v.portsUp k.phyBad).hw = v.hw ∧ (v.portsUp k.phyBad).bsu = v.bsu ∧ (v.portsUp k.phyBad).pmu = v.pmu ∧
      (v.portsUp k.phyBad).glb = v.glb := fun v =>
    State.each_keeps (P := fun u => u.hw = v.hw ∧ u.bsu = v.bsu ∧ u.pmu = v.pmu ∧ u.glb = v.glb) ⟨rfl, rfl, rfl, rfl⟩ fun _ _ _ hu => hu
  obtain ⟨hhw, hbsu, hpmu, hglb⟩ := hports s.unitsUp
  exact ⟨_, hstep, hhw, hbsu, hpmu, by rw [hglb]; rfl⟩

/-! ### Step 12: the device runs (R629, R648) -/

theorem State.goStep_runs (s : State) : s.goStep.glb = s.glb ∧ s.goStep.pmu = { s.pmu with dev := .run } ∧
    s.goStep.bsu = { s.bsu with bootCode := 0, haltN := true } ∧ s.goStep.rng.intake = true := by
  unfold State.goStep
  dsimp only
  generalize hv : ({ s with rng := _, bsu := _, pmu := _ } : State) = v
  have harmed : Inside v (v.each (List.range (8 * Config.clusters s.hw.variant)) State.armCore) := .each State.armCore_inside _ v
  rw [harmed.glb, harmed.pmu, harmed.bsu, harmed.rng, ← hv]
  exact ⟨rfl, rfl, rfl, rfl⟩

theorem State.releaseStep_spine (s : State) : s.releaseStep.spine = s.spine := by
  unfold State.releaseStep
  split <;> rfl

/-! ### Steps 4 to 12 -/

/-- Kindling from step 7 on: cluster 0 and some channel are good, and there is no owner configuration and no DRAM section. -/
structure PartGood (s : State) (k : Kindle) (b : Boot) : Prop where
  cluster : s.cluPresent 0 = true
  avs : k.avsAck = true
  clusterOk : 0 ∉ k.clusterBad
  channel : ∃ c, c < Config.channels s.hw.variant ∧ c ∉ k.channelBad
  ranks : 1 ≤ k.ranks
  phy : 0 ∉ k.phyBad
  secs : ∀ x ∈ b.secs, x.kind ≠ 2

/-- Where a good kindling leaves the device, when BSU has found out `told`. -/
structure Running (s u : State) (k : Kindle) (told : Bool × Nat × Nat × Fuses × Nat × Option (List Octet)) : Prop where
  dev : u.pmu.dev = .run
  bootCode : u.bsu.bootCode = 0
  haltN : u.bsu.haltN = true
  told : u.bsu.told = told
  units : u.glb.rEau = true ∧ u.glb.rDdu = true ∧ u.glb.rIcu = true
  intake : u.rng.intake = true
  cluster : ZeroUp u
  dram : ∀ c, c < Config.channels s.hw.variant → (u.glb.rDram.testBit c = true ↔ c ∉ k.channelBad)

theorem Bsu.owner_of_told {x y : Bsu} (h : x.told = y.told) : x.flash.owner = y.flash.owner := congrArg (fun z => z.2.2.2.2.2) h

/-- Steps 7 to 12. -/
def State.kindle7 (s : State) (k : Kindle) (b : Boot) : Kin := do
  let s := s.clusStep k
  let s ← Kin.check s (decide (s.glb.rClu ≠ 0)) 0x51
  let s ← s.dramStep k true
  let s ← s.placeStep b
  let s ← s.unitStep k
  .ok s.releaseStep.goStep

theorem State.kindle7_runs {s : State} {k : Kindle} {b : Boot} (h : PartGood s k b) (howner : s.bsu.flash.owner = none) :
    ∃ u, s.kindle7 k b = .ok u ∧ Running s u k s.bsu.told := by
  obtain ⟨hhw, htold, hup⟩ := State.clusStep_zero h.cluster h.avs h.clusterOk
  have hready : decide ((s.clusStep k).glb.rClu ≠ 0) = true := by
    refine decide_eq_true fun h0 => ?_
    have hbit := hup.2
    rw [State.cluReady, h0, Nat.zero_testBit] at hbit
    exact Bool.false_ne_true hbit
  obtain ⟨d, hd, dhw, dbsu, dpmu, dglb, dpop, dram⟩ := State.dramStep_trains (s := s.clusStep k) (k := k)
    ((Bsu.owner_of_told htold).trans howner) (hhw ▸ h.channel) h.ranks
  obtain ⟨m, root, hm⟩ := State.placeStep_noSections dpop h.secs
  obtain ⟨v, hv, vhw, vbsu, vpmu, vglb⟩ := State.unitStep_ready (s := { d with mem := m, bsu := { d.bsu with roottab := root } }) (k := k)
    (by rw [dbsu]; exact (Bsu.owner_of_told htold).trans howner) h.phy
  obtain ⟨gglb, gpmu, gbsu, gintake⟩ := v.releaseStep.goStep_runs
  have hrelease := v.releaseStep_spine
  simp only [State.spine, Prod.mk.injEq] at hrelease
  obtain ⟨-, rglb, rpmu, rbsu⟩ := hrelease
  refine ⟨v.releaseStep.goStep, ?_, ?_⟩
  · unfold State.kindle7
    simp only [Kin.check, hready, if_true, bind, Except.bind, hd, hm, hv]
  · have hglb : v.releaseStep.goStep.glb = { (s.clusStep k).glb with
        rEau := true, rDdu := true, rIcu := true, rLanes := v.glb.rLanes, rDram := d.glb.rDram } := by
      rw [gglb, rglb, vglb, dglb]
    have hpmu : v.releaseStep.goStep.pmu = { (s.clusStep k).pmu with dev := .run } := by
      rw [gpmu, rpmu, vpmu, dpmu]
    refine ⟨by rw [hpmu], by rw [gbsu], by rw [gbsu], ?_, by rw [hglb]; exact ⟨rfl, rfl, rfl⟩, gintake, ⟨?_, ?_⟩, fun c hc => ?_⟩
    · rw [gbsu, rbsu, vbsu, dbsu, ← htold]
      rfl
    · rw [State.cluPower, hpmu]
      exact hup.1
    · rw [State.cluReady, hglb]
      exact hup.2
    · rw [hglb]
      exact dram c (hhw ▸ hc)

/-! ### The whole sequence -/

theorem exec_pwrOkRise {s : State} {k : Kindle} (hdev : s.pmu.dev = .reset) (hcause : s.pmu.causeFrom < 2) :
    exec (.pwrOkRise k) s = .next ((s.sample k).kindle1 k) := by
  refine congrArg Host.Outcome.next ?_
  rw [if_neg (fun h => h hdev), if_neg (by omega), if_neg (by omega)]

theorem State.kindle1_cold {s : State} {k : Kindle} (hmode : s.bsu.bootMode ≠ 3) (hrec : s.bsu.recovery = false) (hrom : RomGood s k) :
    s.kindle1 k = s.showFuses.kindle4 k true := by
  unfold State.kindle1
  rw [if_neg hmode, State.romSteps_good hrom]
  exact if_neg fun h => Bool.false_ne_true (hrec.symm.trans h)

/-- Steps 4 to 6, and the steps that follow. -/
theorem State.kindle4_slotA {s : State} {k : Kindle} {da db : List Octet} {b : Boot} (hflash : k.bootFlash = some (da, db))
    (ha : s.verdict da = (7, some b)) (hb : (s.verdict db).1 ≠ 7) (hareas : k.badAreas = []) (hsec : b.section_ 3 = none)
    (howner : s.bsu.flash.owner = none) : ∃ x, s.kindle4 k true = Kin.state (State.kindle7 { s with bsu := x } k b) ∧
      x.told = (false, 7, (s.verdict db).1, { s.bsu.fuses with revoked := s.bsu.fuses.revoked ||| b.revoke },
        max s.bsu.flash.minver b.minset, none) := by
  obtain ⟨x, hx, htold⟩ := State.bootSteps_slotA hflash ha hb
  have hparts := htold
  simp only [Bsu.told, Prod.mk.injEq] at hparts
  obtain ⟨hslot, hva, hvb, hfuses, hmin, hown⟩ := hparts
  obtain ⟨y, hy, ytold⟩ := State.storeStep_noOwner (s := { s with bsu := x }) (hown.trans howner) hsec
  refine ⟨y, ?_, ?_⟩
  · unfold State.kindle4
    rw [hx]
    simp only [bind, Except.bind, hy, hareas, Kin.check, List.contains_nil, Bool.not_false, if_true]
    rfl
  · rw [ytold, hslot, hva, hvb, hfuses, hmin]

/-- Settles O58: step by step through the sequence of R630. -/
theorem kindlingReachesRun : Obligations.KindlingReachesRun := by
  intro s k da db b hdev hcause hmode hrec hself hfuses hflash hareas hvendor hboot ha hb hsec hsecs howner hpresent havs hclu hchan hranks hphy
  have hrom : RomGood (s.sample k) k := ⟨hself, hfuses, hflash, hareas, hvendor⟩
  have hverdict (d : List Octet) : (s.sample k).showFuses.verdict d = s.verdict d := State.verdict_congr rfl rfl d
  obtain ⟨x, hkindle, htold⟩ := State.kindle4_slotA (s := (s.sample k).showFuses) hboot ((hverdict da).trans ha)
    (by rw [hverdict]; exact hb) hareas hsec howner
  obtain ⟨u, hu, hrun⟩ := State.kindle7_runs (s := { (s.sample k).showFuses with bsu := x }) (b := b)
    ⟨hpresent, havs, hclu, hchan, hranks, hphy, hsecs⟩ (congrArg (fun z => z.2.2.2.2.2) htold)
  have hend : exec (.pwrOkRise k) s = .next u := by
    rw [exec_pwrOkRise hdev hcause, State.kindle1_cold hmode hrec hrom, hkindle, hu]
    rfl
  have hparts := hrun.told.trans htold
  simp only [Bsu.told, Prod.mk.injEq, hverdict] at hparts
  obtain ⟨hslot, hva, hvb, hfu, hmin, -⟩ := hparts
  obtain ⟨heau, hddu, hicu⟩ := hrun.units
  obtain ⟨hpower, hready⟩ := hrun.cluster
  exact ⟨u, hend, hrun.dev, hrun.bootCode, hrun.haltN, hslot, hva, hvb, hmin, by rw [hfu]; rfl, heau, hddu, hicu, hrun.intake, hpower,
    hready, hrun.dram⟩

end Sys2Proof.Machine
end
